-- ==== Sys2Proof/Word.lean ====
section
/-! DEFINITION. The plainest types of the model: a byte (00_scope.md R11) and the two names the model gives to data that
may be absent. Bit-field, sign and byte-order helpers stand in `Machine/Bits.lean`. -/

namespace Sys2Proof

/-- A byte is 8 bits (00_scope.md R11). -/
abbrev Byte := BitVec 8

/-- A register that the spec's reset table leaves "unwritten" (10_state.md R41): `none` is the spec's own state "holds no
value", not a missing reset value; reading it raises `LogicError(UnwrittenState)`. -/
abbrev Reg (α : Type) := Option α

end Sys2Proof
end

