-- ==== Sys2Proof/Config.lean ====
section
/-! DEFINITION. What an implementation fixes: the parameters of 00_scope.md R9 and R10 at the values the spec decides, the
configuration functions it leaves OPEN (opaque), and the free values (opaque). -/

namespace Sys2Proof

/-- The configuration record of an encode session: the `CFG_*` registers (10_state.md R50), written together by `ENC_INIT`. -/
structure EncConfig where
  channels : Nat
  bps : Nat
  sampleRate : Nat
  blocksize : Nat
  minBlocksize : Nat
  maxBlocksize : Nat
  totalSamples : Nat
  stereoTrial : Bool
  maxLpcOrder : Nat
  qlpPrec : Nat
  maxPorder : Nat
  method : Nat
  siLast : Bool
  deriving DecidableEq, Repr

/-- What `lpc_analyze` answers (44_predictor.md R262): the coefficients, newest sample first, and the shift; the order is
the number of coefficients. -/
structure LpcResult where
  coefs : List Int
  shift : Nat
  deriving DecidableEq, Repr

/-- What `select_subframe` answers (44_predictor.md R271): the wasted bits, the type, the order (and, for LPC, the
coefficients the function chose). -/
inductive SfChoice
  | constant (wasted : Nat)
  | verbatim (wasted : Nat)
  | fixed (wasted order : Nat)
  | lpc (wasted : Nat) (r : LpcResult)
  deriving DecidableEq, Repr

/-- How one partition is coded (45_residual.md R286, R287): with a Rice parameter, or escaped at a raw width. -/
inductive PartChoice
  | rice (k : Nat)
  | esc (width : Nat)
  deriving DecidableEq, Repr

/-- What `select_partitioning` answers (45_residual.md R291). -/
structure PartTable where
  method : Nat
  porder : Nat
  parts : List PartChoice
  deriving DecidableEq, Repr

/-- The four configuration functions that the spec leaves OPEN (00_scope.md R10, 93 I1 to I4). An answer `none` of the first
three stands for the spec's reference function; an answer outside the function's contract is not used (the machine checks
each contract where it uses the function: `Machine/Select.lean`). -/
structure Selections where
  stereo : EncConfig → List Int → List Int → Option Nat
  subframe : EncConfig → Nat → List Int → Option SfChoice
  partitioning : EncConfig → Nat → Nat → List Int → Option PartTable
  lpcAnalyze : List Int → Nat → Nat → Option LpcResult
  deriving Inhabited

/-- The selections the spec's worked programs use: the reference functions, and an analysis that finds no predictor
(95_test_vectors.md uses `CFG_MAX_LPC_ORDER = 0` throughout). For tests only; the machine uses `Config.selections`. -/
def Selections.reference : Selections where
  stereo _ _ _ := none
  subframe _ _ _ := none
  partitioning _ _ _ _ := none
  lpcAnalyze _ _ _ := none

/-- `BIT_ORDER` (00_scope.md R10, R11): which bit of a byte comes first in a bit string. -/
inductive BitOrder
  | msbFirst | lsbFirst
  deriving DecidableEq, Repr

/-- `UNARY_FORM` (00_scope.md R10): a number is that many bits, none of them the stop bit, then the stop bit. -/
structure UnaryForm where
  stop : Bool
  deriving DecidableEq, Repr

/-- The parameters of a CRC of `width` bits (00_scope.md R10). -/
structure CrcParams (width : Nat) where
  poly : BitVec width
  init : BitVec width
  refIn : Bool
  refOut : Bool
  xorOut : BitVec width
  deriving DecidableEq, Repr

/-- `HASH_ALGORITHM` (00_scope.md R10). -/
inductive HashAlgorithm
  | md5Rfc1321
  deriving DecidableEq, Repr

/-- The order of the bytes of a sample in the hash. -/
inductive ByteOrder
  | little | big
  deriving DecidableEq, Repr

/-- The order of the samples of a block in the hash: all channels of a moment together, or all moments of a channel. -/
inductive SampleOrder
  | sampleMajor | channelMajor
  deriving DecidableEq, Repr

/-- `HASH_SAMPLE_FORM` (00_scope.md R10): each sample in two's complement; `sampleBytes` is its size at a bit depth. -/
structure HashSampleForm where
  byteOrder : ByteOrder
  sampleBytes : Nat → Nat
  order : SampleOrder

/-- The metadata block types that ZMD names (00_scope.md R10). -/
inductive MbType
  | streamInfo | padding | application | seekTable | vorbisComment | cueSheet | picture
  deriving DecidableEq, Repr

/-- A row of `RICE_METHODS` (00_scope.md R10): the width of the parameter field, the largest parameter, the escape code. -/
structure RiceMethod where
  width : Nat
  maxParam : Nat
  escape : Nat
  deriving DecidableEq, Repr

/-- `ESC_RAW_FORM` (00_scope.md R10, 45_residual.md R288). -/
inductive EscForm
  | zigzagUnsigned
  | twosComplement
  deriving DecidableEq, Repr

/-- The operations of 30_encoding.md R100, by name. -/
inductive Cmd
  | streamReset | inPush | inEof | outPull | pcmPop | mdPop | reportPop | pcmPush | siPop
  | brReadU | brReadS | brReadUnary | brReadRice | brAlign | brReadBytes | brReadCoded
  | bwWriteU | bwWriteS | bwWriteUnary | bwWriteRice | bwAlign | bwWriteBytes | bwWriteCoded
  | crc8Reset | crc8Update | crc16Reset | crc16Update | md5Reset | md5Update | md5UpdatePcm | md5Final
  | mkRead | mbhRead | siRead | siValidate | mbReadBody | fhParse | fhValidate | mdseqCheck | mkWrite | mbhWrite
  | siWrite | fhWrite
  | sfDec | sfDecConstant | sfDecVerbatim | sfDecFixed | sfDecLpc | fixedRestore | lpcRestore | fixedResidual
  | lpcResidual | lpcAnalyze | sfEncConstant | sfEncVerbatim | sfEncFixed | sfEncLpc | sfSelect
  | resDecode | resEncode | riceParamSelect | partSelect
  | decStep | decFrame | chDecorrInv | decFlush
  | encInit | encBlock | encFinish | chDecorrFwd | stereoSelect
  | seekLoad | seekLookup
  deriving DecidableEq, Repr

/-- Every operation, in the order of R100. -/
def Cmd.all : List Cmd :=
  [.streamReset, .inPush, .inEof, .outPull, .pcmPop, .mdPop, .reportPop, .pcmPush, .siPop] ++
  [.brReadU, .brReadS, .brReadUnary, .brReadRice, .brAlign, .brReadBytes, .brReadCoded] ++
  [.bwWriteU, .bwWriteS, .bwWriteUnary, .bwWriteRice, .bwAlign, .bwWriteBytes, .bwWriteCoded] ++
  [.crc8Reset, .crc8Update, .crc16Reset, .crc16Update, .md5Reset, .md5Update, .md5UpdatePcm, .md5Final] ++
  [.mkRead, .mbhRead, .siRead, .siValidate, .mbReadBody, .fhParse, .fhValidate, .mdseqCheck, .mkWrite, .mbhWrite,
    .siWrite, .fhWrite] ++
  [.sfDec, .sfDecConstant, .sfDecVerbatim, .sfDecFixed, .sfDecLpc, .fixedRestore, .lpcRestore, .fixedResidual,
    .lpcResidual, .lpcAnalyze, .sfEncConstant, .sfEncVerbatim, .sfEncFixed, .sfEncLpc, .sfSelect] ++
  [.resDecode, .resEncode, .riceParamSelect, .partSelect] ++
  [.decStep, .decFrame, .chDecorrInv, .decFlush] ++
  [.encInit, .encBlock, .encFinish, .chDecorrFwd, .stereoSelect] ++
  [.seekLoad, .seekLookup]

/-- The counters whose registers the spec lets count past their width (log 8). -/
inductive Counter
  | mbCount | resyncs | framesOk | samplesOk | encMaxFs
  deriving DecidableEq, Repr

namespace Config

/-! ### What the spec leaves open: each value a function of the state and operands of its operation (00_scope.md R3) -/

/-- The configuration functions of this implementation: fixed for its life, otherwise unknown (DESIGN CHOICE, log 6). -/
opaque selections : Selections

/-- What a counter of `w` bits that holds `old` takes when the exact count, `exact`, does not fit: a free value (log 8). -/
opaque beyondWidth (w : Nat) (c : Counter) (old exact : Nat) : BitVec w

/-- What `PART_SELECT` writes into `RC_PARAM[i]` of an escaped partition: a free value of the range 0..30 of 10_state.md R36.
`old` is what the register held, the other arguments all that the operation works on (log 22). -/
opaque otherParam (cfg : EncConfig) (n o : Nat) (res : List Int) (i : Nat) (old : Reg Nat) : Fin 31

/-- What `PART_SELECT` writes into `RC_RAW[i]` of a partition that is not escaped: a free value of the range 0..31 of 10_state.md
R36, of the same arguments (log 22). -/
opaque otherRaw (cfg : EncConfig) (n o : Nat) (res : List Int) (i : Nat) (old : Reg Nat) : Fin 32

/-- The answer of `FIXED_RESIDUAL` (`none`) and of `LPC_RESIDUAL` (its coefficients and shift) for the block `xs`, the order being the
block size: a free value (log 34). -/
opaque emptyPeak (lpc : Option (List Int × Nat)) (xs : List Int) : Nat

/-! ### The parameters of 00_scope.md R10, at the values decided there (log 23) -/

/-- `BIT_ORDER` (D3). -/
def bitOrder : BitOrder := .msbFirst

/-- `CRC8_POLY`, `CRC8_INIT`, `CRC8_REFIN`, `CRC8_REFOUT`, `CRC8_XOROUT` (D7, 42_crc_hash.md R191). -/
def crc8 : CrcParams 8 := ⟨0x07#8, 0x00#8, false, false, 0x00#8⟩

/-- `CRC16_POLY`, `CRC16_INIT`, `CRC16_REFIN`, `CRC16_REFOUT`, `CRC16_XOROUT` (D8, 42_crc_hash.md R194). -/
def crc16 : CrcParams 16 := ⟨0x8005#16, 0x0000#16, false, false, 0x0000#16⟩

/-- `HASH_ALGORITHM` (D10). -/
def hashAlgorithm : HashAlgorithm := .md5Rfc1321

/-- `HASH_SAMPLE_FORM` (D11, 42_crc_hash.md R205). -/
def hashSampleForm : HashSampleForm := ⟨.little, fun bps => (bps + 7) / 8, .sampleMajor⟩

/-- `STREAM_MARKER` (D12, 30_encoding.md R102). -/
def streamMarker : List Byte := [0x66#8, 0x4C#8, 0x61#8, 0x43#8]

/-- `SYNC_CODE`, `SYNC_LEN` (D15, 30_encoding.md R110). -/
def syncCode : Nat := 0b11111111111110
def syncLen : Nat := 14

/-- The `MB_TYPE_*` codes (D13, 30_encoding.md R105). -/
def mbType : MbType → Nat
  | .streamInfo => 0
  | .padding => 1
  | .application => 2
  | .seekTable => 3
  | .vorbisComment => 4
  | .cueSheet => 5
  | .picture => 6

/-- `STREAMINFO_LEN` in bytes (D14, 30_encoding.md R106). -/
def streamInfoLen : Nat := 34

/-- `BLOCKSIZE_MIN`, `BLOCKSIZE_MAX` (D41), `SAMPLE_RATE_MAX` (D42). -/
def blocksizeMin : Nat := 1
def blocksizeMax : Nat := 65535
def sampleRateMax : Nat := 1048575

/-- `UNARY_FORM` (D22): zero bits, then one 1 bit. -/
def unaryForm : UnaryForm := ⟨true⟩

/-- `RICE_METHODS` (D21): methods 0 and 1. -/
def riceMethod (method : Nat) : RiceMethod := ⟨4 + method, 14 + 16 * method, 15 + 16 * method⟩
def riceMethodCount : Nat := 2

/-- `ESC_RAW_FORM` (D23). -/
def escRawForm : EscForm := .zigzagUnsigned

/-- `ESC_WIDTH_BITS` (D21), and the largest raw width it holds. -/
def escWidthBits : Nat := 5
def escWidthMax : Nat := 2 ^ escWidthBits - 1

/-- `QLP_PREC_BITS`, `QLP_SHIFT_BITS` (D20), and the largest precision and shift they allow. -/
def qlpPrecBits : Nat := 4
def qlpPrecMax : Nat := 2 ^ qlpPrecBits - 1
def qlpShiftBits : Nat := 5
def qlpShiftMax : Nat := 2 ^ (qlpShiftBits - 1) - 1

/-- `WASTED_BITS` (D17): supported. -/
def wastedBits : Bool := true

/-- `RESIDUAL_MIN`, `RESIDUAL_MAX` (D38, 45_residual.md R293). -/
def residualMin : Int := -2147483647
def residualMax : Int := 2147483647

/-- `CMD_OPCODES` (D2, 30_encoding.md R100). -/
def opcode : Cmd → Nat
  | .streamReset => 0x00
  | .inPush => 0x01
  | .inEof => 0x02
  | .outPull => 0x03
  | .pcmPop => 0x04
  | .mdPop => 0x05
  | .reportPop => 0x06
  | .pcmPush => 0x07
  | .siPop => 0x08
  | .brReadU => 0x10
  | .brReadS => 0x11
  | .brReadUnary => 0x12
  | .brReadRice => 0x13
  | .brAlign => 0x14
  | .brReadBytes => 0x15
  | .brReadCoded => 0x16
  | .bwWriteU => 0x20
  | .bwWriteS => 0x21
  | .bwWriteUnary => 0x22
  | .bwWriteRice => 0x23
  | .bwAlign => 0x24
  | .bwWriteBytes => 0x25
  | .bwWriteCoded => 0x26
  | .crc8Reset => 0x30
  | .crc8Update => 0x31
  | .crc16Reset => 0x32
  | .crc16Update => 0x33
  | .md5Reset => 0x34
  | .md5Update => 0x35
  | .md5UpdatePcm => 0x36
  | .md5Final => 0x37
  | .mkRead => 0x40
  | .mbhRead => 0x41
  | .siRead => 0x42
  | .siValidate => 0x43
  | .mbReadBody => 0x44
  | .fhParse => 0x45
  | .fhValidate => 0x46
  | .mdseqCheck => 0x47
  | .mkWrite => 0x48
  | .mbhWrite => 0x49
  | .siWrite => 0x4A
  | .fhWrite => 0x4B
  | .sfDec => 0x50
  | .sfDecConstant => 0x51
  | .sfDecVerbatim => 0x52
  | .sfDecFixed => 0x53
  | .sfDecLpc => 0x54
  | .fixedRestore => 0x55
  | .lpcRestore => 0x56
  | .fixedResidual => 0x57
  | .lpcResidual => 0x58
  | .lpcAnalyze => 0x59
  | .sfEncConstant => 0x5A
  | .sfEncVerbatim => 0x5B
  | .sfEncFixed => 0x5C
  | .sfEncLpc => 0x5D
  | .sfSelect => 0x5E
  | .resDecode => 0x60
  | .resEncode => 0x61
  | .riceParamSelect => 0x62
  | .partSelect => 0x63
  | .decStep => 0x70
  | .decFrame => 0x71
  | .chDecorrInv => 0x72
  | .decFlush => 0x73
  | .encInit => 0x78
  | .encBlock => 0x79
  | .encFinish => 0x7A
  | .chDecorrFwd => 0x7B
  | .stereoSelect => 0x7C
  | .seekLoad => 0x7E
  | .seekLookup => 0x7F

/-! ### Limits the spec states (00_scope.md R9, 10_state.md R42) -/

/-- `RICE_PARAM_MAX`. -/
def riceParamMax : Nat := 30

/-- `PART_ORDER_MAX`. -/
def partOrderMax : Nat := 8

/-- `FIXED_ORDER_MAX`, `LPC_ORDER_MAX`. -/
def fixedOrderMax : Nat := 4
def lpcOrderMax : Nat := 32

/-- A stream of this many bytes or more is outside the spec (R42). -/
def streamBytesLimit : Nat := 2305843009213693952

end Config
end Sys2Proof
end

