-- ==== Sys2Proof/Syntax.lean ====
section
/-! DEFINITION. The operations of the codec core (30_encoding.md R100), one constructor each, and the ten wire structures of
the opcode table's `WIRE<n>` rows (log 4). Operands are the spec's integers; which values a command word can carry is
`WellFormed.lean`'s business. -/

namespace Sys2Proof

inductive Instr
  -- session and host ports
  | streamReset (mode : Nat)
  | inPush (count : Nat)
  | inEof
  | outPull
  | pcmPop
  | mdPop
  | reportPop
  | pcmPush (blocksize : Nat)
  | siPop
  -- bit reader
  | brReadU (n : Nat)
  | brReadS (n : Nat)
  | brReadUnary
  | brReadRice (k : Nat)
  | brAlign
  | brReadBytes (count : Nat)
  | brReadCoded (maxBytes : Nat)
  -- bit writer
  | bwWriteU (n v : Nat)
  | bwWriteS (n : Nat) (v : Int)
  | bwWriteUnary (q : Nat)
  | bwWriteRice (k : Nat) (r : Int)
  | bwAlign
  | bwWriteBytes (count : Nat)
  | bwWriteCoded (v : Nat)
  -- checksums and hash
  | crc8Reset
  | crc8Update (count : Nat)
  | crc16Reset
  | crc16Update (count : Nat)
  | md5Reset
  | md5Update (count : Nat)
  | md5UpdatePcm
  | md5Final
  -- frame and metadata model
  | mkRead
  | mbhRead
  | siRead
  | siValidate
  | mbReadBody
  | fhParse
  | fhValidate
  | mdseqCheck (count : Nat)
  | mkWrite
  | mbhWrite (last b : Nat)
  | siWrite
  | fhWrite
  -- predictor
  | sfDec (c : Nat)
  | sfDecConstant
  | sfDecVerbatim
  | sfDecFixed
  | sfDecLpc
  | fixedRestore
  | lpcRestore
  | fixedResidual (order : Nat)
  | lpcResidual
  | lpcAnalyze
  | sfEncConstant
  | sfEncVerbatim
  | sfEncFixed
  | sfEncLpc
  | sfSelect (c : Nat)
  -- residual coder
  | resDecode
  | resEncode
  | riceParamSelect (kmax first count : Nat)
  | partSelect
  -- decoder
  | decStep
  | decFrame
  | chDecorrInv
  | decFlush
  -- encoder
  | encInit (b : Nat)
  | encBlock
  | encFinish
  | chDecorrFwd (ca : Nat)
  | stereoSelect
  -- seek index
  | seekLoad (len : Nat)
  | seekLookup (target : Nat)
  -- wire structures
  | wireMbHeader (last type length : Nat)
  | wireStreamInfo (minBs maxBs minFs maxFs rate ch bps total md5 : Nat)
  | wireFrameHeader (r v b s c d : Nat)
  | wireSfConstant (w : Nat)
  | wireSfVerbatim (w : Nat)
  | wireSfFixed (o w : Nat)
  | wireSfLpc (o w : Nat)
  | wireResHeader (m p : Nat)
  | wireSeekpoint (s o n : Nat)
  | wireFrameFooter (c : Nat)
  deriving DecidableEq, Repr

end Sys2Proof
end

