-- ==== Sys2Proof/WellFormed.lean ====
section
/-! DEFINITION. Which operand values a `CMD80` command (30_encoding.md R100) or a wire structure (R104 to R135) can carry.
Whether an operation accepts a value it can carry is the operation's business (a `LogicError` is an outcome, not an
ill-formed term). -/

namespace Sys2Proof

/-- The 8-bit operand `a`. -/
abbrev fitsA (v : Nat) : Prop := v < 2 ^ 8

/-- The 64-bit operand `b`. -/
abbrev fitsB (v : Nat) : Prop := v < 2 ^ 64

/-- A signed value carried as `tc_64` in `b`. -/
abbrev fitsB64 (v : Int) : Prop := -(2 ^ 63) ≤ v ∧ v < 2 ^ 63

/-- The operands of an instruction fit the fields that carry them. -/
abbrev Instr.WellFormed : Instr → Prop
  | .streamReset a | .brReadU a | .brReadS a | .brReadRice a | .brReadCoded a | .sfDec a | .fixedResidual a
  | .sfSelect a | .chDecorrFwd a => fitsA a
  | .inPush b | .pcmPush b | .brReadBytes b | .bwWriteUnary b | .bwWriteBytes b | .bwWriteCoded b | .crc8Update b
  | .crc16Update b | .md5Update b | .mdseqCheck b | .encInit b | .seekLoad b | .seekLookup b => fitsB b
  | .bwWriteU a b | .mbhWrite a b => fitsA a ∧ fitsB b
  | .bwWriteS a v | .bwWriteRice a v => fitsA a ∧ fitsB64 v
  | .riceParamSelect a f c => fitsA a ∧ f < 2 ^ 32 ∧ c < 2 ^ 32
  | .inEof | .outPull | .pcmPop | .mdPop | .reportPop | .siPop | .brReadUnary | .brAlign | .bwAlign | .crc8Reset
  | .crc16Reset | .md5Reset | .md5UpdatePcm | .md5Final | .mkRead | .mbhRead | .siRead | .siValidate | .mbReadBody
  | .fhParse | .fhValidate | .mkWrite | .siWrite | .fhWrite | .sfDecConstant | .sfDecVerbatim | .sfDecFixed | .sfDecLpc
  | .fixedRestore | .lpcRestore | .lpcResidual | .lpcAnalyze | .sfEncConstant | .sfEncVerbatim | .sfEncFixed
  | .sfEncLpc | .resDecode | .resEncode | .partSelect | .decStep | .decFrame | .chDecorrInv | .decFlush | .encBlock
  | .encFinish | .stereoSelect => True
  | .wireMbHeader l t n => l < 2 ∧ t < 2 ^ 7 ∧ n < 2 ^ 24
  | .wireStreamInfo a b f g r c d t h =>
      a < 2 ^ 16 ∧ b < 2 ^ 16 ∧ f < 2 ^ 24 ∧ g < 2 ^ 24 ∧ r < 2 ^ 20 ∧ c < 2 ^ 3 ∧ d < 2 ^ 5 ∧ t < 2 ^ 36 ∧ h < 2 ^ 128
  | .wireFrameHeader r v b s c d => r < 2 ∧ v < 2 ∧ b < 2 ^ 4 ∧ s < 2 ^ 4 ∧ c < 2 ^ 4 ∧ d < 2 ^ 3
  | .wireSfConstant w | .wireSfVerbatim w => w < 2
  | .wireSfFixed o w => o < 2 ^ 3 ∧ w < 2
  | .wireSfLpc o w => o < 2 ^ 5 ∧ w < 2
  | .wireResHeader m p => m < 2 ^ 2 ∧ p < 2 ^ 4
  | .wireSeekpoint s o n => s < 2 ^ 64 ∧ o < 2 ^ 64 ∧ n < 2 ^ 16
  | .wireFrameFooter c => c < 2 ^ 16

end Sys2Proof
end

