-- ==== Sys2Proof/Decode.lean ====
section
/-! DEFINITION. The decoder of command words and wire structures, total, rejecting by name; after it the encoder. Command
words: 30_encoding.md R100 (`op` 79:72, `a` 71:64, `b` 63:0). Wire structures: R104, R106, R107, R110, R121, R130, R135, in the
bit numbering of opcode_table.json (bit 0 least significant, first transmitted bit most significant). -/

namespace Sys2Proof

/-- The formats of opcode_table.json: `CMD80`, and one per wire structure. -/
inductive Form
  | cmd80
  | mbHeader
  | streamInfo
  | frameHeader
  | subframeHeader
  | resHeader
  | seekPoint
  | frameFooter
  deriving DecidableEq, Repr

/-- The width in bits of each format. -/
def Form.width : Form → Nat
  | .cmd80 => 80
  | .mbHeader => 32
  | .streamInfo => 272
  | .frameHeader => 32
  | .subframeHeader => 8
  | .resHeader => 6
  | .seekPoint => 144
  | .frameFooter => 16

/-- An encoded operation or structure: its format and its bits. -/
structure Code where
  form : Form
  bits : Nat
  deriving DecidableEq, Repr

/-- Why a word is no instruction. -/
inductive Reject
  /-- More bits than the format has. -/
  | tooWide
  /-- "An opcode not in the table" (R100). -/
  | unknownOpcode (op : Nat)
  /-- "Unused operand fields must be zero" (R100). -/
  | unusedNotZero (c : Cmd)
  /-- The fixed bits of the wire structure are not there. -/
  | otherStructure
  deriving DecidableEq, Repr

/-- The field of `width` bits whose least significant bit is bit `lo`. -/
def field (w lo width : Nat) : Nat := w / 2 ^ lo % 2 ^ width

/-- `bits < 2 ^ width`, in two halves, so that no power above `2 ^ 256` is formed. -/
def fitsWidth (bits width : Nat) : Bool := decide (bits / 2 ^ (width / 2) < 2 ^ (width - width / 2))

/-- `tc_64` (00_scope.md R13). -/
def tc64 (v : Int) : Nat := (v % 2 ^ 64).toNat

/-- `sext_64` (00_scope.md R13). -/
def sext64 (b : Nat) : Int := if b < 2 ^ 63 then (b : Int) else (b : Int) - 2 ^ 64

/-- The operation with opcode `op`, if there is one (R100). -/
def cmdOf (op : Nat) : Option Cmd := Cmd.all.find? fun c => Config.opcode c == op

/-- Operand shapes of R100: a field that an operation does not use must be zero. -/
def noOperand (c : Cmd) (a b : Nat) (i : Instr) : Except Reject Instr :=
  if a = 0 ∧ b = 0 then .ok i else .error (.unusedNotZero c)

def onlyA (c : Cmd) (a b : Nat) (f : Nat → Instr) : Except Reject Instr :=
  if b = 0 then .ok (f a) else .error (.unusedNotZero c)

def onlyB (c : Cmd) (a b : Nat) (f : Nat → Instr) : Except Reject Instr :=
  if a = 0 then .ok (f b) else .error (.unusedNotZero c)

/-- The command with opcode `op` and operands `a`, `b` (30_encoding.md R100). -/
def decodeCmd (op a b : Nat) : Except Reject Instr :=
  match cmdOf op with
  | none => .error (.unknownOpcode op)
  | some c =>
    match c with
    | .streamReset => onlyA c a b .streamReset
    | .inPush => onlyB c a b .inPush
    | .inEof => noOperand c a b .inEof
    | .outPull => noOperand c a b .outPull
    | .pcmPop => noOperand c a b .pcmPop
    | .mdPop => noOperand c a b .mdPop
    | .reportPop => noOperand c a b .reportPop
    | .pcmPush => onlyB c a b .pcmPush
    | .siPop => noOperand c a b .siPop
    | .brReadU => onlyA c a b .brReadU
    | .brReadS => onlyA c a b .brReadS
    | .brReadUnary => noOperand c a b .brReadUnary
    | .brReadRice => onlyA c a b .brReadRice
    | .brAlign => noOperand c a b .brAlign
    | .brReadBytes => onlyB c a b .brReadBytes
    | .brReadCoded => onlyA c a b .brReadCoded
    | .bwWriteU => .ok (.bwWriteU a b)
    | .bwWriteS => .ok (.bwWriteS a (sext64 b))
    | .bwWriteUnary => onlyB c a b .bwWriteUnary
    | .bwWriteRice => .ok (.bwWriteRice a (sext64 b))
    | .bwAlign => noOperand c a b .bwAlign
    | .bwWriteBytes => onlyB c a b .bwWriteBytes
    | .bwWriteCoded => onlyB c a b .bwWriteCoded
    | .crc8Reset => noOperand c a b .crc8Reset
    | .crc8Update => onlyB c a b .crc8Update
    | .crc16Reset => noOperand c a b .crc16Reset
    | .crc16Update => onlyB c a b .crc16Update
    | .md5Reset => noOperand c a b .md5Reset
    | .md5Update => onlyB c a b .md5Update
    | .md5UpdatePcm => noOperand c a b .md5UpdatePcm
    | .md5Final => noOperand c a b .md5Final
    | .mkRead => noOperand c a b .mkRead
    | .mbhRead => noOperand c a b .mbhRead
    | .siRead => noOperand c a b .siRead
    | .siValidate => noOperand c a b .siValidate
    | .mbReadBody => noOperand c a b .mbReadBody
    | .fhParse => noOperand c a b .fhParse
    | .fhValidate => noOperand c a b .fhValidate
    | .mdseqCheck => onlyB c a b .mdseqCheck
    | .mkWrite => noOperand c a b .mkWrite
    | .mbhWrite => .ok (.mbhWrite a b)
    | .siWrite => noOperand c a b .siWrite
    | .fhWrite => noOperand c a b .fhWrite
    | .sfDec => onlyA c a b .sfDec
    | .sfDecConstant => noOperand c a b .sfDecConstant
    | .sfDecVerbatim => noOperand c a b .sfDecVerbatim
    | .sfDecFixed => noOperand c a b .sfDecFixed
    | .sfDecLpc => noOperand c a b .sfDecLpc
    | .fixedRestore => noOperand c a b .fixedRestore
    | .lpcRestore => noOperand c a b .lpcRestore
    | .fixedResidual => onlyA c a b .fixedResidual
    | .lpcResidual => noOperand c a b .lpcResidual
    | .lpcAnalyze => noOperand c a b .lpcAnalyze
    | .sfEncConstant => noOperand c a b .sfEncConstant
    | .sfEncVerbatim => noOperand c a b .sfEncVerbatim
    | .sfEncFixed => noOperand c a b .sfEncFixed
    | .sfEncLpc => noOperand c a b .sfEncLpc
    | .sfSelect => onlyA c a b .sfSelect
    | .resDecode => noOperand c a b .resDecode
    | .resEncode => noOperand c a b .resEncode
    | .riceParamSelect => .ok (.riceParamSelect a (field b 32 32) (field b 0 32))
    | .partSelect => noOperand c a b .partSelect
    | .decStep => noOperand c a b .decStep
    | .decFrame => noOperand c a b .decFrame
    | .chDecorrInv => noOperand c a b .chDecorrInv
    | .decFlush => noOperand c a b .decFlush
    | .encInit => onlyB c a b .encInit
    | .encBlock => noOperand c a b .encBlock
    | .encFinish => noOperand c a b .encFinish
    | .chDecorrFwd => onlyA c a b .chDecorrFwd
    | .stereoSelect => noOperand c a b .stereoSelect
    | .seekLoad => onlyB c a b .seekLoad
    | .seekLookup => onlyB c a b .seekLookup

/-- The subframe header byte: type codes of 30_encoding.md R121, the wasted-bits flag in bit 0. -/
def decodeSubframeHeader (w : Nat) : Except Reject Instr :=
  if w < 2 then .ok (.wireSfConstant (field w 0 1))
  else if w < 4 then .ok (.wireSfVerbatim (field w 0 1))
  else if 16 ≤ w ∧ w < 32 then .ok (.wireSfFixed (field w 1 3) (field w 0 1))
  else if 64 ≤ w ∧ w < 128 then .ok (.wireSfLpc (field w 1 5) (field w 0 1))
  else .error .otherStructure

/-- 32 bits with the fixed bits of a frame header: the sync code first, the last bit 0 (30_encoding.md R110). -/
abbrev startsWithSync (w : Nat) : Prop := field w (32 - Config.syncLen) Config.syncLen = Config.syncCode ∧ field w 0 1 = 0

/-- The first four bytes of a frame header: 30_encoding.md R110. -/
def decodeFrameHeader (w : Nat) : Except Reject Instr :=
  if startsWithSync w then
    .ok (.wireFrameHeader (field w 17 1) (field w 16 1) (field w 12 4) (field w 8 4) (field w 4 4) (field w 1 3))
  else .error .otherStructure

/-- The decoder: total on every code. -/
def decode (c : Code) : Except Reject Instr :=
  if fitsWidth c.bits c.form.width then
    match c.form with
    | .cmd80 => decodeCmd (field c.bits 72 8) (field c.bits 64 8) (field c.bits 0 64)
    | .mbHeader => .ok (.wireMbHeader (field c.bits 31 1) (field c.bits 24 7) (field c.bits 0 24))
    | .streamInfo =>
        .ok (.wireStreamInfo (field c.bits 256 16) (field c.bits 240 16) (field c.bits 216 24) (field c.bits 192 24)
          (field c.bits 172 20) (field c.bits 169 3) (field c.bits 164 5) (field c.bits 128 36) (field c.bits 0 128))
    | .frameHeader => decodeFrameHeader c.bits
    | .subframeHeader => decodeSubframeHeader c.bits
    | .resHeader => .ok (.wireResHeader (field c.bits 4 2) (field c.bits 0 4))
    | .seekPoint => .ok (.wireSeekpoint (field c.bits 80 64) (field c.bits 16 64) (field c.bits 0 16))
    | .frameFooter => .ok (.wireFrameFooter (field c.bits 0 16))
  else .error .tooWide

/-- A command word (30_encoding.md R100). -/
def cmd (c : Cmd) (a b : Nat) : Code := ⟨.cmd80, Config.opcode c * 2 ^ 72 + a * 2 ^ 64 + b⟩

/-- The encoder: the code of an instruction, written from the tables of 30_encoding.md. -/
def encode : Instr → Code
  | .streamReset mode => cmd .streamReset mode 0
  | .inPush count => cmd .inPush 0 count
  | .inEof => cmd .inEof 0 0
  | .outPull => cmd .outPull 0 0
  | .pcmPop => cmd .pcmPop 0 0
  | .mdPop => cmd .mdPop 0 0
  | .reportPop => cmd .reportPop 0 0
  | .pcmPush blocksize => cmd .pcmPush 0 blocksize
  | .siPop => cmd .siPop 0 0
  | .brReadU n => cmd .brReadU n 0
  | .brReadS n => cmd .brReadS n 0
  | .brReadUnary => cmd .brReadUnary 0 0
  | .brReadRice k => cmd .brReadRice k 0
  | .brAlign => cmd .brAlign 0 0
  | .brReadBytes count => cmd .brReadBytes 0 count
  | .brReadCoded maxBytes => cmd .brReadCoded maxBytes 0
  | .bwWriteU n v => cmd .bwWriteU n v
  | .bwWriteS n v => cmd .bwWriteS n (tc64 v)
  | .bwWriteUnary q => cmd .bwWriteUnary 0 q
  | .bwWriteRice k r => cmd .bwWriteRice k (tc64 r)
  | .bwAlign => cmd .bwAlign 0 0
  | .bwWriteBytes count => cmd .bwWriteBytes 0 count
  | .bwWriteCoded v => cmd .bwWriteCoded 0 v
  | .crc8Reset => cmd .crc8Reset 0 0
  | .crc8Update count => cmd .crc8Update 0 count
  | .crc16Reset => cmd .crc16Reset 0 0
  | .crc16Update count => cmd .crc16Update 0 count
  | .md5Reset => cmd .md5Reset 0 0
  | .md5Update count => cmd .md5Update 0 count
  | .md5UpdatePcm => cmd .md5UpdatePcm 0 0
  | .md5Final => cmd .md5Final 0 0
  | .mkRead => cmd .mkRead 0 0
  | .mbhRead => cmd .mbhRead 0 0
  | .siRead => cmd .siRead 0 0
  | .siValidate => cmd .siValidate 0 0
  | .mbReadBody => cmd .mbReadBody 0 0
  | .fhParse => cmd .fhParse 0 0
  | .fhValidate => cmd .fhValidate 0 0
  | .mdseqCheck count => cmd .mdseqCheck 0 count
  | .mkWrite => cmd .mkWrite 0 0
  | .mbhWrite last b => cmd .mbhWrite last b
  | .siWrite => cmd .siWrite 0 0
  | .fhWrite => cmd .fhWrite 0 0
  | .sfDec c => cmd .sfDec c 0
  | .sfDecConstant => cmd .sfDecConstant 0 0
  | .sfDecVerbatim => cmd .sfDecVerbatim 0 0
  | .sfDecFixed => cmd .sfDecFixed 0 0
  | .sfDecLpc => cmd .sfDecLpc 0 0
  | .fixedRestore => cmd .fixedRestore 0 0
  | .lpcRestore => cmd .lpcRestore 0 0
  | .fixedResidual order => cmd .fixedResidual order 0
  | .lpcResidual => cmd .lpcResidual 0 0
  | .lpcAnalyze => cmd .lpcAnalyze 0 0
  | .sfEncConstant => cmd .sfEncConstant 0 0
  | .sfEncVerbatim => cmd .sfEncVerbatim 0 0
  | .sfEncFixed => cmd .sfEncFixed 0 0
  | .sfEncLpc => cmd .sfEncLpc 0 0
  | .sfSelect c => cmd .sfSelect c 0
  | .resDecode => cmd .resDecode 0 0
  | .resEncode => cmd .resEncode 0 0
  | .riceParamSelect kmax first count => cmd .riceParamSelect kmax (first * 2 ^ 32 + count)
  | .partSelect => cmd .partSelect 0 0
  | .decStep => cmd .decStep 0 0
  | .decFrame => cmd .decFrame 0 0
  | .chDecorrInv => cmd .chDecorrInv 0 0
  | .decFlush => cmd .decFlush 0 0
  | .encInit b => cmd .encInit 0 b
  | .encBlock => cmd .encBlock 0 0
  | .encFinish => cmd .encFinish 0 0
  | .chDecorrFwd ca => cmd .chDecorrFwd ca 0
  | .stereoSelect => cmd .stereoSelect 0 0
  | .seekLoad len => cmd .seekLoad 0 len
  | .seekLookup target => cmd .seekLookup 0 target
  | .wireMbHeader last type length => ⟨.mbHeader, last * 2 ^ 31 + type * 2 ^ 24 + length⟩
  | .wireStreamInfo minBs maxBs minFs maxFs rate ch bps total md5 =>
      ⟨.streamInfo, minBs * 2 ^ 256 + maxBs * 2 ^ 240 + minFs * 2 ^ 216 + maxFs * 2 ^ 192 + rate * 2 ^ 172 + ch * 2 ^ 169
        + bps * 2 ^ 164 + total * 2 ^ 128 + md5⟩
  | .wireFrameHeader r v b s c d =>
      ⟨.frameHeader, Config.syncCode * 2 ^ (32 - Config.syncLen) + r * 2 ^ 17 + v * 2 ^ 16 + b * 2 ^ 12 + s * 2 ^ 8 + c * 2 ^ 4 + d * 2⟩
  | .wireSfConstant w => ⟨.subframeHeader, w⟩
  | .wireSfVerbatim w => ⟨.subframeHeader, 2 + w⟩
  | .wireSfFixed o w => ⟨.subframeHeader, 16 + o * 2 + w⟩
  | .wireSfLpc o w => ⟨.subframeHeader, 64 + o * 2 + w⟩
  | .wireResHeader m p => ⟨.resHeader, m * 2 ^ 4 + p⟩
  | .wireSeekpoint s o n => ⟨.seekPoint, s * 2 ^ 80 + o * 2 ^ 16 + n⟩
  | .wireFrameFooter c => ⟨.frameFooter, c⟩

/-- Which format a table word of `nbits` bits is read in (log 27): two rows have 32 bits, told apart by the frame header's
fixed bits; a word of 8 bits is a subframe header where one of R121's patterns fits, else the 6-bit residual header in
whole bytes. -/
def tableForm (nbits w : Nat) : Option Form :=
  match nbits with
  | 80 => some .cmd80
  | 272 => some .streamInfo
  | 144 => some .seekPoint
  | 16 => some .frameFooter
  | 6 => some .resHeader
  | 32 => if startsWithSync w then some .frameHeader else some .mbHeader
  | 8 =>
      if w < 4 ∨ (16 ≤ w ∧ w < 32) ∨ (64 ≤ w ∧ w < 128) then some .subframeHeader
      else if w < 64 then some .resHeader else none
  | _ => none

/-- The code of a table word. -/
def tableCode (nbits w : Nat) : Option Code := (tableForm nbits w).map fun f => ⟨f, w⟩

/-- The instruction the decoder reads from a word of opcode_table.json. -/
def decodeTableWord (nbits w : Nat) : Option Instr :=
  match tableCode nbits w with
  | some c =>
    match decode c with
    | .ok i => some i
    | .error _ => none
  | none => none

end Sys2Proof
end

