-- ==== Sys2Proof/Machine/State.lean ====
section
/-! DEFINITION. The state of one session (10_state.md), plain data, and its reset (R60); the exceptions (60_exceptions.md
R370, R372); the outcomes handed to the issuer (00_scope.md R15). -/

namespace Sys2Proof.Machine

/-! ### Exceptions -/

/-- Sub-codes of `LogicError` (60_exceptions.md R372, R374). -/
inductive LogicSub
  | widthOutOfRange | valueOutOfRange | notAligned | badMode | badOperand | unwrittenState | faulted
  deriving DecidableEq, Repr

/-- Sub-codes of `ConfigError` (R372, R375). -/
inductive ConfigSub
  | channels | bitDepth | sampleRate | blockSize | parameter | streamTooLong
  deriving DecidableEq, Repr

/-- Sub-codes of `StructuralError` (R372, R376). -/
inductive StructSub
  | badMarker | noStreamInfo | badStreamInfoLength | duplicateStreamInfo | truncatedMetadata | inconsistentStreamInfo
  | multipleLast
  deriving DecidableEq, Repr

/-- Sub-codes of `SyncError` (R372, R377). -/
inductive SyncSub
  | badSync | headerReserved | badCodedNumber | headerCrc8 | headerMismatch | subframeReserved | badResidual | rangeError
  | badPadding | frameCrc16 | truncated
  deriving DecidableEq, Repr

/-- Sub-codes of `Unsupported` (R372, R378). -/
inductive UnsupportedSub
  | channelAssignment | bitDepthCode
  deriving DecidableEq, Repr

/-- The eight exception classes (R370). -/
inductive Exc
  | endOfStream
  | logic (sub : LogicSub)
  | config (sub : ConfigSub)
  | structural (sub : StructSub)
  | sync (sub : SyncSub)
  | unsupported (sub : UnsupportedSub)
  | integrity
  | noAudio
  deriving DecidableEq, Repr

/-! ### Sequencer states -/

/-- `MODE` (R21). -/
inductive Mode
  | idle | decode | encode
  deriving DecidableEq, Repr

/-- `DSTATE` (R22). -/
inductive DState
  | init | readStreamInfo | readMetadata | synced | resync | done | fatalError
  deriving DecidableEq, Repr

/-- `ESTATE` (R52). -/
inductive EState
  | idle | ready | finished | failed
  deriving DecidableEq, Repr

/-- `VERDICT` (R30). -/
inductive Verdict
  | none | notVerified | match_ | mismatch
  deriving DecidableEq, Repr

/-- `SF_TYPE` (R34). -/
inductive SfType
  | constant | verbatim | fixed | lpc
  deriving DecidableEq, Repr

/-! ### Register groups -/

/-- The content-hash engine (R28). `buf` holds the meaningful entries of `MD5_BUF`, the first `MD5_LEN mod 64`: a block that
is absorbed leaves the buffer empty (42_crc_hash.md R207). -/
structure Md5Regs where
  a : BitVec 32
  b : BitVec 32
  c : BitVec 32
  d : BitVec 32
  len : Nat
  buf : List Byte
  done : Bool
  digest : Reg (BitVec 128)
  deriving DecidableEq, Repr

/-- The `SI_*` registers but for `SI_VALID` (R31); they are always written together. `md5` has digest byte 0 in its most
significant byte (30_encoding.md R106). -/
structure StreamInfo where
  minBlocksize : Nat
  maxBlocksize : Nat
  minFramesize : Nat
  maxFramesize : Nat
  sampleRate : Nat
  channels : Nat
  bps : Nat
  totalSamples : Nat
  md5 : BitVec 128
  deriving DecidableEq, Repr

/-- `MB_LAST`, `MB_TYPE`, `MB_LENGTH` (R32); they are always written together. -/
structure MbHeader where
  last : Bool
  type : Nat
  length : Nat
  deriving DecidableEq, Repr

/-- The `FH_*` registers (R33). -/
structure FhRegs where
  variable_ : Reg Nat
  bsCode : Reg Nat
  srCode : Reg Nat
  chanAssign : Reg Nat
  bpsCode : Reg Nat
  number : Reg Nat
  blocksize : Reg Nat
  sampleRate : Reg Nat
  channels : Reg Nat
  bps : Reg Nat
  crc8 : Reg (BitVec 8)
  reserved : Reg Nat
  start : Reg Nat
  firstSample : Reg Nat
  valid : Bool
  deriving DecidableEq, Repr

/-- The `SF_*` registers (R34). -/
structure SfRegs where
  type : Reg SfType
  order : Reg Nat
  wasted : Reg Nat
  bps : Reg Nat
  ch : Reg Nat
  deriving DecidableEq, Repr

/-- One entry of the partition table: `RC_ESC`, `RC_PARAM`, `RC_RAW` (R36). -/
structure RcEntry where
  esc : Bool
  param : Reg Nat
  raw : Reg Nat
  deriving DecidableEq, Repr

/-- The residual-coder registers (R36). The written entries of the table are a leading run (they are written in order). -/
structure RcRegs where
  method : Reg Nat
  porder : Reg Nat
  table : List RcEntry
  deriving DecidableEq, Repr

/-- A point of the seek table (R54). -/
structure SeekPoint where
  sample : Nat
  offset : Nat
  nsamples : Nat
  deriving DecidableEq, Repr

/-! ### Queue entries -/

/-- An entry of `PCM_OUT` (R40). -/
structure PcmBlock where
  firstSample : Nat
  blocksize : Nat
  channels : Nat
  bps : Nat
  sampleRate : Nat
  samples : List (List Int)
  deriving DecidableEq, Repr

/-- An entry of `MD_OUT` (R40). -/
structure MdBlock where
  type : Nat
  last : Bool
  length : Nat
  body : List Byte
  deriving DecidableEq, Repr

/-- How a `Resync` ended (60_exceptions.md R372). -/
inductive ResyncHow
  | found | eof
  deriving DecidableEq, Repr

/-- An entry of `REPORT` (R372). -/
inductive ReportEntry
  | exception (code sub pos : Nat)
  | resync (start stop : Nat) (how : ResyncHow)
  | final (verdict : Verdict) (framesOk samplesOk resyncs : Nat)
  deriving DecidableEq, Repr

/-- An entry of `PCM_IN` (R53). -/
structure PcmIn where
  blocksize : Nat
  samples : List (List Int)
  deriving DecidableEq, Repr

/-! ### The command port -/

/-- An entry of the block list of `MDSEQ_CHECK` (43_frame_model.md R225). -/
structure MdEntry where
  type : Nat
  last : Bool
  length : Nat
  deriving DecidableEq, Repr

/-- The payload carried beside a command (30_encoding.md R100). -/
inductive Payload
  | none
  | bytes (bs : List Byte)
  | samples (rows : List (List Int))
  | blocks (bs : List MdEntry)
  | config (c : EncConfig)
  deriving DecidableEq, Repr

/-- An operation as the issuer hands it over: its code and its payload. -/
structure Issue where
  code : Code
  payload : Payload
  deriving DecidableEq, Repr

/-- The result of an `Ok` outcome (00_scope.md R15; the result column of R100's table). -/
inductive Result
  | none
  | nat (n : Nat)
  | int (i : Int)
  | bytes (bs : List Byte)
  | block (b : Option PcmBlock)
  | metadata (b : Option MdBlock)
  | report (r : Option ReportEntry)
  | siBody (b : Option (List Byte))
  | dstate (d : DState)
  | order (o : Option Nat)
  | offset (o : Option Nat)
  | riceParam (k cost : Nat)
  deriving DecidableEq, Repr

/-- The outcome of an operation as its issuer sees it (R15). -/
inductive Reply
  | ok (r : Result)
  | hold
  | fault (e : Exc)
  deriving DecidableEq, Repr

/-! ### The state -/

/-- The state of one session. Registers are the spec's integers at the spec's widths (00_scope.md R12: every store is
exact; their widths stand in INVENTORY.md and `Safety.lean`); what the spec treats as bits is a bit vector. Arrays are lists of their
written entries (each array is written from index 0 up); `smp` has one row per channel. -/
structure State where
  mode : Mode
  dstate : DState
  estate : EState
  status : BitVec 16
  verdict : Verdict
  fatalCode : Nat
  fatalSub : Nat
  input : List Byte
  inEof : Bool
  brPos : Nat
  out : List Bool
  outRd : Nat
  crc8 : BitVec 8
  crc16 : BitVec 16
  md5 : Md5Regs
  si : Reg StreamInfo
  siValid : Bool
  mb : Reg MbHeader
  mbCount : Nat
  fh : FhRegs
  sf : SfRegs
  qlp : List Int
  qlpPrec : Reg Nat
  qlpShift : Reg Nat
  rc : RcRegs
  res : List Int
  smp : List (List Int)
  framesOk : Nat
  samplesOk : Nat
  skipStart : Nat
  firstFramePos : Nat
  resyncs : Nat
  pcmOut : List PcmBlock
  mdOut : List MdBlock
  report : List ReportEntry
  pcmIn : List PcmIn
  siOut : List (List Byte)
  cfg : Reg EncConfig
  encFrameNo : Nat
  encSamples : Nat
  encMinFs : Nat
  encMaxFs : Nat
  seek : List SeekPoint
  -- the model's own fields (log 1, 2)
  cmdq : List Issue
  payload : Payload
  reply : Option Reply
  deriving DecidableEq, Repr

/-- Why the model stops with a fault. No exception of the spec is one: those are next states. -/
inductive Fault
  /-- Raised by `IN_PUSH` alone, when the input would reach 2^61 bytes: "a stream of 2^61 bytes or more is outside the spec"
  (10_state.md R42). Safe: the machine stops where the spec gives nothing (log 9). -/
  | inputBeyondSpec
  deriving DecidableEq, Repr

/-- Why the model refuses an instruction. -/
inductive Refusal
  /-- The instruction has no meaning yet. No arm of `exec` uses it. Safe. -/
  | notModelled (mnemonic : String)
  deriving DecidableEq, Repr

/-- The reset values of the hash engine (R28). -/
def Md5Regs.reset : Md5Regs where
  a := 0x67452301#32
  b := 0xEFCDAB89#32
  c := 0x98BADCFE#32
  d := 0x10325476#32
  len := 0
  buf := []
  done := false
  digest := none

/-- The reset values of the frame-header registers (R33, R60). -/
def FhRegs.reset : FhRegs where
  variable_ := none
  bsCode := none
  srCode := none
  chanAssign := none
  bpsCode := none
  number := none
  blocksize := none
  sampleRate := none
  channels := none
  bps := none
  crc8 := none
  reserved := none
  start := none
  firstSample := none
  valid := false

/-- The reset values of the subframe registers (R34, R60). -/
def SfRegs.reset : SfRegs where
  type := none
  order := none
  wasted := none
  bps := none
  ch := none

/-- The reset values of the residual-coder registers (R36, R60). -/
def RcRegs.reset : RcRegs where
  method := none
  porder := none
  table := []

/-- The state after power-on (10_state.md R60, 70_reset_and_hazards.md R420). -/
def State.reset : State where
  mode := .idle
  dstate := .init
  estate := .idle
  status := 0x0000#16
  verdict := .none
  fatalCode := 0
  fatalSub := 0
  input := []
  inEof := false
  brPos := 0
  out := []
  outRd := 0
  crc8 := Config.crc8.init
  crc16 := Config.crc16.init
  md5 := Md5Regs.reset
  si := none
  siValid := false
  mb := none
  mbCount := 0
  fh := FhRegs.reset
  sf := SfRegs.reset
  qlp := []
  qlpPrec := none
  qlpShift := none
  rc := RcRegs.reset
  res := []
  smp := [[], [], [], [], [], [], [], []]
  framesOk := 0
  samplesOk := 0
  skipStart := 0
  firstFramePos := 0
  resyncs := 0
  pcmOut := []
  mdOut := []
  report := []
  pcmIn := []
  siOut := []
  cfg := none
  encFrameNo := 0
  encSamples := 0
  encMinFs := 16777215
  encMaxFs := 0
  seek := []
  cmdq := []
  payload := .none
  reply := none

end Sys2Proof.Machine

/-- The byte index in the `REPORT` entry of an operation that is neither read-side nor write-side (60_exceptions.md R372): a free
value of the command and the state (log 7). -/
opaque Sys2Proof.Config.posOfNeither (command : Sys2Proof.Code) (s : Sys2Proof.Machine.State) : BitVec 64
end

