-- ==== Sys2Proof/Machine/Bits.lean ====
section
/-! DEFINITION. Bit strings, width conversions, byte order, the zig-zag map, the coded number's byte form, and the writing of
one element of an array: 00_scope.md R11 to R13, 20_memory.md R71 to R74, 30_encoding.md R116. -/

namespace Sys2Proof.Machine

/-! ### Bit strings, most significant bit first (R11, R71 to R74) -/

/-- The low `n` bits of `v`, most significant first. -/
def natBits : Nat → Nat → List Bool
  | 0, _ => []
  | n + 1, v => v.testBit n :: natBits n v

/-- The number a bit string stands for, first bit most significant. -/
def bitsNat (bs : List Bool) : Nat := bs.foldl (fun acc b => 2 * acc + b.toNat) 0

/-- The eight bits of a byte, or of the bits of one, in the order that `BIT_ORDER` gives (00_scope.md R10); its own inverse. -/
def inBitOrder (bits : List Bool) : List Bool :=
  match Config.bitOrder with
  | .msbFirst => bits
  | .lsbFirst => bits.reverse

/-- The bits of a byte, first bit first. -/
def byteBits (b : Byte) : List Bool := inBitOrder (natBits 8 b.toNat)

/-- Bit position `p` of a byte sequence is bit `7 - p mod 8` of byte `p div 8` (R11). -/
def bytesBits (bs : List Byte) : List Bool := bs.flatMap byteBits

/-- The bits of `bs` from bit position `p` on. -/
def bitsFrom (bs : List Byte) (p : Nat) : List Bool := (bytesBits (bs.drop (p / 8))).drop (p % 8)

/-- The complete bytes of a bit string (10_state.md R25). -/
def bitsBytes : List Bool → List Byte
  | b7 :: b6 :: b5 :: b4 :: b3 :: b2 :: b1 :: b0 :: rest =>
      BitVec.ofNat 8 (bitsNat (inBitOrder [b7, b6, b5, b4, b3, b2, b1, b0])) :: bitsBytes rest
  | _ => []

/-- `MemRead(IN, p, n)` (R71): defined where the `n` bits exist. -/
def memRead (bs : List Byte) (p n : Nat) : Nat := bitsNat ((bitsFrom bs p).take n)

/-- `UNARY_FORM` (00_scope.md R10): the bits of a unary number. -/
def unaryBits (q : Nat) : List Bool := List.replicate q (!Config.unaryForm.stop) ++ [Config.unaryForm.stop]

/-- The number of bits before the first stop bit, if there is one (41_bitstream_io.md R164). -/
def leadRun : List Bool → Option Nat
  | [] => none
  | b :: rest => if b = Config.unaryForm.stop then some 0 else (leadRun rest).map (· + 1)

/-- How many bits bring position `p` to a byte boundary (R166, R176). -/
def alignGap (p : Nat) : Nat := (8 - p % 8) % 8

/-! ### Width conversions (R13) -/

abbrev fitsU (v n : Nat) : Prop := v < 2 ^ n

/-- `fits_s(v, n)` for `n` of at least 1; no value fits 0 bits. -/
abbrev fitsS (v : Int) (n : Nat) : Prop := 0 < n ∧ -(2 ^ (n - 1)) ≤ v ∧ v < 2 ^ (n - 1)

/-- `sext_n`. -/
def sext (n v : Nat) : Int := if v < 2 ^ (n - 1) then (v : Int) else (v : Int) - 2 ^ n

/-- `tc_n`. -/
def tc (n : Nat) (v : Int) : Nat := (v % 2 ^ n).toNat

/-- The zig-zag map (R13). -/
def zz (r : Int) : Nat := if 0 ≤ r then (2 * r).toNat else (-2 * r - 1).toNat

def unzz (u : Nat) : Int := if u % 2 = 0 then ((u / 2 : Nat) : Int) else -(((u + 1) / 2 : Nat) : Int)

/-- The residual range (`RESIDUAL_MIN`, `RESIDUAL_MAX`). -/
abbrev residualOk (r : Int) : Prop := Config.residualMin ≤ r ∧ r ≤ Config.residualMax

/-! ### Bytes -/

/-- The number a byte string stands for, most significant byte first (R73). -/
def beNat (bs : List Byte) : Nat := bs.foldl (fun acc b => 256 * acc + b.toNat) 0

/-- The low `n` bytes of `v`, most significant first. -/
def beBytes : Nat → Nat → List Byte
  | 0, _ => []
  | n + 1, v => BitVec.ofNat 8 (v / 256 ^ n) :: beBytes n v

/-- The low `n` bytes of `v`, least significant first (R75). -/
def leBytes : Nat → Nat → List Byte
  | 0, _ => []
  | n + 1, v => BitVec.ofNat 8 v :: leBytes n (v / 256)

/-- The number of leading 1 bits of a byte. -/
def leadOnes (b : Byte) : Nat := (natBits 8 b.toNat).takeWhile id |>.length

/-! ### The coded number (30_encoding.md R116, 41_bitstream_io.md R168, R177) -/

/-- The largest value of each length's row of R116's table; the least length that holds `v`. -/
def codedLength (v : Nat) : Nat :=
  if v ≤ 0x7F then 1
  else if v ≤ 0x7FF then 2
  else if v ≤ 0xFFFF then 3
  else if v ≤ 0x1FFFFF then 4
  else if v ≤ 0x3FFFFFF then 5
  else if v ≤ 0x7FFFFFFF then 6
  else 7

/-- The continuation bytes, most significant first. -/
def codedTail : Nat → Nat → List Byte
  | 0, _ => []
  | i + 1, v => BitVec.ofNat 8 (0x80 + v / 2 ^ (6 * i) % 64) :: codedTail i v

/-- The shortest coded form of `v`. -/
def codedBytes (v : Nat) : List Byte :=
  let len := codedLength v
  if len = 1 then [BitVec.ofNat 8 v]
  else BitVec.ofNat 8 (0xFF * 2 ^ (8 - len) % 256 + v / 2 ^ (6 * (len - 1))) :: codedTail (len - 1) v

/-! ### Arrays of written entries -/

/-- Entry `i` becomes `v`; `i` is a written entry or the next one. -/
def setAt {α : Type} (l : List α) (i : Nat) (v : α) : List α := l.take i ++ v :: l.drop (i + 1)

/-- Entries `0 .. vs.length - 1` become `vs`. -/
def overwrite {α : Type} (l vs : List α) : List α := vs ++ l.drop vs.length

end Sys2Proof.Machine
end

