-- ==== Sys2Proof/Machine/Flags.lean ====
section
/-! DEFINITION. The `STATUS` flags (10_state.md R29), the codes of the exceptions and their sub-codes (60_exceptions.md R370,
R372), and the flag of each exception class. -/

namespace Sys2Proof.Machine

/-- The flags of `STATUS` (R29). -/
inductive Flag
  | eos | logic | crc8Err | crc16Err | syncErr | partial_ | structErr | unsupported | configErr | hashErr | noAudio
  deriving DecidableEq, Repr

/-- The bit of each flag (R29's table). -/
def Flag.bit : Flag → Nat
  | .eos => 0
  | .logic => 1
  | .crc8Err => 2
  | .crc16Err => 3
  | .syncErr => 4
  | .partial_ => 5
  | .structErr => 6
  | .unsupported => 7
  | .configErr => 8
  | .hashErr => 9
  | .noAudio => 10

/-- A flag as a `STATUS` word. -/
def Flag.mask (f : Flag) : BitVec 16 := BitVec.ofNat 16 (2 ^ f.bit)

/-- Is the flag set? -/
def State.flag (s : State) (f : Flag) : Bool := s.status.getLsbD f.bit

/-- Flags are only ever set (R29: sticky); `STREAM_RESET` alone clears them. -/
def State.setFlag (s : State) (f : Flag) : State := { s with status := s.status ||| f.mask }

/-- The session is dead (R374). -/
def State.faulted (s : State) : Bool := s.flag .logic

def LogicSub.code : LogicSub → Nat
  | .widthOutOfRange => 1
  | .valueOutOfRange => 2
  | .notAligned => 3
  | .badMode => 4
  | .badOperand => 5
  | .unwrittenState => 6
  | .faulted => 7

def ConfigSub.code : ConfigSub → Nat
  | .channels => 1
  | .bitDepth => 2
  | .sampleRate => 3
  | .blockSize => 4
  | .parameter => 5
  | .streamTooLong => 6

def StructSub.code : StructSub → Nat
  | .badMarker => 1
  | .noStreamInfo => 2
  | .badStreamInfoLength => 3
  | .duplicateStreamInfo => 4
  | .truncatedMetadata => 5
  | .inconsistentStreamInfo => 6
  | .multipleLast => 7

def SyncSub.code : SyncSub → Nat
  | .badSync => 1
  | .headerReserved => 2
  | .badCodedNumber => 3
  | .headerCrc8 => 4
  | .headerMismatch => 5
  | .subframeReserved => 6
  | .badResidual => 7
  | .rangeError => 8
  | .badPadding => 9
  | .frameCrc16 => 10
  | .truncated => 11

def UnsupportedSub.code : UnsupportedSub → Nat
  | .channelAssignment => 1
  | .bitDepthCode => 2

/-- The code of an exception's class (R370). -/
def Exc.code : Exc → Nat
  | .endOfStream => 1
  | .logic _ => 2
  | .config _ => 3
  | .structural _ => 4
  | .sync _ => 5
  | .unsupported _ => 6
  | .integrity => 7
  | .noAudio => 8

/-- The sub-code of an exception (R372). -/
def Exc.sub : Exc → Nat
  | .logic l => l.code
  | .config c => c.code
  | .structural c => c.code
  | .sync c => c.code
  | .unsupported c => c.code
  | .endOfStream | .integrity | .noAudio => 0

/-- The flag an exception sets (R29, R371). -/
def Exc.flag : Exc → Flag
  | .endOfStream => .eos
  | .logic _ => .logic
  | .config _ => .configErr
  | .structural _ => .structErr
  | .sync _ => .syncErr
  | .unsupported _ => .unsupported
  | .integrity => .hashErr
  | .noAudio => .noAudio

end Sys2Proof.Machine
end

