-- ==== Sys2Proof/Machine/Ops.lean ====
section
/-! DEFINITION. The shared operations of the machine: how an operation ends (00_scope.md R15), taking an exception
(60_exceptions.md R371 to R374, R387), the bit reader and the bit writer as every other unit uses them (41_bitstream_io.md R160,
R161; 30_encoding.md R140), and reading a register that may be unwritten (10_state.md R41). -/

namespace Sys2Proof.Machine

/-! ### Operations and how they end -/

/-- What ends an operation before its result. -/
inductive Stop
  /-- Input starvation (20_memory.md R84). -/
  | hold
  /-- The operation raised `e`. -/
  | exc (e : Exc)
  /-- A sequencer's unit operation raised `LogicError(l)` (60_exceptions.md R374, last sentences). -/
  | issued (l : LogicSub)
  deriving DecidableEq, Repr

/-- An operation, or a part of one: it reads and writes the state and answers a result, or ends early (the state it ends in
holds the writes made so far). -/
abbrev Op (α : Type) := EStateM Stop State α

/-- End with the outcome `Hold`. -/
def hold {α : Type} : Op α := fun s => .error .hold s

/-- End with an exception. -/
def raise {α : Type} (e : Exc) : Op α := fun s => .error (.exc e) s

/-- Go on if `c` holds, else raise `e`. -/
def check (c : Prop) [Decidable c] (e : Exc) : Op Unit := fun s => if c then .ok () s else .error (.exc e) s

/-- Read from the state. -/
def look {α : Type} (f : State → α) : Op α := fun s => .ok (f s) s

/-- Write to the state. -/
def update (f : State → State) : Op Unit := fun s => .ok () (f s)

/-- The value of a register; reading an unwritten one is a `LogicError` (R41). -/
def written {α : Type} (r : Reg α) : Op α := fun s =>
  match r with
  | some v => .ok v s
  | none => .error (.exc (.logic .unwrittenState)) s

/-- Read a register. -/
def readReg {α : Type} (f : State → Reg α) : Op α := look f >>= written

/-- The first `n` entries of an array; reading an unwritten one is a `LogicError` (R41). -/
def readEntries {α : Type} (l : List α) (n : Nat) : Op (List α) := fun s =>
  if n ≤ l.length then .ok (l.take n) s else .error (.exc (.logic .unwrittenState)) s

/-- Do `f` for each element in turn. -/
def forEach {α : Type} (f : α → Op Unit) : List α → Op Unit
  | [] => pure ()
  | a :: rest => do
      f a
      forEach f rest

/-- Do `f` for `i`, `i + 1`, ..., `n` times. -/
def countUp (f : Nat → Op Unit) : Nat → Nat → Op Unit
  | 0, _ => pure ()
  | n + 1, i => do
      f i
      countUp f n (i + 1)

/-- Collect the answers of `n` turns of `f`, in order. -/
def collect {α : Type} (f : Op α) : Nat → Op (List α)
  | 0 => pure []
  | n + 1 => do
      let a ← f
      let rest ← collect f n
      pure (a :: rest)

/-- A part that takes effect wholly or not at all (20_memory.md R78). -/
def atomically {α : Type} (m : Op α) : Op α := fun s =>
  match m s with
  | .ok a s' => .ok a s'
  | .error e _ => .error e s

/-- A part of which an exception leaves only what `kept` takes over from the state reached into the state before (00_scope.md
R15). -/
def leaving {α : Type} (kept : State → State → State) (m : Op α) : Op α := fun s =>
  match m s with
  | .ok a t => .ok a t
  | .error e t => .error e (kept s t)

/-- Issue `m` as a sequencer does: an exception comes back as a value, a `LogicError` ends the sequencer's operation too. -/
def attempt {α : Type} (m : Op α) : Op (Except Exc α) := fun s =>
  match m s with
  | .ok a s' => .ok (.ok a) s'
  | .error (.exc (.logic l)) s' => .error (.issued l) s'
  | .error (.exc e) s' => .ok (.error e) s'
  | .error .hold s' => .error .hold s'
  | .error (.issued l) s' => .error (.issued l) s'

/-- Issue `m` as the encoder sequencer does: its other exceptions are the sequencer's own, a `LogicError` ends the session. -/
def asIssued {α : Type} (m : Op α) : Op α := fun s =>
  match m s with
  | .ok a s' => .ok a s'
  | .error (.exc (.logic l)) s' => .error (.issued l) s'
  | .error e s' => .error e s'

/-! ### Taking an exception -/

/-- Where the byte index of a `REPORT` entry comes from (R372; log 7, 14); an operation of neither side carries its command. -/
inductive Side
  | read | write
  | neutral (command : Code)
  deriving DecidableEq, Repr

/-- An instruction of neither side. -/
abbrev Side.none (i : Instr) : Side := .neutral (encode i)

/-- The byte index recorded for an operation issued in `s` (R372). R372 names no index for an operation that is neither
read-side nor write-side: a free value of the command and of `s`, which does not see the queue behind the command and the
reply to the one before (log 7). -/
def Side.pos : Side → State → Nat
  | .read, s => s.brPos / 8
  | .write, s => s.out.length / 8
  | .neutral c, s => (Config.posOfNeither c { s with cmdq := [], reply := Option.none }).toNat

/-- R371 steps (2) and (3): the class's flag is set and one entry is appended to `REPORT`. -/
def State.record (s : State) (e : Exc) (pos : Nat) : State :=
  { s.setFlag e.flag with report := s.report ++ [.exception e.code e.sub pos] }

/-- Fatal entry of the decoder sequencer (R387), after the exception is recorded. -/
def State.enterFatal (s : State) (e : Exc) : State :=
  let t := s.setFlag .partial_
  { t with
    fatalCode := e.code
    fatalSub := e.sub
    verdict := .notVerified
    report := t.report ++ [.final .notVerified t.framesOk t.samplesOk t.resyncs]
    dstate := .fatalError }

/-- A sequencer met a `LogicError` of a unit operation it issued (R374): the operation changes nothing else, and
`DSTATE` becomes `FatalError` (R387) or `ESTATE` becomes `EFailed`. -/
def State.sequencerFailed (s : State) (e : Exc) : State :=
  match s.mode with
  | .encode => { s with estate := .failed }
  | .decode | .idle => s.enterFatal e

/-- TAKING AN EXCEPTION (R371): the state an operation issued in `s` leaves when it raised `e`, having written what `t` holds.
A `LogicError` leaves nothing of that (R374). The entry is appended also behind a `Final` one, when the decode session is over
(DESIGN CHOICE, log 37). -/
def State.takeException (s t : State) (side : Side) (e : Exc) : State :=
  let base := match e with
    | .logic _ => s
    | _ => t
  { base.record e (side.pos s) with reply := some (.fault e) }

/-- Deliver the outcome of an operation issued in `s` to the issuer (R15, R371). There is no return from an exception: the
next operation is simply accepted, or refused (`issue`). -/
def deliver (side : Side) (s : State) : EStateM.Result Stop State Result → State
  | .ok r t => { t with reply := some (.ok r) }
  | .error .hold _ => { s with reply := some .hold }
  | .error (.exc e) t => s.takeException t side e
  | .error (.issued l) _ => (s.takeException s side (.logic l)).sequencerFailed (.logic l)

/-- An operation that is accepted even while the session is dead (R374). -/
def issueAlways (side : Side) (op : Op Result) (s : State) : Host.Outcome State Fault Refusal :=
  .next (deliver side s (op s))

/-- An operation: refused with `LogicError(Faulted)`, without effect and without a `REPORT` entry, while the session is dead
(R374). -/
def issue (side : Side) (op : Op Result) (s : State) : Host.Outcome State Fault Refusal :=
  if s.faulted then .next { s with reply := some (.fault (.logic .faulted)) } else issueAlways side op s

/-! ### The bit reader (R161, R71, R140) -/

/-- Input starvation: `need` more bits must be there (R161). A `BR_*` operation of the host raises `EndOfStream` in mode Encode too
(DESIGN CHOICE, log 38). -/
def starve (need : Nat) : Op Unit := fun s =>
  if s.brPos + need ≤ 8 * s.input.length then .ok () s
  else if s.inEof then .error (.exc .endOfStream) s
  else .error .hold s

/-- The next `n` bits, not consumed. -/
def peekBits (n : Nat) : Op Nat := do
  starve n
  look fun s => memRead s.input s.brPos n

/-- The cursor advances. -/
def skipBits (n : Nat) : Op Unit := update fun s => { s with brPos := s.brPos + n }

/-- The single access of R162. -/
def readBits (n : Nat) : Op Nat := do
  let v ← peekBits n
  skipBits n
  pure v

/-- `ReadU(n)` for `n` up to 64 (R140). -/
def readU (n : Nat) : Op Nat :=
  if n = 0 then pure 0
  else if n ≤ 32 then readBits n
  else do
    let hi ← readBits (n - 32)
    let lo ← readBits 32
    pure (hi * 2 ^ 32 + lo)

/-- `ReadS(n)` for `n` up to 64 (R140, R163). -/
def readS (n : Nat) : Op Int :=
  if n = 0 then pure 0
  else if n ≤ 32 then do
    let v ← readBits n
    pure (sext n v)
  else do
    let hi ← readBits (n - 32)
    let lo ← readBits 32
    pure (sext (n - 32) hi * 2 ^ 32 + lo)

/-- The unary number at the cursor, not consumed (R164): without a stop bit in `IN` the operation starves (R161). -/
def peekUnary : Op Nat := fun s =>
  match leadRun (bitsFrom s.input s.brPos) with
  | some q => .ok q s
  | none => if s.inEof then .error (.exc .endOfStream) s else .error .hold s

/-- `BR_READ_UNARY` (R164). -/
def readUnary : Op Nat := do
  let q ← peekUnary
  skipBits (q + 1)
  pure q

/-- `BR_READ_RICE k` (R165), for `k` in range: the whole word or nothing. -/
def readRice (k : Nat) : Op Int := do
  let q ← peekUnary
  starve (q + 1 + k)
  let rem ← look fun s => memRead s.input (s.brPos + q + 1) k
  skipBits (q + 1 + k)
  pure (unzz (q * 2 ^ k + rem))

/-- A byte-granular operation needs an aligned read cursor (20_memory.md R77). -/
def readAligned : Op Unit := do
  let p ← look State.brPos
  check (p % 8 = 0) (.logic .notAligned)

/-- `BR_READ_BYTES` (R167), for a count in range. -/
def readBytes (count : Nat) : Op (List Byte) := do
  readAligned
  starve (8 * count)
  let bs ← look fun s => (s.input.drop (s.brPos / 8)).take count
  skipBits (8 * count)
  pure bs

/-- The continuation bytes of a coded number (R168). -/
def readCodedTail : Nat → Nat → Op Nat
  | 0, v => pure v
  | n + 1, v => do
      let c ← readBits 8
      check (c / 64 = 2) (.sync .badCodedNumber)
      readCodedTail n (v * 64 + c % 64)

/-- The bytes of a coded number, one 8-bit read after another (R168). `FH_PARSE` uses this form: there a failure leaves the
cursor after the last byte that was read. A malformed number: 43_frame_model.md R227, 95_test_vectors.md V-FH-2. The end of input
in the middle of the number: R168 says that the read consumes nothing, R227 that the cursor stays after the last successful
read, and the model counts the number's bytes already read as read (DESIGN CHOICE, log 12). -/
def readCodedBytes (maxBytes : Nat) : Op Nat := do
  let b0 ← readBits 8
  let len := leadOnes (BitVec.ofNat 8 b0)
  if len = 0 then pure b0
  else do
    check (¬ (len = 1 ∨ len = 8 ∨ maxBytes < len)) (.sync .badCodedNumber)
    readCodedTail (len - 1) (b0 % 2 ^ (7 - len))

/-- `BR_READ_CODED` (R168), for a limit in range: atomic. -/
def readCoded (maxBytes : Nat) : Op Nat := do
  readAligned
  atomically (readCodedBytes maxBytes)

/-! ### The bit writer (R72, R170, R140) -/

/-- Append bits to `W`. -/
def emit (bits : List Bool) : Op Unit := update fun s => { s with out := s.out ++ bits }

/-- `WriteU(n, v)` for `n` up to 64: a value that does not fit is a `LogicError` (R170); `n = 0` is no access. -/
def writeU (n v : Nat) : Op Unit :=
  if n = 0 then pure ()
  else do
    check (fitsU v n) (.logic .valueOutOfRange)
    emit (natBits n v)

/-- `WriteS(n, v)` for `n` up to 64 (R140, R172). -/
def writeS (n : Nat) (v : Int) : Op Unit :=
  if n = 0 then pure ()
  else do
    check (fitsS v n) (.logic .valueOutOfRange)
    emit (natBits n (tc n v))

/-- The bits of a Rice code word (30_encoding.md R132). -/
def riceBits (k : Nat) (r : Int) : List Bool :=
  unaryBits (zz r / 2 ^ k) ++ natBits k (zz r)

/-- `BW_WRITE_RICE` (R174), for `k` in range. -/
def writeRice (k : Nat) (r : Int) : Op Unit := do
  check (residualOk r) (.logic .valueOutOfRange)
  emit (riceBits k r)

/-- A byte-granular operation needs an aligned write cursor (20_memory.md R77). -/
def writeAligned : Op Unit := do
  let n ← look fun s => s.out.length
  check (n % 8 = 0) (.logic .notAligned)

/-- `BW_WRITE_BYTES` (R175). -/
def writeBytes (bs : List Byte) : Op Unit := do
  writeAligned
  emit (bytesBits bs)

/-- `BW_ALIGN` (R176). -/
def padOut : Op Nat := do
  let n ← look fun s => s.out.length
  emit (List.replicate (alignGap n) false)
  pure (alignGap n)

/-- `BW_WRITE_CODED` (R177). -/
def writeCoded (v : Nat) : Op Unit := do
  writeAligned
  check (v < 2 ^ 36) (.logic .valueOutOfRange)
  emit (bytesBits (codedBytes v))

/-- The completed output bytes from byte index `from_` on (10_state.md R25). -/
def State.outBytes (s : State) (from_ : Nat) : List Byte := bitsBytes (s.out.drop (8 * from_))

end Sys2Proof.Machine
end

