-- ==== Sys2Proof/Machine/Operands.lean ====
section
/-! DEFINITION. Operand forms: ranges of widths and parameters, the mode an operation needs (10_state.md R21), and the payload
beside a command (30_encoding.md R100; log 2, 16). -/

namespace Sys2Proof.Machine

/-- A field width, 1 to 32 bits (41_bitstream_io.md R162, R171). -/
def checkWidth (n : Nat) : Op Unit := check (1 ≤ n ∧ n ≤ 32) (.logic .widthOutOfRange)

/-- A Rice parameter (R165, R174). -/
def checkRiceParam (k : Nat) : Op Unit := check (k ≤ Config.riceParamMax) (.logic .widthOutOfRange)

/-- A byte count of `BR_READ_BYTES` (R167, R374). -/
def checkByteCount (count : Nat) : Op Unit := check (count < 2 ^ 24) (.logic .widthOutOfRange)

/-- A coded-number limit (R168, R374). -/
def checkCodedLimit (maxBytes : Nat) : Op Unit := check (maxBytes = 6 ∨ maxBytes = 7) (.logic .widthOutOfRange)

/-- An operation that reads the input needs `Decode` or `Idle` (R21; log 15). -/
def notEncode : Op Unit := do
  let m ← look State.mode
  check (m ≠ .encode) (.logic .badMode)

/-- An operation accepted in one mode only (R21). -/
def needMode (m : Mode) : Op Unit := do
  let have_ ← look State.mode
  check (have_ = m) (.logic .badMode)

/-- A payload of `count` bytes (R100). -/
def payloadBytes (count : Nat) : Op (List Byte) := fun s =>
  let bs : Option (List Byte) := match s.payload with
    | .none => some []
    | .bytes bs => some bs
    | .samples _ | .blocks _ | .config _ => none
  match bs with
  | some bs => if bs.length = count then .ok bs s else .error (.exc (.logic .badOperand)) s
  | none => .error (.exc (.logic .badOperand)) s

/-- A payload of `channels` rows of `count` samples (20_memory.md R83). -/
def payloadSamples (channels count : Nat) : Op (List (List Int)) := fun s =>
  match s.payload with
  | .samples rows =>
    if rows.length = channels ∧ ∀ row ∈ rows, row.length = count then .ok rows s
    else .error (.exc (.logic .badOperand)) s
  | .none | .bytes _ | .blocks _ | .config _ => .error (.exc (.logic .badOperand)) s

/-- A payload of `count` metadata-block entries (43_frame_model.md R225), each within its field widths. -/
def payloadBlocks (count : Nat) : Op (List MdEntry) := fun s =>
  let bs : Option (List MdEntry) := match s.payload with
    | .none => some []
    | .blocks bs => some bs
    | .bytes _ | .samples _ | .config _ => none
  match bs with
  | some bs =>
    if bs.length = count ∧ ∀ b ∈ bs, b.type < 2 ^ 7 ∧ b.length < 2 ^ 24 then .ok bs s
    else .error (.exc (.logic .badOperand)) s
  | none => .error (.exc (.logic .badOperand)) s

/-- A configuration payload (47_encoder.md R341). -/
def payloadConfig : Op EncConfig := fun s =>
  match s.payload with
  | .config c => .ok c s
  | .none | .bytes _ | .samples _ | .blocks _ => .error (.exc (.logic .badOperand)) s

end Sys2Proof.Machine
end

