-- ==== Sys2Proof/Machine/BitIO.lean ====
section
/-! DEFINITION. The bit-reader and bit-writer operations: 41_bitstream_io.md R162 to R177. -/

namespace Sys2Proof.Machine

/-- `BR_READ_U n` (R162). -/
def execBrReadU (n : Nat) (s : State) : Host.Outcome State Fault Refusal :=
  issue .read (do
    checkWidth n
    let v ← readBits n
    pure (.nat v)) s

/-- `BR_READ_S n` (R163). -/
def execBrReadS (n : Nat) (s : State) : Host.Outcome State Fault Refusal :=
  issue .read (do
    checkWidth n
    let v ← readBits n
    pure (.int (sext n v))) s

/-- `BR_READ_UNARY` (R164). -/
def execBrReadUnary (s : State) : Host.Outcome State Fault Refusal :=
  issue .read (do
    let q ← readUnary
    pure (.nat q)) s

/-- `BR_READ_RICE k` (R165). -/
def execBrReadRice (k : Nat) (s : State) : Host.Outcome State Fault Refusal :=
  issue .read (do
    checkRiceParam k
    let r ← readRice k
    pure (.int r)) s

/-- `BR_ALIGN` (R166). -/
def execBrAlign (s : State) : Host.Outcome State Fault Refusal :=
  issue .read (do
    let p ← look State.brPos
    skipBits (alignGap p)
    pure (.nat (alignGap p))) s

/-- `BR_READ_BYTES count` (R167). -/
def execBrReadBytes (count : Nat) (s : State) : Host.Outcome State Fault Refusal :=
  issue .read (do
    checkByteCount count
    let bs ← readBytes count
    pure (.bytes bs)) s

/-- `BR_READ_CODED maxbytes` (R168). -/
def execBrReadCoded (maxBytes : Nat) (s : State) : Host.Outcome State Fault Refusal :=
  issue .read (do
    checkCodedLimit maxBytes
    let v ← readCoded maxBytes
    pure (.nat v)) s

/-- `BW_WRITE_U n, v` (R171). -/
def execBwWriteU (n v : Nat) (s : State) : Host.Outcome State Fault Refusal :=
  issue .write (do
    checkWidth n
    writeU n v
    pure .none) s

/-- `BW_WRITE_S n, v` (R172). -/
def execBwWriteS (n : Nat) (v : Int) (s : State) : Host.Outcome State Fault Refusal :=
  issue .write (do
    checkWidth n
    writeS n v
    pure .none) s

/-- `BW_WRITE_UNARY q` (R173). -/
def execBwWriteUnary (q : Nat) (s : State) : Host.Outcome State Fault Refusal :=
  issue .write (do
    check (q < 2 ^ 32) (.logic .valueOutOfRange)
    emit (unaryBits q)
    pure .none) s

/-- `BW_WRITE_RICE k, r` (R174). -/
def execBwWriteRice (k : Nat) (r : Int) (s : State) : Host.Outcome State Fault Refusal :=
  issue .write (do
    checkRiceParam k
    writeRice k r
    pure .none) s

/-- `BW_ALIGN` (R176). -/
def execBwAlign (s : State) : Host.Outcome State Fault Refusal :=
  issue .write (do
    let n ← padOut
    pure (.nat n)) s

/-- `BW_WRITE_BYTES count, bytes` (R175): alignment, which the pseudocode checks, ahead of the payload's length, which it does not
(DESIGN CHOICE, log 16). -/
def execBwWriteBytes (count : Nat) (s : State) : Host.Outcome State Fault Refusal :=
  issue .write (do
    writeAligned
    let bs ← payloadBytes count
    writeBytes bs
    pure .none) s

/-- `BW_WRITE_CODED v` (R177). -/
def execBwWriteCoded (v : Nat) (s : State) : Host.Outcome State Fault Refusal :=
  issue .write (do
    writeCoded v
    pure .none) s

end Sys2Proof.Machine
end

