-- ==== Sys2Proof/Machine/Checksum.lean ====
section
/-! DEFINITION. CRC-8, CRC-16 and the MD5 content hash: 42_crc_hash.md R191 to R207. -/

namespace Sys2Proof.Machine

/-! ### The CRC engines -/

/-- `REFIN`, `REFOUT` (00_scope.md R10): reflected, or as it is. -/
def reflect {w : Nat} (reflected : Bool) (v : BitVec w) : BitVec w := if reflected then v.reverse else v

/-- What a CRC engine hands out for its remainder: `REFOUT`, then `XOROUT` (00_scope.md R10). -/
def crcOut {w : Nat} (p : CrcParams w) (c : BitVec w) : BitVec w := reflect p.refOut c ^^^ p.xorOut

/-- One of the eight turns of `crc8_step` (R191). -/
def crc8Turn (c : BitVec 8) : BitVec 8 := if c.getLsbD 7 then (c <<< 1) ^^^ Config.crc8.poly else c <<< 1

/-- `crc8_step(c, x)` (R191). -/
def crc8Step (c : BitVec 8) (x : Byte) : BitVec 8 :=
  crc8Turn (crc8Turn (crc8Turn (crc8Turn (crc8Turn (crc8Turn (crc8Turn (crc8Turn (c ^^^ reflect Config.crc8.refIn x))))))))

def crc8Fold (c : BitVec 8) (bs : List Byte) : BitVec 8 := bs.foldl crc8Step c

/-- `crc8(bytes)` (R191). -/
def crc8Of (bs : List Byte) : BitVec 8 := crcOut Config.crc8 (crc8Fold Config.crc8.init bs)

/-- One of the eight turns of `crc16_step` (R194). -/
def crc16Turn (c : BitVec 16) : BitVec 16 := if c.getLsbD 15 then (c <<< 1) ^^^ Config.crc16.poly else c <<< 1

/-- `crc16_step(c, x)` (R194). -/
def crc16Step (c : BitVec 16) (x : Byte) : BitVec 16 :=
  crc16Turn (crc16Turn (crc16Turn (crc16Turn (crc16Turn (crc16Turn (crc16Turn (crc16Turn
    (c ^^^ ((reflect Config.crc16.refIn x).setWidth 16 <<< 8)))))))))

def crc16Fold (c : BitVec 16) (bs : List Byte) : BitVec 16 := bs.foldl crc16Step c

/-- `crc16(bytes)` (R194). -/
def crc16Of (bs : List Byte) : BitVec 16 := crcOut Config.crc16 (crc16Fold Config.crc16.init bs)

/-! ### MD5 -/

/-- The constants of rounds 0 to 15 (R201). -/
def md5T0 : List (BitVec 32) :=
  [0xD76AA478#32, 0xE8C7B756#32, 0x242070DB#32, 0xC1BDCEEE#32, 0xF57C0FAF#32, 0x4787C62A#32, 0xA8304613#32, 0xFD469501#32,
   0x698098D8#32, 0x8B44F7AF#32, 0xFFFF5BB1#32, 0x895CD7BE#32, 0x6B901122#32, 0xFD987193#32, 0xA679438E#32, 0x49B40821#32]

/-- The constants of rounds 16 to 31 (R201). -/
def md5T1 : List (BitVec 32) :=
  [0xF61E2562#32, 0xC040B340#32, 0x265E5A51#32, 0xE9B6C7AA#32, 0xD62F105D#32, 0x02441453#32, 0xD8A1E681#32, 0xE7D3FBC8#32,
   0x21E1CDE6#32, 0xC33707D6#32, 0xF4D50D87#32, 0x455A14ED#32, 0xA9E3E905#32, 0xFCEFA3F8#32, 0x676F02D9#32, 0x8D2A4C8A#32]

/-- The constants of rounds 32 to 47 (R201). -/
def md5T2 : List (BitVec 32) :=
  [0xFFFA3942#32, 0x8771F681#32, 0x6D9D6122#32, 0xFDE5380C#32, 0xA4BEEA44#32, 0x4BDECFA9#32, 0xF6BB4B60#32, 0xBEBFBC70#32,
   0x289B7EC6#32, 0xEAA127FA#32, 0xD4EF3085#32, 0x04881D05#32, 0xD9D4D039#32, 0xE6DB99E5#32, 0x1FA27CF8#32, 0xC4AC5665#32]

/-- The constants of rounds 48 to 63 (R201). -/
def md5T3 : List (BitVec 32) :=
  [0xF4292244#32, 0x432AFF97#32, 0xAB9423A7#32, 0xFC93A039#32, 0x655B59C3#32, 0x8F0CCC92#32, 0xFFEFF47D#32, 0x85845DD1#32,
   0x6FA87E4F#32, 0xFE2CE6E0#32, 0xA3014314#32, 0x4E0811A1#32, 0xF7537E82#32, 0xBD3AF235#32, 0x2AD7D2BB#32, 0xEB86D391#32]

/-- `S[i]` by the row `i div 16` (R202). -/
def md5Shift (row i : Nat) : Nat :=
  match row, i % 4 with
  | 0, 0 => 7
  | 0, 1 => 12
  | 0, 2 => 17
  | 0, _ => 22
  | 1, 0 => 5
  | 1, 1 => 9
  | 1, 2 => 14
  | 1, _ => 20
  | 2, 0 => 4
  | 2, 1 => 11
  | 2, 2 => 16
  | 2, _ => 23
  | _, 0 => 6
  | _, 1 => 10
  | _, 2 => 15
  | _, _ => 21

/-- The mixing function of a row (R200). -/
def md5Mix (row : Nat) (b c d : BitVec 32) : BitVec 32 :=
  match row with
  | 0 => (b &&& c) ||| (~~~b &&& d)
  | 1 => (d &&& b) ||| (~~~d &&& c)
  | 2 => b ^^^ c ^^^ d
  | _ => c ^^^ (b ||| ~~~d)

/-- The message word a round takes (R200). -/
def md5Word (row i : Nat) : Nat :=
  match row with
  | 0 => i
  | 1 => (5 * i + 1) % 16
  | 2 => (3 * i + 5) % 16
  | _ => (7 * i) % 16

/-- The four working words. -/
structure Md5Words where
  a : BitVec 32
  b : BitVec 32
  c : BitVec 32
  d : BitVec 32
  deriving DecidableEq, Repr

/-- Round `i` of row `row`, with its constant (R200). -/
def md5Round (m : List (BitVec 32)) (row i : Nat) (t : BitVec 32) (w : Md5Words) : Md5Words :=
  let sum := w.a + md5Mix row w.b w.c w.d + t + m.getD (md5Word row i) 0#32
  ⟨w.d, w.b + sum.rotateLeft (md5Shift row i), w.b, w.c⟩

/-- The rounds of one row, from round `i` on. -/
def md5Row (m : List (BitVec 32)) (row : Nat) : List (BitVec 32) → Nat → Md5Words → Md5Words
  | [], _, w => w
  | t :: rest, i, w => md5Row m row rest (i + 1) (md5Round m row i t w)

/-- The little-endian words of a block (R200). -/
def md5MessageWords : List Byte → List (BitVec 32)
  | b0 :: b1 :: b2 :: b3 :: rest => (b3 ++ b2 ++ b1 ++ b0) :: md5MessageWords rest
  | _ => []

/-- `md5_block` (R200). -/
def md5Block (w : Md5Words) (block : List Byte) : Md5Words :=
  let m := md5MessageWords block
  let v := md5Row m 3 md5T3 48 (md5Row m 2 md5T2 32 (md5Row m 1 md5T1 16 (md5Row m 0 md5T0 0 w)))
  ⟨w.a + v.a, w.b + v.b, w.c + v.c, w.d + v.d⟩

/-- The transform that `HASH_ALGORITHM` names (00_scope.md R10). -/
def hashBlock (w : Md5Words) (block : List Byte) : Md5Words :=
  match Config.hashAlgorithm with
  | .md5Rfc1321 => md5Block w block

/-- One byte into the engine (R204). -/
def md5Byte (e : Md5Regs) (x : Byte) : Md5Regs :=
  let buf := e.buf ++ [x]
  if (e.len + 1) % 64 = 0 then
    let w := hashBlock ⟨e.a, e.b, e.c, e.d⟩ buf
    { e with a := w.a, b := w.b, c := w.c, d := w.d, len := e.len + 1, buf := [] }
  else { e with len := e.len + 1, buf := buf }

/-- Bytes into the engine, in order (R204). -/
def md5Absorb (e : Md5Regs) (bs : List Byte) : Md5Regs := bs.foldl md5Byte e

/-- The padding of a message of `len` bytes (R207). -/
def md5Padding (len : Nat) : List Byte :=
  0x80#8 :: (List.replicate ((119 - len % 64) % 64) 0#8 ++ leBytes 8 (8 * len % 2 ^ 64))

/-- The digest bytes: the four words in order, each least significant byte first; digest byte 0 is the most significant byte
of the 128-bit value (R207, 30_encoding.md R106). -/
def md5Digest (e : Md5Regs) : BitVec 128 :=
  BitVec.ofNat 128 (beNat (leBytes 4 e.a.toNat ++ leBytes 4 e.b.toNat ++ leBytes 4 e.c.toNat ++ leBytes 4 e.d.toNat))

/-- What `MD5_FINAL` does to an engine that is not done (R207). -/
def md5Finish (e : Md5Regs) : Md5Regs :=
  let f := md5Absorb e (md5Padding e.len)
  { f with done := true, digest := some (md5Digest f) }

/-- `MD5_UPDATE` (R204), of bytes in hand. -/
def md5UpdateBytes (bs : List Byte) : Op Unit := do
  let done ← look fun s => s.md5.done
  check (done = false) (.logic .badOperand)
  update fun s => { s with md5 := md5Absorb s.md5 bs }

/-- `MD5_FINAL` (R207). -/
def md5Final : Op (BitVec 128) := do
  update fun s => { s with md5 := if s.md5.done then s.md5 else md5Finish s.md5 }
  readReg fun s => s.md5.digest

/-- The bytes of a sample in the hash (R205). -/
def sampleBytes (width : Nat) (v : Int) : List Byte :=
  match Config.hashSampleForm.byteOrder with
  | .little => leBytes width (tc (8 * width) v)
  | .big => beBytes width (tc (8 * width) v)

/-- Column `i` of a block. -/
def columnAt (rows : List (List Int)) (i : Nat) : List Int := rows.map fun row => row.getD i 0

/-- `HASH_SAMPLE_FORM` (R205): the byte form of `n` samples per channel at `bps` bits. -/
def hashBytes (rows : List (List Int)) (n bps : Nat) : List Byte :=
  let bytes := fun vs : List Int => vs.flatMap (sampleBytes (Config.hashSampleForm.sampleBytes bps))
  match Config.hashSampleForm.order with
  | .sampleMajor => (List.range n).flatMap fun i => bytes (columnAt rows i)
  | .channelMajor => rows.flatMap fun row => bytes (row.take n)

/-- The bit depth the hash uses (R206). -/
def hashDepth : Op Nat := fun s =>
  match s.mode with
  | .idle => .error (.exc (.logic .badMode)) s
  | .decode => (readReg State.si >>= fun si => pure si.bps) s
  | .encode => (readReg State.cfg >>= fun cfg => pure cfg.bps) s

/-- Rows `0 .. rows - 1`, columns `0 .. n - 1` of `SMP`; an unwritten element is a `LogicError` (R41). -/
def readSmp (rows n : Nat) : Op (List (List Int)) := fun s =>
  if rows ≤ s.smp.length ∧ ∀ row ∈ s.smp.take rows, n ≤ row.length then .ok ((s.smp.take rows).map (·.take n)) s
  else .error (.exc (.logic .unwrittenState)) s

/-- `MD5_UPDATE_PCM` (R206). -/
def md5UpdatePcm : Op Unit := do
  let bps ← hashDepth
  let valid ← look fun s => s.fh.valid
  check (valid = true) (.logic .unwrittenState)
  let ch ← readReg fun s => s.fh.channels
  let n ← readReg fun s => s.fh.blocksize
  let rows ← readSmp ch n
  check (∀ row ∈ rows, ∀ v ∈ row, fitsS v bps) (.logic .valueOutOfRange)
  md5UpdateBytes (hashBytes rows n bps)

/-! ### The operations -/

/-- `CRC8_RESET` (R192). -/
def execCrc8Reset (s : State) : Host.Outcome State Fault Refusal :=
  issue (.none .crc8Reset) (do
    update fun t => { t with crc8 := Config.crc8.init }
    pure .none) s

/-- `CRC8_UPDATE bytes` (R193). -/
def execCrc8Update (count : Nat) (s : State) : Host.Outcome State Fault Refusal :=
  issue (.none (.crc8Update count)) (do
    let bs ← payloadBytes count
    update fun t => { t with crc8 := crc8Fold t.crc8 bs }
    let c ← look State.crc8
    pure (.nat (crcOut Config.crc8 c).toNat)) s

/-- `CRC16_RESET` (R195). -/
def execCrc16Reset (s : State) : Host.Outcome State Fault Refusal :=
  issue (.none .crc16Reset) (do
    update fun t => { t with crc16 := Config.crc16.init }
    pure .none) s

/-- `CRC16_UPDATE bytes` (R196). -/
def execCrc16Update (count : Nat) (s : State) : Host.Outcome State Fault Refusal :=
  issue (.none (.crc16Update count)) (do
    let bs ← payloadBytes count
    update fun t => { t with crc16 := crc16Fold t.crc16 bs }
    let c ← look State.crc16
    pure (.nat (crcOut Config.crc16 c).toNat)) s

/-- `MD5_RESET` (R203). -/
def execMd5Reset (s : State) : Host.Outcome State Fault Refusal :=
  issue (.none .md5Reset) (do
    update fun t => { t with md5 := Md5Regs.reset }
    pure .none) s

/-- `MD5_UPDATE bytes` (R204). -/
def execMd5Update (count : Nat) (s : State) : Host.Outcome State Fault Refusal :=
  issue (.none (.md5Update count)) (do
    let bs ← payloadBytes count
    md5UpdateBytes bs
    pure .none) s

/-- `MD5_UPDATE_PCM` (R206). -/
def execMd5UpdatePcm (s : State) : Host.Outcome State Fault Refusal :=
  issue (.none .md5UpdatePcm) (do
    md5UpdatePcm
    pure .none) s

/-- `MD5_FINAL` (R207); the result is the 16 bytes of the digest, byte 0 first. -/
def execMd5Final (s : State) : Host.Outcome State Fault Refusal :=
  issue (.none .md5Final) (do
    let d ← md5Final
    pure (.bytes (beBytes 16 d.toNat))) s

end Sys2Proof.Machine
end

