-- ==== Sys2Proof/Machine/FrameModel.lean ====
section
/-! DEFINITION. The stream marker, metadata blocks, StreamInfo and the frame header: 43_frame_model.md R221 to R236, with the
code tables of 30_encoding.md R112 to R115. -/

namespace Sys2Proof.Machine

/-! ### Reading the marker and the metadata -/

/-- `MK_READ` (R221). -/
def mkRead : Op Unit := do
  notEncode
  let m ← readBytes 4
  check (m = Config.streamMarker) (.structural .badMarker)

/-- `MBH_READ` (R222); `MB_COUNT` beyond its 32 bits is a free value (log 8). -/
def mbhRead : Op MbHeader := do
  notEncode
  readAligned
  starve 32
  let last ← readU 1
  let type ← readU 7
  let length ← readU 24
  let h : MbHeader := ⟨last = 1, type, length⟩
  update fun s =>
    if s.mbCount + 1 < 2 ^ 32 then { s with mb := some h, mbCount := s.mbCount + 1 }
    else { s with mb := some h, mbCount := (Config.beyondWidth 32 .mbCount s.mbCount (s.mbCount + 1)).toNat }
  pure h

/-- The fields of the StreamInfo body, in wire order (R223, 30_encoding.md R106). -/
def readStreamInfo : Op StreamInfo := do
  let minBs ← readU 16
  let maxBs ← readU 16
  let minFs ← readU 24
  let maxFs ← readU 24
  let rate ← readU 20
  let ch ← readU 3
  let bps ← readU 5
  let totalHi ← readU 4
  let totalLo ← readU 32
  let md5 ← readBytes 16
  pure ⟨minBs, maxBs, minFs, maxFs, rate, ch + 1, bps + 1, totalHi * 2 ^ 32 + totalLo, BitVec.ofNat 128 (beNat md5)⟩

/-- `SI_READ` (R223; order of the checks: log 29). A second one ahead of `SI_VALIDATE` reads the registers anew, as R223's check of
`SI_VALID` has it and 10_state.md R31 and 70_reset_and_hazards.md R434 ("at most once") do not (DESIGN CHOICE, log 39). -/
def siRead : Op Unit := do
  notEncode
  readAligned
  let valid ← look State.siValid
  check (valid = false) (.structural .duplicateStreamInfo)
  starve (8 * Config.streamInfoLen)
  let si ← readStreamInfo
  update fun s => { s with si := some si }

/-- What `SI_VALIDATE` asks of the StreamInfo registers (R224). -/
abbrev StreamInfo.Consistent (si : StreamInfo) : Prop :=
  si.sampleRate ≠ 0 ∧ 4 ≤ si.bps ∧ si.minBlocksize ≠ 0 ∧ si.minBlocksize ≤ si.maxBlocksize ∧
    (si.maxFramesize = 0 ∨ si.minFramesize ≤ si.maxFramesize)

/-- `SI_READ` has run in this session (R224): the SI registers are written, and not by `ENC_INIT`. That is so exactly outside mode
Encode, where `SI_READ` is refused (10_state.md R21) and which alone accepts `ENC_INIT`; `STREAM_RESET`, which alone changes the mode,
empties the registers (DEDUCED, log 36). -/
def State.siReadRan (s : State) : Bool := s.si.isSome && decide (s.mode ≠ .encode)

/-- `SI_VALIDATE` (R224). -/
def siValidate : Op Unit := do
  let ran ← look State.siReadRan
  check (ran = true) (.logic .unwrittenState)
  let si ← readReg State.si
  check si.Consistent (.structural .inconsistentStreamInfo)
  update fun s => { s with siValid := true }

/-- `MB_READ_BODY` (R226); answers the body. -/
def mbReadBody : Op (List Byte) := do
  notEncode
  let h ← readReg State.mb
  let body ← readBytes h.length
  update fun s => { s with mdOut := s.mdOut ++ [⟨h.type, h.last, h.length, body⟩] }
  pure body

/-- `MDSEQ_CHECK` (R225), in every mode; its `StructuralError` in mode Encode: DESIGN CHOICE, log 38. -/
def mdseqCheck (blocks : List MdEntry) : Op Unit := do
  match blocks with
  | [] => raise (.structural .noStreamInfo)
  | first :: rest =>
    check (first.type = Config.mbType .streamInfo) (.structural .noStreamInfo)
    check (first.length = Config.streamInfoLen) (.structural .badStreamInfoLength)
    check (∀ b ∈ rest, b.type ≠ Config.mbType .streamInfo) (.structural .duplicateStreamInfo)
    check ((blocks.filter (·.last)).length = 1 ∧ (blocks.getLast?.map (·.last)) = some true) (.structural .multipleLast)

/-! ### The header codes -/

/-- `blocksize_of_code` (R228); `none` for the reserved code 0 and for the codes read from the header. -/
def blocksizeOfCode (c : Nat) : Option Nat :=
  if c = 1 then some 192
  else if 2 ≤ c ∧ c ≤ 5 then some (576 * 2 ^ (c - 2))
  else if 8 ≤ c ∧ c ≤ 15 then some (256 * 2 ^ (c - 8))
  else none

/-- The enumeration of 30_encoding.md R113, codes 1 to 11. -/
def sampleRateOfCode (c : Nat) : Option Nat :=
  match c with
  | 1 => some 88200
  | 2 => some 176400
  | 3 => some 192000
  | 4 => some 8000
  | 5 => some 16000
  | 6 => some 22050
  | 7 => some 24000
  | 8 => some 32000
  | 9 => some 44100
  | 10 => some 48000
  | 11 => some 96000
  | _ => none

/-- `channels_of` (R228), for an assignment code of at most 10. -/
def channelsOf (ca : Nat) : Nat := if ca ≤ 7 then ca + 1 else 2

/-- `bps_of_code` (R228) with the StreamInfo's depth for code 0; code 3 is reserved. -/
def bpsOfCode (c siBps : Nat) : Option Nat :=
  match c with
  | 0 => some siBps
  | 1 => some 8
  | 2 => some 12
  | 4 => some 16
  | 5 => some 20
  | 6 => some 24
  | 7 => some 32
  | _ => none

/-- A code and the field at the end of the header that goes with it: its width (0 for none) and value (R229). -/
structure HeaderCode where
  code : Nat
  width : Nat
  value : Nat
  deriving DecidableEq, Repr

/-- `bs_code_for` (R229). -/
def bsCodeFor (bs : Nat) : HeaderCode :=
  match bs with
  | 192 => ⟨1, 0, 0⟩
  | 576 => ⟨2, 0, 0⟩
  | 1152 => ⟨3, 0, 0⟩
  | 2304 => ⟨4, 0, 0⟩
  | 4608 => ⟨5, 0, 0⟩
  | 256 => ⟨8, 0, 0⟩
  | 512 => ⟨9, 0, 0⟩
  | 1024 => ⟨10, 0, 0⟩
  | 2048 => ⟨11, 0, 0⟩
  | 4096 => ⟨12, 0, 0⟩
  | 8192 => ⟨13, 0, 0⟩
  | 16384 => ⟨14, 0, 0⟩
  | 32768 => ⟨15, 0, 0⟩
  | _ => if bs ≤ 256 then ⟨6, 8, bs - 1⟩ else ⟨7, 16, bs - 1⟩

/-- The code of a rate in the enumeration (30_encoding.md R113). -/
def enumeratedRate (sr : Nat) : Option Nat :=
  match sr with
  | 88200 => some 1
  | 176400 => some 2
  | 192000 => some 3
  | 8000 => some 4
  | 16000 => some 5
  | 22050 => some 6
  | 24000 => some 7
  | 32000 => some 8
  | 44100 => some 9
  | 48000 => some 10
  | 96000 => some 11
  | _ => none

/-- `sr_code_for` (R229). -/
def srCodeFor (sr : Nat) : HeaderCode :=
  match enumeratedRate sr with
  | some c => ⟨c, 0, 0⟩
  | none =>
    if sr % 1000 = 0 ∧ sr / 1000 < 256 then ⟨12, 8, sr / 1000⟩
    else if sr < 65536 then ⟨13, 16, sr⟩
    else if sr % 10 = 0 ∧ sr / 10 < 65536 then ⟨14, 16, sr / 10⟩
    else ⟨0, 0, 0⟩

/-- `bps_code_for` (R229). -/
def bpsCodeFor (bps : Nat) : Nat :=
  match bps with
  | 8 => 1
  | 12 => 2
  | 16 => 4
  | 20 => 5
  | 24 => 6
  | 32 => 7
  | _ => 0

/-! ### The frame-header parser and validator -/

/-- The first 32 bits of a frame header after the sync code (30_encoding.md R110). -/
structure FhFixed where
  reserved : Nat
  variable_ : Nat
  bsCode : Nat
  srCode : Nat
  chanAssign : Nat
  bpsCode : Nat
  deriving DecidableEq, Repr

/-- The fixed part of `FH_PARSE` (R227): the sync code is looked at, then the fixed fields are read. -/
def fhFixed : Op FhFixed := do
  let sync ← peekBits Config.syncLen
  if sync ≠ Config.syncCode then do
    skipBits 8
    raise (.sync .badSync)
  else do
    skipBits Config.syncLen
    let r1 ← readU 1
    let var ← readU 1
    let bsc ← readU 4
    let src ← readU 4
    let ca ← readU 4
    let bpc ← readU 3
    let r2 ← readU 1
    check (src ≠ 15) (.sync .headerReserved)
    pure ⟨r1 ||| r2, var, bsc, src, ca, bpc⟩

/-- The block size of the header in hand; `none` for code 0 (R227, log 20). -/
def fhBlocksize (bsc : Nat) : Op (Option Nat) :=
  if bsc = 6 then do
    let v ← readU 8
    pure (some (v + 1))
  else if bsc = 7 then do
    let v ← readU 16
    pure (some (v + 1))
  else pure (blocksizeOfCode bsc)

/-- `SI_*` as a deferring header code needs it: `SI_VALID = 1`, or it is unwritten (R228). -/
def validStreamInfo : Op StreamInfo := do
  let valid ← look State.siValid
  check (valid = true) (.logic .unwrittenState)
  readReg State.si

/-- The sample rate of the header in hand (R227, R228). -/
def fhSampleRate (src : Nat) : Op Nat :=
  if src = 12 then do
    let v ← readU 8
    pure (v * 1000)
  else if src = 13 then readU 16
  else if src = 14 then do
    let v ← readU 16
    pure (v * 10)
  else if src = 0 then do
    let si ← validStreamInfo
    pure si.sampleRate
  else written (sampleRateOfCode src)

/-- A header begins: the one before is no longer current (R227), and the CRC-8 restarts from its initial value
(70_reset_and_hazards.md R424), which `CRC8` then holds in a header that fails before its CRC-8 is computed (log 31). -/
def headerStart : Op Unit := update fun s => { s with crc8 := Config.crc8.init, fh := { s.fh with valid := false } }

/-- `FH_PARSE` (R227, R230). Where input ends inside the coded number, the bytes of the number already read are consumed
(DESIGN CHOICE, log 12). -/
def fhParse : Op Unit := do
  notEncode
  readAligned
  headerStart
  let start ← look fun s => s.brPos / 8
  let h ← fhFixed
  let num ← readCodedBytes (if h.variable_ = 0 then 6 else 7)
  let bs ← fhBlocksize h.bsCode
  let sr ← fhSampleRate h.srCode
  let stop ← look fun s => s.brPos / 8
  let crc ← readU 8
  update fun s =>
    { s with
      crc8 := crc8Of ((s.input.drop start).take (stop - start))
      fh := { s.fh with crc8 := some (BitVec.ofNat 8 crc) } }
  let sum ← look State.crc8
  if sum.toNat ≠ crc then do
    update fun s => s.setFlag .crc8Err
    raise (.sync .headerCrc8)
  else
    update fun s =>
      { s with fh := { s.fh with
          start := some start
          variable_ := some h.variable_
          bsCode := some h.bsCode
          srCode := some h.srCode
          chanAssign := some h.chanAssign
          bpsCode := some h.bpsCode
          number := some num
          blocksize := bs
          sampleRate := some sr
          reserved := some h.reserved } }

/-- `FH_VALIDATE` (R231, R232): `FH_CHANNELS` and `FH_BPS` are written before the header is held against StreamInfo. Inside
`DEC_FRAME` they stay written where that check fails (70_reset_and_hazards.md R433). `SI_VALID` is looked at first, and a header
register read where the checks reach it (DESIGN CHOICE, log 32). -/
def fhValidate : Op Unit := do
  let si ← validStreamInfo
  let reserved ← readReg fun s => s.fh.reserved
  check (reserved ≠ 1) (.sync .headerReserved)
  let bsc ← readReg fun s => s.fh.bsCode
  check (bsc ≠ 0) (.sync .headerReserved)
  let bs ← readReg fun s => s.fh.blocksize
  check (bs ≠ 65536) (.sync .headerReserved)
  let ca ← readReg fun s => s.fh.chanAssign
  check (ca < 11) (.unsupported .channelAssignment)
  let bpc ← readReg fun s => s.fh.bpsCode
  check (bpc ≠ 3) (.unsupported .bitDepthCode)
  let bps ← written (bpsOfCode bpc si.bps)
  update fun s => { s with fh := { s.fh with channels := some (channelsOf ca), bps := some bps } }
  let sr ← readReg fun s => s.fh.sampleRate
  check (channelsOf ca = si.channels ∧ bps = si.bps ∧ sr = si.sampleRate ∧ bs ≤ si.maxBlocksize)
    (.sync .headerMismatch)
  let var ← readReg fun s => s.fh.variable_
  let num ← readReg fun s => s.fh.number
  update fun s =>
    { s with fh := { s.fh with
        firstSample := some (if var = 1 then num else num * si.maxBlocksize)
        valid := true } }

/-! ### Writers -/

/-- `MK_WRITE` (R233). -/
def mkWrite : Op Unit := writeBytes Config.streamMarker

/-- `MBH_WRITE last, type, length` (R234); `b` holds type and length. -/
def mbhWrite (last b : Nat) : Op Unit := do
  writeAligned
  check (last ≤ 1 ∧ b < 2 ^ 31) (.logic .valueOutOfRange)
  writeU 1 last
  writeU 7 (b / 2 ^ 24)
  writeU 24 (b % 2 ^ 24)

/-- Every field of the StreamInfo registers fits its wire field (R235: with the registers valid they all do). -/
abbrev StreamInfo.Fits (si : StreamInfo) : Prop :=
  fitsU si.minBlocksize 16 ∧ fitsU si.maxBlocksize 16 ∧ fitsU si.minFramesize 24 ∧ fitsU si.maxFramesize 24 ∧
    fitsU si.sampleRate 20 ∧ fitsU (si.channels - 1) 3 ∧ fitsU (si.bps - 1) 5 ∧ fitsU si.totalSamples 36

/-- The 34 bytes of the StreamInfo body as bits (R235, 30_encoding.md R106). -/
def StreamInfo.bits (si : StreamInfo) : List Bool :=
  natBits 16 si.minBlocksize ++ natBits 16 si.maxBlocksize ++ natBits 24 si.minFramesize ++ natBits 24 si.maxFramesize ++
    natBits 20 si.sampleRate ++ natBits 3 (si.channels - 1) ++ natBits 5 (si.bps - 1) ++ natBits 36 si.totalSamples ++
    natBits 128 si.md5.toNat

/-- `SI_WRITE` (R235). -/
def siWrite : Op Unit := do
  writeAligned
  let si ← validStreamInfo
  check si.Fits (.logic .valueOutOfRange)
  emit si.bits

/-- `FH_WRITE` (R236). -/
def fhWrite : Op Unit := do
  writeAligned
  let bs ← readReg fun s => s.fh.blocksize
  check (Config.blocksizeMin ≤ bs ∧ bs ≤ Config.blocksizeMax) (.logic .valueOutOfRange)
  let ca ← readReg fun s => s.fh.chanAssign
  check (ca ≤ 10) (.logic .valueOutOfRange)
  let num ← readReg fun s => s.fh.number
  let var ← readReg fun s => s.fh.variable_
  check (num < if var = 0 then 2 ^ 31 else 2 ^ 36) (.logic .valueOutOfRange)
  let sr ← readReg fun s => s.fh.sampleRate
  let bps ← readReg fun s => s.fh.bps
  let start ← look fun s => s.out.length / 8
  update fun s => { s with fh := { s.fh with start := some start } }
  let bsc := bsCodeFor bs
  let src := srCodeFor sr
  let bpc := bpsCodeFor bps
  writeU Config.syncLen Config.syncCode
  writeU 1 0
  writeU 1 var
  writeU 4 bsc.code
  writeU 4 src.code
  writeU 4 ca
  writeU 3 bpc
  writeU 1 0
  writeCoded num
  writeU bsc.width bsc.value
  writeU src.width src.value
  update fun s => { s with crc8 := crc8Of (s.outBytes start) }
  let sum ← look State.crc8
  writeU 8 sum.toNat
  update fun s =>
    { s with fh := { s.fh with
        crc8 := some sum
        bsCode := some bsc.code
        srCode := some src.code
        bpsCode := some bpc
        valid := true } }

/-! ### The operations -/

/-- `MK_READ` (R221). -/
def execMkRead (s : State) : Host.Outcome State Fault Refusal :=
  issue .read (do
    mkRead
    pure .none) s

/-- `MBH_READ` (R222). -/
def execMbhRead (s : State) : Host.Outcome State Fault Refusal :=
  issue .read (do
    let _ ← mbhRead
    pure .none) s

/-- `SI_READ` (R223). -/
def execSiRead (s : State) : Host.Outcome State Fault Refusal :=
  issue .read (do
    siRead
    pure .none) s

/-- `SI_VALIDATE` (R224). -/
def execSiValidate (s : State) : Host.Outcome State Fault Refusal :=
  issue .read (do
    siValidate
    pure .none) s

/-- `MB_READ_BODY` (R226). -/
def execMbReadBody (s : State) : Host.Outcome State Fault Refusal :=
  issue .read (do
    let _ ← mbReadBody
    pure .none) s

/-- `FH_PARSE` (R227). -/
def execFhParse (s : State) : Host.Outcome State Fault Refusal :=
  issue .read (do
    fhParse
    pure .none) s

/-- `FH_VALIDATE` (R231): issued by the host it takes effect wholly or not at all (20_memory.md R78; log 21). -/
def execFhValidate (s : State) : Host.Outcome State Fault Refusal :=
  issue .read (do
    atomically fhValidate
    pure .none) s

/-- `MDSEQ_CHECK blocks` (R225). -/
def execMdseqCheck (count : Nat) (s : State) : Host.Outcome State Fault Refusal :=
  issue .write (do
    let blocks ← payloadBlocks count
    mdseqCheck blocks
    pure .none) s

/-- `MK_WRITE` (R233). -/
def execMkWrite (s : State) : Host.Outcome State Fault Refusal :=
  issue .write (do
    mkWrite
    pure .none) s

/-- `MBH_WRITE last, type, length` (R234). -/
def execMbhWrite (last b : Nat) (s : State) : Host.Outcome State Fault Refusal :=
  issue .write (do
    mbhWrite last b
    pure .none) s

/-- `SI_WRITE` (R235). -/
def execSiWrite (s : State) : Host.Outcome State Fault Refusal :=
  issue .write (do
    siWrite
    pure .none) s

/-- `FH_WRITE` (R236). -/
def execFhWrite (s : State) : Host.Outcome State Fault Refusal :=
  issue .write (do
    fhWrite
    pure .none) s

end Sys2Proof.Machine
end

