-- ==== Sys2Proof/Machine/Residual.lean ====
section
/-! DEFINITION. The residual coder: partition geometry, sizes, decoding and encoding of the residual section:
45_residual.md R281 to R293. The choice of parameters and partitions is in `Select.lean`. -/

namespace Sys2Proof.Machine

/-! ### Geometry and sizes -/

/-- A partition order that is valid for a block of `n` samples and a predictor of order `o` (R285). -/
abbrev porderValid (n o p : Nat) : Prop := p ≤ Config.partOrderMax ∧ n % 2 ^ p = 0 ∧ o ≤ n / 2 ^ p

/-- `count(p, i)` (R281). -/
def partCount (n o p i : Nat) : Nat := if i = 0 then n / 2 ^ p - o else n / 2 ^ p

/-- `k` runs of `size` entries. -/
def chunks {α : Type} (size : Nat) : Nat → List α → List (List α)
  | 0, _ => []
  | k + 1, l => l.take size :: chunks size k (l.drop size)

/-- The partitions of a residual (R281). -/
def partitions (n o p : Nat) (res : List Int) : List (List Int) :=
  res.take (n / 2 ^ p - o) :: chunks (n / 2 ^ p) (2 ^ p - 1) (res.drop (n / 2 ^ p - o))

/-- `pw`: the width of the parameter field (R286). -/
def paramWidth (method : Nat) : Nat := (Config.riceMethod method).width

/-- The largest parameter of a method (R286). -/
def paramMax (method : Nat) : Nat := (Config.riceMethod method).maxParam

/-- The parameter field's value that announces an escape (R286). -/
def escapeCode (method : Nat) : Nat := (Config.riceMethod method).escape

/-- `rice_bits(r, k)` (R283). -/
def riceSize (k : Nat) (r : Int) : Nat := zz r / 2 ^ k + 1 + k

/-- `cost(k)` of a run (R290). -/
def riceCost (k : Nat) (run : List Int) : Nat := (run.map (riceSize k)).sum

/-- An escaped residual fits `nb` bits (R288, R289). -/
def escFits (nb : Nat) (r : Int) : Bool :=
  match Config.escRawForm with
  | .zigzagUnsigned => decide (fitsU (zz r) nb)
  | .twosComplement => decide (r = 0 ∨ fitsS r nb)

/-- A partition that the escape can store (R288). -/
abbrev escapable (run : List Int) : Prop := ∀ r ∈ run, -(2 ^ 30) ≤ r ∧ r < 2 ^ 30

/-- The least width from `nb` on that holds the run, at most `nb + fuel`. -/
def leastWidthFrom (run : List Int) : Nat → Nat → Nat
  | 0, nb => nb
  | fuel + 1, nb => if ∀ r ∈ run, escFits nb r then nb else leastWidthFrom run fuel (nb + 1)

/-- The least raw width of an escapable partition (R288). -/
def leastRawWidth (run : List Int) : Nat := leastWidthFrom run Config.escWidthMax 0

/-- The size of one partition under a choice (R283). -/
def partSize (method : Nat) (run : List Int) : PartChoice → Nat
  | .rice k => paramWidth method + riceCost k run
  | .esc nb => paramWidth method + Config.escWidthBits + run.length * nb

/-- `rbits`: the size of the residual section under a table (R283). -/
def tableSize (n o : Nat) (res : List Int) (t : PartTable) : Nat :=
  6 + (((partitions n o t.porder res).zip t.parts).map fun x => partSize t.method x.1 x.2).sum

/-! ### Decoding -/

/-- Write entry `i` of `RES`. -/
def writeRes (i : Nat) (r : Int) : Op Unit := update fun s => { s with res := setAt s.res i r }

/-- Write an entry of the partition table as `RES_DECODE` does: the field that goes with the other form is not written (R284). -/
def writeEntry (i : Nat) (c : PartChoice) : Op Unit := update fun s =>
  let old := s.rc.table.getD i ⟨false, none, none⟩
  let new : RcEntry := match c with
    | .rice k => { old with esc := false, param := some k }
    | .esc nb => { old with esc := true, raw := some nb }
  { s with rc := { s.rc with table := setAt s.rc.table i new } }

/-- `esc_read(nb)` (R288). -/
def escRead (nb : Nat) : Op Int :=
  if nb = 0 then pure 0
  else match Config.escRawForm with
    | .zigzagUnsigned => do
      let u ← readU nb
      pure (unzz u)
    | .twosComplement => readS nb

/-- One residual of a Rice partition (R284, R293). -/
def riceRead (k : Nat) : Op Int := do
  let r ← readRice k
  check (residualOk r) (.sync .badResidual)
  pure r

/-- `cnt` residuals into `RES` from entry `idx` on. -/
def readRun (one : Op Int) : Nat → Nat → Op Unit
  | 0, _ => pure ()
  | cnt + 1, idx => do
      let r ← one
      writeRes idx r
      readRun one cnt (idx + 1)

/-- Partition `i` with `cnt` residuals (R284). -/
def readPartition (method i cnt idx : Nat) : Op Unit := do
  let f ← readU (paramWidth method)
  if f = escapeCode method then do
    let nb ← readU Config.escWidthBits
    writeEntry i (.esc nb)
    readRun (escRead nb) cnt idx
  else do
    writeEntry i (.rice f)
    readRun (riceRead f) cnt idx

/-- The partitions from `i` on. -/
def readPartitions (n o method p : Nat) : Nat → Nat → Nat → Op Unit
  | 0, _, _ => pure ()
  | left + 1, i, idx => do
      readPartition method i (partCount n o p i) idx
      readPartitions n o method p left (i + 1) (idx + partCount n o p i)

/-- The six bits before the partitions (R284): method and partition order, checked and recorded. -/
def readResHeader (n o : Nat) : Op (Nat × Nat) := do
  let m ← readU 2
  check (m < Config.riceMethodCount) (.sync .badResidual)
  let p ← readU 4
  check (porderValid n o p) (.sync .badResidual)
  update fun s => { s with rc := { s.rc with method := some m, porder := some p } }
  pure (m, p)

/-- `n` and `o` of the subframe in hand (45_residual.md, opening). -/
def blockGeometry : Op (Nat × Nat) := do
  let n ← readReg fun s => s.fh.blocksize
  let o ← readReg fun s => s.sf.order
  pure (n, o)

/-- `RES_DECODE` (R284). `n` and `o`, which the rule's pseudocode first uses where it checks `p`, are read ahead of the first bit
(DESIGN CHOICE, log 32). -/
def resDecode : Op Unit := do
  let (n, o) ← blockGeometry
  let (m, p) ← readResHeader n o
  readPartitions n o m p (2 ^ p) 0 0

/-! ### Encoding -/

/-- The table in `RC_*` as choices (R289): an unwritten entry is a `LogicError`. -/
def entryChoice (e : RcEntry) : Op PartChoice :=
  if e.esc then do
    let nb ← written e.raw
    pure (.esc nb)
  else do
    let k ← written e.param
    pure (.rice k)

/-- The choices of the table's entries. -/
def entryChoices : List RcEntry → Op (List PartChoice)
  | [] => pure []
  | e :: rest => do
      let c ← entryChoice e
      let cs ← entryChoices rest
      pure (c :: cs)

/-- A choice a partition can be written with (R289). -/
def choiceFits (method : Nat) (run : List Int) : PartChoice → Bool
  | .rice k => decide (k ≤ paramMax method)
  | .esc nb => decide (nb ≤ Config.escWidthMax) && run.all (escFits nb)

/-- The check of one partition (R289): a parameter outside the method is a bad operand, a residual outside the raw width does
not fit. -/
def checkChoice (method : Nat) (x : List Int × PartChoice) : Op Unit :=
  match x.2 with
  | .rice k => check (k ≤ paramMax method) (.logic .badOperand)
  | .esc nb => check (∀ r ∈ x.1, escFits nb r) (.logic .valueOutOfRange)

/-- `esc_write(nb, r)` (R288). -/
def escBits (nb : Nat) (r : Int) : List Bool :=
  match Config.escRawForm with
  | .zigzagUnsigned => natBits nb (zz r)
  | .twosComplement => natBits nb (tc nb r)

/-- The bits of one partition (R289, 30_encoding.md R130). -/
def partBits (method : Nat) (run : List Int) : PartChoice → List Bool
  | .rice k => natBits (paramWidth method) k ++ run.flatMap (riceBits k)
  | .esc nb => natBits (paramWidth method) (escapeCode method) ++ natBits Config.escWidthBits nb ++ run.flatMap (escBits nb)

/-- The bits of the residual section (R289). -/
def sectionBits (n o : Nat) (res : List Int) (t : PartTable) : List Bool :=
  natBits 2 t.method ++ natBits 4 t.porder ++
    ((partitions n o t.porder res).zip t.parts).flatMap fun x => partBits t.method x.1 x.2

/-- `RES_ENCODE` (R289): all checks, then the bits; answers their number. The 2^p entries of the table and all of `RES` are read
before any of them is checked, so that an unwritten one is reported ahead of a parameter out of range or a residual that does
not fit. The limits of R293 are checked behind the parameters and raw widths of all partitions (DESIGN CHOICE, log 32). -/
def resEncode : Op Nat := do
  let (n, o) ← blockGeometry
  let p ← readReg fun s => s.rc.porder
  check (porderValid n o p) (.logic .badOperand)
  let m ← readReg fun s => s.rc.method
  let entries ← look fun s => s.rc.table
  let entries ← readEntries entries (2 ^ p)
  let parts ← entryChoices entries
  let res ← look State.res
  let res ← readEntries res (n - o)
  forEach (checkChoice m) ((partitions n o p res).zip parts)
  check (∀ r ∈ res, residualOk r) (.logic .valueOutOfRange)
  let bits := sectionBits n o res ⟨m, p, parts⟩
  emit bits
  pure bits.length

/-! ### The operations -/

/-- `RES_DECODE` (R284). -/
def execResDecode (s : State) : Host.Outcome State Fault Refusal :=
  issue .read (do
    notEncode
    resDecode
    pure .none) s

/-- `RES_ENCODE` (R289). -/
def execResEncode (s : State) : Host.Outcome State Fault Refusal :=
  issue .write (do
    let n ← resEncode
    pure (.nat n)) s

end Sys2Proof.Machine
end

