-- ==== Sys2Proof/Machine/Predictor.lean ====
section
/-! DEFINITION. Subframes and prediction, without the selection functions: 44_predictor.md R251 to R261 and R267 to R270. -/

namespace Sys2Proof.Machine

/-! ### Prediction (R256, R258); a history lists the samples before the one predicted, latest first -/

/-- `P_o(i)` (R256). -/
def fixedPredict (o : Nat) (hist : List Int) : Int :=
  match o with
  | 0 => 0
  | 1 => hist.getD 0 0
  | 2 => 2 * hist.getD 0 0 - hist.getD 1 0
  | 3 => 3 * hist.getD 0 0 - 3 * hist.getD 1 0 + hist.getD 2 0
  | _ => 4 * hist.getD 0 0 - 6 * hist.getD 1 0 + 4 * hist.getD 2 0 - hist.getD 3 0

/-- `acc >> QLP_SHIFT` (R258): exact sum, shift toward minus infinity. -/
def lpcPredict (qlp : List Int) (shift : Nat) (hist : List Int) : Int :=
  (List.zipWith (· * ·) qlp hist).sum / 2 ^ shift

/-- Samples from residuals (R257, R258), in ascending order. -/
def restoreRun (predict : List Int → Int) : List Int → List Int → List Int
  | _, [] => []
  | hist, r :: rest => (r + predict hist) :: restoreRun predict ((r + predict hist) :: hist) rest

/-- Residuals from samples (R260, R261). -/
def residualRun (predict : List Int → Int) : List Int → List Int → List Int
  | _, [] => []
  | hist, x :: rest => (x - predict hist) :: residualRun predict (x :: hist) rest

/-- The samples after the warm-up, from the warm-up and the residual. -/
def restoreFrom (predict : List Int → Int) (warmup res : List Int) : List Int := restoreRun predict warmup.reverse res

/-- The residual of `xs` under a predictor of order `o`. -/
def residualOf (predict : List Int → Int) (o : Nat) (xs : List Int) : List Int :=
  residualRun predict (xs.take o).reverse (xs.drop o)

/-- The largest magnitude of a residual that has one (R260; of an empty one: `residualPeak`). -/
def largestMagnitude (l : List Int) : Nat := l.foldl (fun m r => max m r.natAbs) 0

/-! ### Samples of the subframe in hand -/

/-- `side(ca, c)` (46_decoder_pipeline.md R317). -/
def sideBit (ca c : Nat) : Nat := if (ca = 8 ∧ c = 1) ∨ (ca = 9 ∧ c = 0) ∨ (ca = 10 ∧ c = 1) then 1 else 0

/-- Write `SMP[c][i]`. -/
def writeSmp (c i : Nat) (v : Int) : Op Unit := update fun s => { s with smp := s.smp.modify c fun row => setAt row i v }

/-- Write `SMP[c][0 ..]`. An entry takes the exact integer: `FIXED_RESTORE`, `LPC_RESTORE` and `CH_DECORR_FWD` can give one beyond
the 33 bits of 10_state.md R38, for which the spec states no check and no wrapping (DESIGN CHOICE, log 30). -/
def writeRow (c : Nat) (vs : List Int) : Op Unit := update fun s =>
  { s with smp := s.smp.modify c fun row => overwrite row vs }

/-- `SMP[c][0 .. n - 1]`; an unwritten entry is a `LogicError` (10_state.md R41). -/
def readRow (c n : Nat) : Op (List Int) := do
  let row ← look fun s => s.smp.getD c []
  readEntries row n

/-- `x[0 .. n - 1]` (R250): the samples of the subframe in hand without their wasted low bits. -/
def codedSamples : Op (List Int) := do
  let n ← readReg fun s => s.fh.blocksize
  let c ← readReg fun s => s.sf.ch
  let w ← readReg fun s => s.sf.wasted
  let row ← readRow c n
  pure (row.map (· / 2 ^ w))

/-! ### Decode side -/

/-- `cnt` samples of `bps` bits into `SMP[c]` from entry `i` on (R253, R254). -/
def readSamples (c bps : Nat) : Nat → Nat → Op Unit
  | 0, _ => pure ()
  | cnt + 1, i => do
      let v ← readS bps
      writeSmp c i v
      readSamples c bps cnt (i + 1)

/-- `SF_DEC_CONSTANT` (R252). The registers it uses are read ahead of the first bit (DESIGN CHOICE, log 32). -/
def sfDecConstant : Op Unit := do
  let n ← readReg fun s => s.fh.blocksize
  let c ← readReg fun s => s.sf.ch
  let bps ← readReg fun s => s.sf.bps
  let v ← readS bps
  writeRow c (List.replicate n v)

/-- `SF_DEC_VERBATIM` (R253). The registers it uses are read ahead of the first bit (DESIGN CHOICE, log 32). -/
def sfDecVerbatim : Op Unit := do
  let n ← readReg fun s => s.fh.blocksize
  let c ← readReg fun s => s.sf.ch
  let bps ← readReg fun s => s.sf.bps
  readSamples c bps n 0

/-- `FIXED_RESTORE` (R257). -/
def fixedRestore : Op Unit := do
  let n ← readReg fun s => s.fh.blocksize
  let c ← readReg fun s => s.sf.ch
  let type ← readReg fun s => s.sf.type
  let o ← readReg fun s => s.sf.order
  check (type = .fixed ∧ o ≤ Config.fixedOrderMax) (.logic .badOperand)
  if n ≤ o then pure ()
  else do
    let warmup ← readRow c o
    let res ← look State.res
    let res ← readEntries res (n - o)
    writeRow c (warmup ++ restoreFrom (fixedPredict o) warmup res)

/-- `LPC_RESTORE` (R258); its `BadOperand` is R257's with the type Lpc and an order of 1 to 32 (DEDUCED, log 35). -/
def lpcRestore : Op Unit := do
  let n ← readReg fun s => s.fh.blocksize
  let c ← readReg fun s => s.sf.ch
  let type ← readReg fun s => s.sf.type
  let o ← readReg fun s => s.sf.order
  check (type = .lpc ∧ 1 ≤ o ∧ o ≤ Config.lpcOrderMax) (.logic .badOperand)
  if n ≤ o then pure ()
  else do
    let shift ← readReg State.qlpShift
    let qlp ← look State.qlp
    let qlp ← readEntries qlp o
    let warmup ← readRow c o
    let res ← look State.res
    let res ← readEntries res (n - o)
    writeRow c (warmup ++ restoreFrom (lpcPredict qlp shift) warmup res)

/-- `SF_DEC_FIXED` (R254). `n`, `SF_CH`, `SF_BPS` and `o` are read ahead of the order's check (DESIGN CHOICE, log 32). The rule lists
R259's `RangeError`, its pseudocode does not check for it: `SF_DEC` does, behind the body (DESIGN CHOICE, log 30). -/
def sfDecFixed : Op Unit := do
  let n ← readReg fun s => s.fh.blocksize
  let c ← readReg fun s => s.sf.ch
  let bps ← readReg fun s => s.sf.bps
  let o ← readReg fun s => s.sf.order
  check (o ≤ n) (.sync .badResidual)
  readSamples c bps o 0
  resDecode
  fixedRestore

/-- The coefficients from `QLP[j]` on (R255). -/
def readCoefs (prec : Nat) : Nat → Nat → Op Unit
  | 0, _ => pure ()
  | cnt + 1, j => do
      let q ← readS prec
      update fun s => { s with qlp := setAt s.qlp j q }
      readCoefs prec cnt (j + 1)

/-- `SF_DEC_LPC` (R255). `n`, `SF_CH`, `SF_BPS` and `o` are read ahead of the order's check (DESIGN CHOICE, log 32). R259's
`RangeError` is left to `SF_DEC`, as in `SF_DEC_FIXED` (DESIGN CHOICE, log 30). -/
def sfDecLpc : Op Unit := do
  let n ← readReg fun s => s.fh.blocksize
  let c ← readReg fun s => s.sf.ch
  let bps ← readReg fun s => s.sf.bps
  let o ← readReg fun s => s.sf.order
  check (o ≤ n) (.sync .badResidual)
  readSamples c bps o 0
  let p ← readU Config.qlpPrecBits
  check (p < Config.qlpPrecMax) (.sync .subframeReserved)
  update fun s => { s with qlpPrec := some (p + 1) }
  let shift ← readS Config.qlpShiftBits
  check (0 ≤ shift) (.sync .subframeReserved)
  update fun s => { s with qlpShift := some shift.toNat }
  readCoefs (p + 1) o 0
  resDecode
  lpcRestore

/-- `finish_subframe` (R259) on a row: the samples before the first that does not fit are already shifted. -/
def finishRow (bps w : Nat) : List Int → List Int × Bool
  | [] => ([], true)
  | v :: rest =>
    if fitsS v bps then (v * 2 ^ w :: (finishRow bps w rest).1, (finishRow bps w rest).2) else (v :: rest, false)

/-- `finish_subframe()` (R259). -/
def finishSubframe (c n bps w : Nat) : Op Unit := do
  let row ← readRow c n
  writeRow c (finishRow bps w row).1
  check ((finishRow bps w row).2 = true) (.sync .rangeError)

/-- The subframe type of the six type bits (R251, 30_encoding.md R121). -/
def sfTypeOf (t : Nat) : Option (SfType × Nat) :=
  if t = 0 then some (.constant, 0)
  else if t = 1 then some (.verbatim, 0)
  else if 8 ≤ t ∧ t ≤ 12 then some (.fixed, t - 8)
  else if 32 ≤ t then some (.lpc, t - 31)
  else none

/-- The eight bits every subframe starts with (30_encoding.md R120): the type bits and the wasted-bits flag. -/
def sfHeader : Op (Nat × Nat) := do
  let pad ← readU 1
  check (pad = 0) (.sync .subframeReserved)
  let t ← readU 6
  let wf ← readU 1
  pure (t, wf)

/-- `SF_TYPE` and `SF_ORDER` are written; a reserved type is refused (R251). -/
def setSfType (t : Nat) : Op SfType := do
  match sfTypeOf t with
  | some (type, order) => do
    update fun s => { s with sf := { s.sf with type := some type, order := some order } }
    pure type
  | none => raise (.sync .subframeReserved)

/-- The body of a subframe of a type. -/
def sfBody : SfType → Op Unit
  | .constant => sfDecConstant
  | .verbatim => sfDecVerbatim
  | .fixed => sfDecFixed
  | .lpc => sfDecLpc

/-- The number of wasted bits, as the flag announces it (R251, 30_encoding.md R122); without `WASTED_BITS` (00_scope.md R10) a set
flag is a reserved value. -/
def readWasted (wf : Nat) : Op Nat :=
  if wf = 1 then do
    check (Config.wastedBits = true) (.sync .subframeReserved)
    let q ← readUnary
    pure (q + 1)
  else pure 0

/-- `SF_DEC c` (R251). Inside `DEC_FRAME` what was written before an exception stays (70_reset_and_hazards.md R433). Behind the
rule's first two checks `n`, `FH_BPS` and `FH_CHAN_ASSIGN` are read ahead of the first bit (`n`: DESIGN CHOICE, log 32). -/
def sfDec (c : Nat) : Op Unit := do
  let valid ← look fun s => s.fh.valid
  check (valid = true) (.logic .unwrittenState)
  let channels ← readReg fun s => s.fh.channels
  check (c < channels) (.logic .badOperand)
  let n ← readReg fun s => s.fh.blocksize
  let bps ← readReg fun s => s.fh.bps
  let ca ← readReg fun s => s.fh.chanAssign
  let depth := bps + sideBit ca c
  let (t, wf) ← sfHeader
  let w ← readWasted wf
  check (w < depth) (.sync .subframeReserved)
  update fun s => { s with sf := { s.sf with ch := some c, wasted := some w, bps := some (depth - w) } }
  let type ← setSfType t
  sfBody type
  finishSubframe c n (depth - w) w

/-! ### Encode side -/

/-- The answer `m` of `FIXED_RESIDUAL` and `LPC_RESIDUAL`, the largest magnitude (R260). Of a residual without an entry (the
order is the block size) the spec states none: a free value, `free` (DESIGN CHOICE of the form, log 34). -/
def residualPeak (free : Nat) (res : List Int) : Nat := if res = [] then free else largestMagnitude res

/-- `FIXED_RESIDUAL order` (R260). The block's samples are read whatever the order, also where it is the block size and no residual
is computed (DESIGN CHOICE, log 32). -/
def fixedResidual (order : Nat) : Op Nat := do
  check (order ≤ Config.fixedOrderMax) (.logic .badOperand)
  let n ← readReg fun s => s.fh.blocksize
  check (order ≤ n) (.logic .badOperand)
  let xs ← codedSamples
  let res := residualOf (fixedPredict order) order xs
  update fun s => { s with res := overwrite s.res res, sf := { s.sf with order := some order } }
  pure (residualPeak (Config.emptyPeak none xs) res)

/-- `LPC_RESIDUAL` (R261). Shift, coefficients and the block's samples are read whatever the order, also where it is the block size
and no residual is computed (DESIGN CHOICE, log 32). -/
def lpcResidual : Op Nat := do
  let n ← readReg fun s => s.fh.blocksize
  let o ← readReg fun s => s.sf.order
  check (1 ≤ o ∧ o ≤ Config.lpcOrderMax ∧ o ≤ n) (.logic .badOperand)
  let shift ← readReg State.qlpShift
  let qlp ← look State.qlp
  let qlp ← readEntries qlp o
  let xs ← codedSamples
  let res := residualOf (lpcPredict qlp shift) o xs
  update fun s => { s with res := overwrite s.res res }
  pure (residualPeak (Config.emptyPeak (some (qlp, shift)) xs) res)

/-- The bits of `write_sf_header(t)` (R267). -/
def sfHeaderBits (t w : Nat) : List Bool :=
  natBits 1 0 ++ natBits 6 t ++ if w = 0 then natBits 1 0 else natBits 1 1 ++ unaryBits (w - 1)

/-- `WriteS(SF_BPS, x)` of each sample in turn. -/
def writeSamples (bps : Nat) (xs : List Int) : Op Unit := forEach (writeS bps) xs

/-- `SF_ENC_CONSTANT` (R267). -/
def sfEncConstant : Op Unit := do
  let xs ← codedSamples
  let bps ← readReg fun s => s.sf.bps
  let w ← readReg fun s => s.sf.wasted
  check (∀ x ∈ xs, x = xs.headD 0) (.logic .badOperand)
  emit (sfHeaderBits 0 w)
  writeS bps (xs.headD 0)

/-- `SF_ENC_VERBATIM` (R268). -/
def sfEncVerbatim : Op Unit := do
  let xs ← codedSamples
  let bps ← readReg fun s => s.sf.bps
  let w ← readReg fun s => s.sf.wasted
  emit (sfHeaderBits 1 w)
  writeSamples bps xs

/-- The residual in `RES[0 .. n - o - 1]` is within the limits, else it cannot be written (R269). -/
def checkResidual (n o : Nat) : Op Unit := do
  let res ← look State.res
  let res ← readEntries res (n - o)
  check (∀ r ∈ res, residualOk r) (.logic .valueOutOfRange)

/-- `SF_ENC_FIXED` (R269). -/
def sfEncFixed : Op Unit := do
  let (n, o) ← blockGeometry
  check (o ≤ Config.fixedOrderMax ∧ o ≤ n) (.logic .badOperand)
  let _ ← fixedResidual o
  checkResidual n o
  let xs ← codedSamples
  let bps ← readReg fun s => s.sf.bps
  let w ← readReg fun s => s.sf.wasted
  emit (sfHeaderBits (8 + o) w)
  writeSamples bps (xs.take o)
  let _ ← resEncode
  pure ()

/-- `SF_ENC_LPC` (R270). The block size and the order are read first; R270's disjunction is then taken from left to right, a
register read where its turn comes: an order out of range is reported ahead of an unwritten `QLP_PREC` or `QLP_SHIFT`, and an
unwritten coefficient ahead of one that does not fit (DESIGN CHOICE, log 32). -/
def sfEncLpc : Op Unit := do
  let (n, o) ← blockGeometry
  check (1 ≤ o ∧ o ≤ Config.lpcOrderMax ∧ o ≤ n) (.logic .badOperand)
  let prec ← readReg State.qlpPrec
  check (1 ≤ prec ∧ prec ≤ Config.qlpPrecMax) (.logic .badOperand)
  let shift ← readReg State.qlpShift
  check (shift ≤ Config.qlpShiftMax) (.logic .badOperand)
  let qlp ← look State.qlp
  let qlp ← readEntries qlp o
  check (∀ q ∈ qlp, fitsS q prec) (.logic .valueOutOfRange)
  let _ ← lpcResidual
  checkResidual n o
  let xs ← codedSamples
  let bps ← readReg fun s => s.sf.bps
  let w ← readReg fun s => s.sf.wasted
  emit (sfHeaderBits (32 + (o - 1)) w)
  writeSamples bps (xs.take o)
  writeU Config.qlpPrecBits (prec - 1)
  writeS Config.qlpShiftBits shift
  writeSamples prec qlp
  let _ ← resEncode
  pure ()

/-! ### The operations -/

/-- `SF_DEC c` (R251): an exception leaves the cursor after the last read and `SMP[c]` partly written, all else as it was
(00_scope.md R15). -/
def execSfDec (c : Nat) (s : State) : Host.Outcome State Fault Refusal :=
  issue .read (do
    notEncode
    leaving (fun s t => { s with brPos := t.brPos, smp := t.smp }) (sfDec c)
    pure .none) s

/-- `SF_DEC_CONSTANT` (R252), wholly or not at all (20_memory.md R78). -/
def execSfDecConstant (s : State) : Host.Outcome State Fault Refusal :=
  issue .read (do
    notEncode
    atomically sfDecConstant
    pure .none) s

/-- `SF_DEC_VERBATIM` (R253), wholly or not at all (20_memory.md R78). -/
def execSfDecVerbatim (s : State) : Host.Outcome State Fault Refusal :=
  issue .read (do
    notEncode
    atomically sfDecVerbatim
    pure .none) s

/-- `SF_DEC_FIXED` (R254), wholly or not at all (20_memory.md R78). -/
def execSfDecFixed (s : State) : Host.Outcome State Fault Refusal :=
  issue .read (do
    notEncode
    atomically sfDecFixed
    pure .none) s

/-- `SF_DEC_LPC` (R255), wholly or not at all (20_memory.md R78). -/
def execSfDecLpc (s : State) : Host.Outcome State Fault Refusal :=
  issue .read (do
    notEncode
    atomically sfDecLpc
    pure .none) s

/-- `FIXED_RESTORE` (R257). -/
def execFixedRestore (s : State) : Host.Outcome State Fault Refusal :=
  issue .read (do
    fixedRestore
    pure .none) s

/-- `LPC_RESTORE` (R258). -/
def execLpcRestore (s : State) : Host.Outcome State Fault Refusal :=
  issue .read (do
    lpcRestore
    pure .none) s

/-- `FIXED_RESIDUAL order` (R260). -/
def execFixedResidual (order : Nat) (s : State) : Host.Outcome State Fault Refusal :=
  issue .write (do
    let m ← fixedResidual order
    pure (.nat m)) s

/-- `LPC_RESIDUAL` (R261). -/
def execLpcResidual (s : State) : Host.Outcome State Fault Refusal :=
  issue .write (do
    let m ← lpcResidual
    pure (.nat m)) s

/-- `SF_ENC_CONSTANT` (R267). -/
def execSfEncConstant (s : State) : Host.Outcome State Fault Refusal :=
  issue .write (do
    sfEncConstant
    pure .none) s

/-- `SF_ENC_VERBATIM` (R268). -/
def execSfEncVerbatim (s : State) : Host.Outcome State Fault Refusal :=
  issue .write (do
    sfEncVerbatim
    pure .none) s

/-- `SF_ENC_FIXED` (R269). -/
def execSfEncFixed (s : State) : Host.Outcome State Fault Refusal :=
  issue .write (do
    sfEncFixed
    pure .none) s

/-- `SF_ENC_LPC` (R270). -/
def execSfEncLpc (s : State) : Host.Outcome State Fault Refusal :=
  issue .write (do
    sfEncLpc
    pure .none) s

end Sys2Proof.Machine
end

