-- ==== Sys2Proof/Machine/Select.lean ====
section
/-! DEFINITION. The four configuration functions as the machine uses them: each contract, each reference function, and an
implementation's answer when it meets the contract (00_scope.md R10; 44_predictor.md R262, R271, R274, R275; 45_residual.md R290
to R292; 47_encoder.md R346; log 6). Then the operations that apply them. -/

namespace Sys2Proof.Machine

/-! ### Rice parameter and partitioning (R290, R291) -/

/-- The least parameter in `k .. k + fuel` of least cost, given the best so far. -/
def bestRiceFrom (run : List Int) : Nat → Nat → Nat × Nat → Nat × Nat
  | 0, _, best => best
  | fuel + 1, k, best => bestRiceFrom run fuel (k + 1) (if riceCost k run < best.2 then (k, riceCost k run) else best)

/-- The best Rice parameter in `0 .. kmax` and its cost (R290). -/
def bestRice (kmax : Nat) (run : List Int) : Nat × Nat := bestRiceFrom run kmax 1 (0, riceCost 0 run)

/-- The reference choice for one partition (R291). -/
def refChoice (method : Nat) (run : List Int) : PartChoice :=
  let best := bestRice (paramMax method) run
  if escapable run ∧ Config.escWidthBits + run.length * leastRawWidth run < best.2 then .esc (leastRawWidth run) else .rice best.1

/-- The reference table at partition order `p` (R291). -/
def refTable (method n o p : Nat) (res : List Int) : PartTable :=
  ⟨method, p, (partitions n o p res).map (refChoice method)⟩

/-- The least valid order in `p .. p + fuel` of least total, given the best table so far. -/
def bestTableFrom (method n o : Nat) (res : List Int) : Nat → Nat → PartTable → PartTable
  | 0, _, best => best
  | fuel + 1, p, best =>
    let t := refTable method n o p res
    bestTableFrom method n o res fuel (p + 1)
      (if porderValid n o p ∧ tableSize n o res t < tableSize n o res best then t else best)

/-- The reference `select_partitioning` (R291). -/
def refPartitioning (cfg : EncConfig) (n o : Nat) (res : List Int) : PartTable :=
  bestTableFrom cfg.method n o res cfg.maxPorder 1 (refTable cfg.method n o 0 res)

/-- One partition's choice meets R291's contract: it can be written, and it obeys the bound of R292. -/
def choiceOk (method : Nat) (run : List Int) (c : PartChoice) : Bool :=
  choiceFits method run c &&
    decide (escapable run → partSize method run c ≤ partSize method run (.esc (leastRawWidth run)))

/-- The contract of `select_partitioning` (R291, R292); the method is `CFG_METHOD` (93_implementation_defined.md C4). -/
def tableOk (cfg : EncConfig) (n o : Nat) (res : List Int) (t : PartTable) : Bool :=
  decide (t.method = cfg.method) && decide (porderValid n o t.porder) && decide (t.parts.length = 2 ^ t.porder) &&
    ((partitions n o t.porder res).zip t.parts).all fun x => choiceOk t.method x.1 x.2

/-- `select_partitioning` as the machine uses it. -/
def selectPartitioning (sel : Selections) (cfg : EncConfig) (n o : Nat) (res : List Int) : PartTable :=
  match sel.partitioning cfg n o res with
  | some t => if tableOk cfg n o res t then t else refPartitioning cfg n o res
  | none => refPartitioning cfg n o res

/-! ### LPC analysis (R262) -/

/-- The contract of `lpc_analyze` (R262). -/
def lpcOk (cfg : EncConfig) (n : Nat) (r : LpcResult) : Bool :=
  decide (1 ≤ r.coefs.length ∧ r.coefs.length ≤ Config.lpcOrderMax ∧ r.coefs.length ≤ cfg.maxLpcOrder ∧
    r.coefs.length ≤ n ∧ r.shift ≤ Config.qlpShiftMax) && r.coefs.all fun q => decide (fitsS q cfg.qlpPrec)

/-- `lpc_analyze` as the machine uses it: a result outside the contract is `None` (R262). -/
def analyzeLpc (sel : Selections) (cfg : EncConfig) (xs : List Int) : Option LpcResult :=
  match sel.lpcAnalyze xs cfg.maxLpcOrder cfg.qlpPrec with
  | some r => if lpcOk cfg xs.length r then some r else none
  | none => none

/-! ### Subframe selection (R271, R274, R275) -/

/-- The samples without `w` low bits (R250). -/
def shiftDown (w : Nat) (xs : List Int) : List Int := xs.map (· / 2 ^ w)

/-- The wasted bits of a choice. -/
def choiceWasted : SfChoice → Nat
  | .constant w | .verbatim w | .fixed w _ | .lpc w _ => w

/-- The subframe type of a choice. -/
def choiceType : SfChoice → SfType
  | .constant _ => .constant
  | .verbatim _ => .verbatim
  | .fixed _ _ => .fixed
  | .lpc _ _ => .lpc

/-- The predictor order of a choice. -/
def choiceOrder : SfChoice → Nat
  | .constant _ | .verbatim _ => 0
  | .fixed _ o => o
  | .lpc _ r => r.coefs.length

/-- The residual a choice leaves for the block `xs` (none for the types without a predictor). -/
def choiceResidual (xs : List Int) : SfChoice → List Int
  | .constant _ | .verbatim _ => []
  | .fixed w o => residualOf (fixedPredict o) o (shiftDown w xs)
  | .lpc w r => residualOf (lpcPredict r.coefs r.shift) r.coefs.length (shiftDown w xs)

/-- A partitioning of a residual: a function of the configuration, the block size, the order and the residual. -/
abbrev Partitioner := EncConfig → Nat → Nat → List Int → PartTable

/-- `rbits` of a choice: its residual section under a partitioning (R274, R283). -/
def choiceSection (part : Partitioner) (cfg : EncConfig) (xs : List Int) (c : SfChoice) : Nat :=
  let res := choiceResidual xs c
  tableSize xs.length (choiceOrder c) res (part cfg xs.length (choiceOrder c) res)

/-- The size of a subframe in bits (R274), its residual section under a partitioning. -/
def choiceSize (part : Partitioner) (cfg : EncConfig) (depth : Nat) (xs : List Int) (c : SfChoice) : Nat :=
  let head := 8 + choiceWasted c
  let b := depth - choiceWasted c
  match c with
  | .constant _ => head + b
  | .verbatim _ => head + xs.length * b
  | .fixed _ o => head + o * b + choiceSection part cfg xs c
  | .lpc _ r =>
    head + r.coefs.length * b + Config.qlpPrecBits + Config.qlpShiftBits + r.coefs.length * cfg.qlpPrec +
      choiceSection part cfg xs c

/-- A number of wasted bits that is admissible (R271 (a), R273). -/
abbrev wastedOk (depth : Nat) (xs : List Int) (w : Nat) : Prop :=
  w = 0 ∨ (Config.wastedBits = true ∧ w < depth ∧ (∀ x ∈ xs, x % 2 ^ w = 0) ∧ ∃ x ∈ xs, x ≠ 0)

/-- The contract of `select_subframe` (R271). R271 names no precision and no order limit for coefficients that the function chose
itself: the model holds them to the contract of `lpc_analyze`, `CFG_MAX_LPC_ORDER` and `CFG_QLP_PREC` with it, and gives them
`QLP_PREC = CFG_QLP_PREC` (DESIGN CHOICE, log 33). -/
def subframeOk (cfg : EncConfig) (depth : Nat) (xs : List Int) (c : SfChoice) : Bool :=
  decide (wastedOk depth xs (choiceWasted c)) && (choiceResidual xs c).all (fun r => decide (residualOk r)) &&
    match c with
    | .constant _ => decide (∀ x ∈ xs, x = xs.headD 0)
    | .verbatim _ => true
    | .fixed _ o => decide (o ≤ Config.fixedOrderMax ∧ o ≤ xs.length)
    | .lpc _ r => lpcOk cfg xs.length r

/-- The candidates of the reference function, in its order (R275). -/
def refCandidates (sel : Selections) (cfg : EncConfig) (xs : List Int) : List SfChoice :=
  [.constant 0, .verbatim 0, .fixed 0 0, .fixed 0 1, .fixed 0 2, .fixed 0 3, .fixed 0 4] ++
    if cfg.maxLpcOrder = 0 then [] else ((analyzeLpc sel cfg xs).map (SfChoice.lpc 0)).toList

/-- The smallest candidate, the earliest among equals; `best` is the best so far. -/
def smallest (size : SfChoice → Nat) : List SfChoice → SfChoice → SfChoice
  | [], best => best
  | c :: rest, best => smallest size rest (if size c < size best then c else best)

/-- The reference `select_subframe` (R275): the residual sections are sized by the reference partitioning. -/
def refSubframe (sel : Selections) (cfg : EncConfig) (depth : Nat) (xs : List Int) : SfChoice :=
  match (refCandidates sel cfg xs).filter (subframeOk cfg depth xs) with
  | [] => .verbatim 0
  | c :: rest => smallest (choiceSize refPartitioning cfg depth xs) rest c

/-- `select_subframe` as the machine uses it. -/
def selectSubframe (sel : Selections) (cfg : EncConfig) (depth : Nat) (xs : List Int) : SfChoice :=
  match sel.subframe cfg depth xs with
  | some c => if subframeOk cfg depth xs c then c else refSubframe sel cfg depth xs
  | none => refSubframe sel cfg depth xs

/-! ### Stereo decorrelation and its selection (R344, R346) -/

/-- One pair of samples under assignment `ca` (R344). -/
def decorrPair (ca : Nat) (l r : Int) : Int × Int :=
  if ca = 8 then (l, l - r)
  else if ca = 9 then (l - r, r)
  else if ca = 10 then ((l + r) / 2, l - r)
  else (l, r)

/-- Two channels under assignment `ca`. -/
def decorr (ca : Nat) (l r : List Int) : List Int × List Int := (List.zipWith (decorrPair ca) l r).unzip

/-- What `SF_SELECT` answers: the size of the selected subframe under the selected partitioning (R271, R274). -/
def selectedSize (sel : Selections) (cfg : EncConfig) (depth : Nat) (xs : List Int) : Nat :=
  choiceSize (selectPartitioning sel) cfg depth xs (selectSubframe sel cfg depth xs)

/-- The subframe bits of a two-channel block under assignment `ca` (R346). -/
def stereoCost (sel : Selections) (cfg : EncConfig) (l r : List Int) (ca : Nat) : Nat :=
  let (x0, x1) := decorr ca l r
  selectedSize sel cfg (cfg.bps + sideBit ca 0) x0 + selectedSize sel cfg (cfg.bps + sideBit ca 1) x1

/-- The assignment of least cost, the earliest among equals. -/
def cheapest (cost : Nat → Nat) : List Nat → Nat → Nat
  | [], best => best
  | ca :: rest, best => cheapest cost rest (if cost ca < cost best then ca else best)

/-- The reference `select_stereo` (R346). -/
def refStereo (sel : Selections) (cfg : EncConfig) (l r : List Int) : Nat :=
  cheapest (stereoCost sel cfg l r) [10, 8, 9] 1

/-- `select_stereo` as the machine uses it. -/
def selectStereo (sel : Selections) (cfg : EncConfig) (l r : List Int) : Nat :=
  match sel.stereo cfg l r with
  | some ca => if ca = 1 ∨ ca = 8 ∨ ca = 9 ∨ ca = 10 then ca else refStereo sel cfg l r
  | none => refStereo sel cfg l r

/-! ### The operations -/

/-- `RICE_PARAM_SELECT kmax, first, count` (R290). -/
def riceParamSelect (kmax first count : Nat) : Op (Nat × Nat) := do
  check (kmax ≤ Config.riceParamMax) (.logic .badOperand)
  let (n, o) ← blockGeometry
  check (first + count + o ≤ n) (.logic .badOperand)
  let res ← look State.res
  let run ← readEntries (res.drop first) count
  pure (bestRice kmax run)

/-- An entry as `PART_SELECT` writes it: all three registers (R291). What the one that goes with the other form holds is not
stated (10_state.md R36: not meaningful): a free value of its range, `param` or `raw`, from what it held (log 22). -/
def selectedEntry (param : Reg Nat → Fin 31) (raw : Reg Nat → Fin 32) (old : RcEntry) (c : PartChoice) : RcEntry :=
  match c with
  | .rice k => ⟨false, some k, some (raw old.raw).val⟩
  | .esc nb => ⟨true, some (param old.param).val, some nb⟩

/-- The table's entries from `i` on; `param` and `raw` give entry `i` its free value. -/
def writeTable (param : Nat → Reg Nat → Fin 31) (raw : Nat → Reg Nat → Fin 32) : List PartChoice → Nat → Op Unit
  | [], _ => pure ()
  | c :: rest, i => do
      update fun s =>
        let old := s.rc.table.getD i ⟨false, none, none⟩
        { s with rc := { s.rc with table := setAt s.rc.table i (selectedEntry (param i) (raw i) old c) } }
      writeTable param raw rest (i + 1)

/-- `PART_SELECT` (R291); a predictor order above the block size leaves no valid partition order (log 22). -/
def partSelect (sel : Selections) : Op Nat := do
  needMode .encode
  let cfg ← readReg State.cfg
  let (n, o) ← blockGeometry
  check (o ≤ n) (.logic .badOperand)
  let res ← look State.res
  let res ← readEntries res (n - o)
  let t := selectPartitioning sel cfg n o res
  update fun s => { s with rc := { s.rc with method := some t.method, porder := some t.porder } }
  writeTable (Config.otherParam cfg n o res) (Config.otherRaw cfg n o res) t.parts 0
  pure (tableSize n o res t)

/-- The coefficient file takes a predictor (R262). -/
def setPredictor (prec : Nat) (r : LpcResult) : Op Unit := update fun s =>
  { s with
    sf := { s.sf with order := some r.coefs.length }
    qlp := overwrite s.qlp r.coefs
    qlpPrec := some prec
    qlpShift := some r.shift }

/-- `LPC_ANALYZE` (R262). -/
def lpcAnalyze (sel : Selections) : Op (Option Nat) := do
  let cfg ← readReg State.cfg
  let xs ← codedSamples
  match analyzeLpc sel cfg xs with
  | none => pure none
  | some r => do
    setPredictor cfg.qlpPrec r
    pure (some r.coefs.length)

/-- `SF_SELECT c` (R271). The rule lists `BadOperand` and states no condition for it: a channel that the frame has not, as `SF_DEC` has
it (DESIGN CHOICE, log 35). -/
def sfSelect (sel : Selections) (c : Nat) : Op Nat := do
  needMode .encode
  let cfg ← readReg State.cfg
  let channels ← readReg fun s => s.fh.channels
  check (c < channels) (.logic .badOperand)
  let n ← readReg fun s => s.fh.blocksize
  let ca ← readReg fun s => s.fh.chanAssign
  let xs ← readRow c n
  let depth := cfg.bps + sideBit ca c
  let choice := selectSubframe sel cfg depth xs
  update fun s =>
    { s with sf :=
        { type := some (choiceType choice)
          order := some (choiceOrder choice)
          wasted := some (choiceWasted choice)
          bps := some (depth - choiceWasted choice)
          ch := some c } }
  match choice with
  | .constant _ | .verbatim _ => pure ()
  | .fixed _ o => do
    let _ ← fixedResidual o
    let _ ← partSelect sel
    pure ()
  | .lpc _ r => do
    setPredictor cfg.qlpPrec r
    let _ ← lpcResidual
    let _ ← partSelect sel
    pure ()
  pure (choiceSize (selectPartitioning sel) cfg depth xs choice)

/-- `STEREO_SELECT` (R346): the subframe working registers are left unwritten. -/
def stereoSelect (sel : Selections) : Op Nat := do
  needMode .encode
  let channels ← readReg fun s => s.fh.channels
  check (channels = 2) (.logic .badOperand)
  let cfg ← readReg State.cfg
  let n ← readReg fun s => s.fh.blocksize
  let l ← readRow 0 n
  let r ← readRow 1 n
  update fun s =>
    { s with sf := SfRegs.reset, qlp := [], qlpPrec := none, qlpShift := none, rc := RcRegs.reset, res := [] }
  pure (selectStereo sel cfg l r)

/-- `RICE_PARAM_SELECT kmax, first, count` (R290). -/
def execRiceParamSelect (kmax first count : Nat) (s : State) : Host.Outcome State Fault Refusal :=
  issue .write (do
    let (k, cost) ← riceParamSelect kmax first count
    pure (.riceParam k cost)) s

/-- `PART_SELECT` (R291). -/
def execPartSelect (s : State) : Host.Outcome State Fault Refusal :=
  issue .write (do
    let bits ← partSelect Config.selections
    pure (.nat bits)) s

/-- `LPC_ANALYZE` (R262). -/
def execLpcAnalyze (s : State) : Host.Outcome State Fault Refusal :=
  issue .write (do
    let o ← lpcAnalyze Config.selections
    pure (.order o)) s

/-- `SF_SELECT c` (R271). -/
def execSfSelect (c : Nat) (s : State) : Host.Outcome State Fault Refusal :=
  issue .write (do
    let bits ← sfSelect Config.selections c
    pure (.nat bits)) s

/-- `STEREO_SELECT` (R346). -/
def execStereoSelect (s : State) : Host.Outcome State Fault Refusal :=
  issue .write (do
    let ca ← stereoSelect Config.selections
    pure (.nat ca)) s

end Sys2Proof.Machine
end

