-- ==== Sys2Proof/Machine/Encoder.lean ====
section
/-! DEFINITION. The encoder: configuration, one block, stereo decorrelation, finish: 47_encoder.md R341 to R347. -/

namespace Sys2Proof.Machine

/-- An exception of the encoder sequencer that ends the session (R341, R343): `ESTATE <- EFailed`. -/
def encoderFails (e : Exc) : Op Unit := do
  update fun s => { s with estate := .failed }
  raise e

/-- `check(cfg)` (R342): the first check that fails. -/
def configError (c : EncConfig) : Option ConfigSub :=
  if ¬ (1 ≤ c.channels ∧ c.channels ≤ 8) then some .channels
  else if ¬ (4 ≤ c.bps ∧ c.bps ≤ 32) then some .bitDepth
  else if ¬ (1 ≤ c.sampleRate ∧ c.sampleRate ≤ Config.sampleRateMax) then some .sampleRate
  else if ¬ (Config.blocksizeMin ≤ c.minBlocksize ∧ c.minBlocksize ≤ c.maxBlocksize ∧ c.maxBlocksize ≤ Config.blocksizeMax) then
    some .blockSize
  else if ¬ (c.minBlocksize ≤ c.blocksize ∧ c.blocksize ≤ c.maxBlocksize) then some .blockSize
  else if ¬ (c.totalSamples < 2 ^ 36 ∧ c.maxLpcOrder ≤ Config.lpcOrderMax ∧ 1 ≤ c.qlpPrec ∧ c.qlpPrec ≤ Config.qlpPrecMax ∧
      c.maxPorder ≤ Config.partOrderMax ∧ c.method < Config.riceMethodCount) then some .parameter
  else none

/-- The provisional StreamInfo of a configuration (R341). -/
def provisionalInfo (c : EncConfig) : StreamInfo :=
  ⟨c.minBlocksize, c.maxBlocksize, 0, 0, c.sampleRate, c.channels, c.bps, c.totalSamples, 0#128⟩

/-- `ENC_INIT` (R341). -/
def encInit : Op Unit := do
  needMode .encode
  let e ← look State.estate
  check (e = .idle) (.logic .badMode)
  let c ← payloadConfig
  match configError c with
  | some sub => encoderFails (.config sub)
  | none => asIssued do
    update fun s =>
      { s with cfg := some c, si := some (provisionalInfo c), siValid := true, md5 := Md5Regs.reset }
    mkWrite
    mbhWrite (if c.siLast then 1 else 0) (Config.mbType .streamInfo * 2 ^ 24 + Config.streamInfoLen)
    siWrite
    update fun s => { s with estate := .ready }

/-- `CH_DECORR_FWD ca` (R344). For independent channels (`ca` at most 7) the rule's loop does nothing with the samples it binds:
`FH_BLOCKSIZE` is read and no sample (DESIGN CHOICE, log 32). -/
def chDecorrFwd (ca : Nat) : Op Unit := do
  check (ca ≤ 10) (.logic .badOperand)
  let channels ← readReg fun s => s.fh.channels
  check ((ca ≤ 7 → ca + 1 = channels) ∧ (8 ≤ ca → channels = 2)) (.logic .badOperand)
  let n ← readReg fun s => s.fh.blocksize
  if 8 ≤ ca then do
    let l ← readRow 0 n
    let r ← readRow 1 n
    writeRow 0 (decorr ca l r).1
    writeRow 1 (decorr ca l r).2
  else pure ()
  update fun s => { s with fh := { s.fh with chanAssign := some ca } }

/-- The subframe operation that `SF_TYPE` names (R345). -/
def sfEncode : SfType → Op Unit
  | .constant => sfEncConstant
  | .verbatim => sfEncVerbatim
  | .fixed => sfEncFixed
  | .lpc => sfEncLpc

/-- One subframe of a frame (R345). -/
def encodeSubframe (sel : Selections) (c : Nat) : Op Unit := do
  let _ ← sfSelect sel c
  let type ← readReg fun s => s.sf.type
  sfEncode type

/-- Frame assembly (R345); answers the frame's length in bytes. -/
def assembleFrame (sel : Selections) : Op Nat := do
  let start ← look fun s => s.out.length / 8
  let cfg ← readReg State.cfg
  update fun s =>
    { s with fh :=
        if cfg.minBlocksize = cfg.maxBlocksize then { s.fh with variable_ := some 0, number := some s.encFrameNo }
        else { s.fh with variable_ := some 1, number := some s.encSamples } }
  fhWrite
  let channels ← readReg fun s => s.fh.channels
  countUp (encodeSubframe sel) channels 0
  let _ ← padOut
  let stop ← look fun s => s.out.length / 8
  update fun s => { s with crc16 := crc16Of (s.outBytes start) }
  let sum ← look State.crc16
  writeU 16 sum.toNat
  pure (stop + 2 - start)

/-- The encoder counters after a frame of `len` bytes and `n` samples (R343); a frame longer than `ENC_MAX_FS` can hold leaves
there a free value (log 8). -/
def countFrame (n len : Nat) (s : State) : State :=
  let t :=
    { s with
      encFrameNo := s.encFrameNo + 1
      encSamples := s.encSamples + n
      encMinFs := min s.encMinFs len }
  if len < 2 ^ 24 then { t with encMaxFs := max s.encMaxFs len }
  else { t with encMaxFs := (Config.beyondWidth 24 .encMaxFs s.encMaxFs len).toNat }

/-- The rows of a block into the rows of `SMP` (R343). -/
def loadRows : List (List Int) → List (List Int) → List (List Int)
  | row :: rows, v :: vs => overwrite row v :: loadRows rows vs
  | rows, _ => rows

/-- `ENC_BLOCK` (R343): a block that is refused stays queued (00_scope.md R15; log 21). -/
def encBlock (sel : Selections) : Op Nat := do
  needMode .encode
  let e ← look State.estate
  check (e = .ready) (.logic .badMode)
  match ← look State.pcmIn with
  | [] => pure 0
  | block :: rest => do
    let cfg ← readReg State.cfg
    let n := block.blocksize
    if n < cfg.minBlocksize ∨ cfg.maxBlocksize < n then encoderFails (.config .blockSize) else pure ()
    let samples ← look State.encSamples
    let frames ← look State.encFrameNo
    if 2 ^ 36 ≤ samples + n ∨ 2 ^ 31 ≤ frames then encoderFails (.config .streamTooLong) else pure ()
    check (∀ row ∈ block.samples, ∀ v ∈ row, fitsS v cfg.bps) (.logic .valueOutOfRange)
    let len ← asIssued do
      update fun s =>
        { s with
          pcmIn := rest
          smp := loadRows s.smp block.samples
          fh := { s.fh with
            channels := some cfg.channels
            bps := some cfg.bps
            blocksize := some n
            sampleRate := some cfg.sampleRate
            valid := true } }
      md5UpdatePcm
      let ca ← if cfg.channels = 2 ∧ cfg.stereoTrial = true then stereoSelect sel else pure (cfg.channels - 1)
      chDecorrFwd ca
      assembleFrame sel
    update (countFrame n len)
    pure len

/-- `ENC_FINISH` (R347). -/
def encFinish : Op Unit := do
  needMode .encode
  let e ← look State.estate
  check (e = .ready) (.logic .badMode)
  asIssued do
    let digest ← md5Final
    let si ← readReg State.si
    let counted ← look fun s =>
      { si with
        md5 := digest
        totalSamples := s.encSamples
        minFramesize := if 0 < s.encFrameNo then s.encMinFs else si.minFramesize
        maxFramesize := if 0 < s.encFrameNo then s.encMaxFs else si.maxFramesize }
    update fun s =>
      { s with si := some counted, siOut := s.siOut ++ [bitsBytes counted.bits], estate := .finished }

/-! ### The operations -/

/-- `ENC_INIT` (R341). Its configuration is one record, not an array with a length (30_encoding.md R100), so `b` is an unused field,
and refused unless it is zero (DEDUCED, log 16). -/
def execEncInit (b : Nat) (s : State) : Host.Outcome State Fault Refusal :=
  issue .write (do
    check (b = 0) (.logic .badOperand)
    encInit
    pure .none) s

/-- `ENC_BLOCK` (R343). -/
def execEncBlock (s : State) : Host.Outcome State Fault Refusal :=
  issue .write (do
    let len ← encBlock Config.selections
    pure (.nat len)) s

/-- `ENC_FINISH` (R347). -/
def execEncFinish (s : State) : Host.Outcome State Fault Refusal :=
  issue .write (do
    encFinish
    pure .none) s

/-- `CH_DECORR_FWD ca` (R344). -/
def execChDecorrFwd (ca : Nat) (s : State) : Host.Outcome State Fault Refusal :=
  issue .write (do
    chDecorrFwd ca
    pure .none) s

end Sys2Proof.Machine
end

