-- ==== Sys2Proof/Machine/HostPort.lean ====
section
/-! DEFINITION. The session and the host ports: 70_reset_and_hazards.md R421, 20_memory.md R80 to R83. -/

namespace Sys2Proof.Machine

/-- The mode an operand of `STREAM_RESET` names (R421). -/
def modeOf (mode : Nat) : Option Mode :=
  match mode with
  | 0 => some .idle
  | 1 => some .decode
  | 2 => some .encode
  | _ => none

/-- `STREAM_RESET mode` (R421): accepted in every state. The issue queue and the payload in hand are the model's own and survive
(log 1, 2). -/
def execStreamReset (mode : Nat) (s : State) : Host.Outcome State Fault Refusal :=
  issueAlways (.none (.streamReset mode)) (fun t =>
    match modeOf mode with
    | some m =>
      .ok .none { State.reset with mode := m, cmdq := t.cmdq, payload := t.payload }
    | none => .error (.exc (.logic .badOperand)) t) s

/-- `IN_PUSH(bytes)` (R80). A stream of 2^61 bytes or more is outside the spec (10_state.md R42): a push that takes the input
there stops the model (log 9). -/
def execInPush (count : Nat) (s : State) : Host.Outcome State Fault Refusal :=
  match issue .read (do
      let ended ← look State.inEof
      check (ended = false) (.logic .badOperand)
      let bs ← payloadBytes count
      update fun t => { t with input := t.input ++ bs }
      pure .none) s with
  | .next t =>
    if t.input.length = s.input.length ∨ t.input.length < Config.streamBytesLimit then .next t else .fault .inputBeyondSpec
  | .fault f => .fault f
  | .refused r => .refused r

/-- `IN_EOF()` (R81). -/
def execInEof (s : State) : Host.Outcome State Fault Refusal :=
  issue .read (do
    update fun t => { t with inEof := true }
    pure .none) s

/-- `OUT_PULL()` (R82). -/
def execOutPull (s : State) : Host.Outcome State Fault Refusal :=
  issueAlways .write (do
    let bs ← look fun t => t.outBytes t.outRd
    update fun t => { t with outRd := t.out.length / 8 }
    pure (.bytes bs)) s

/-- `PCM_POP()` (R83). -/
def execPcmPop (s : State) : Host.Outcome State Fault Refusal :=
  issueAlways (.none .pcmPop) (do
    let b ← look fun t => t.pcmOut.head?
    update fun t => { t with pcmOut := t.pcmOut.tail }
    pure (.block b)) s

/-- `MD_POP()` (R83). -/
def execMdPop (s : State) : Host.Outcome State Fault Refusal :=
  issueAlways (.none .mdPop) (do
    let b ← look fun t => t.mdOut.head?
    update fun t => { t with mdOut := t.mdOut.tail }
    pure (.metadata b)) s

/-- `REPORT_POP()` (R83). -/
def execReportPop (s : State) : Host.Outcome State Fault Refusal :=
  issueAlways (.none .reportPop) (do
    let r ← look fun t => t.report.head?
    update fun t => { t with report := t.report.tail }
    pure (.report r)) s

/-- `SI_POP()` (R83). -/
def execSiPop (s : State) : Host.Outcome State Fault Refusal :=
  issueAlways (.none .siPop) (do
    let b ← look fun t => t.siOut.head?
    update fun t => { t with siOut := t.siOut.tail }
    pure (.siBody b)) s

/-- `PCM_PUSH(blocksize, samples)` (R83). -/
def execPcmPush (blocksize : Nat) (s : State) : Host.Outcome State Fault Refusal :=
  issue .write (do
    needMode .encode
    let e ← look State.estate
    check (e = .ready) (.logic .badMode)
    check (Config.blocksizeMin ≤ blocksize ∧ blocksize ≤ Config.blocksizeMax) (.logic .badOperand)
    let cfg ← readReg State.cfg
    let rows ← payloadSamples cfg.channels blocksize
    update fun t => { t with pcmIn := t.pcmIn ++ [⟨blocksize, rows⟩] }
    pure .none) s

end Sys2Proof.Machine
end

