-- ==== Sys2Proof/Machine/SeekIndex.lean ====
section
/-! DEFINITION. The seek index: 48_seek_index.md R361, R362. -/

namespace Sys2Proof.Machine

/-- The seek points of a body of whole 18-byte points, placeholders dropped (R361, 30_encoding.md R107). -/
def seekPoints : Nat → List Byte → List SeekPoint
  | 0, _ => []
  | k + 1, body =>
    let sample := beNat (body.take 8)
    let rest := seekPoints k (body.drop 18)
    if sample = 2 ^ 64 - 1 then rest
    else ⟨sample, beNat ((body.drop 8).take 8), beNat ((body.drop 16).take 2)⟩ :: rest

/-- Samples strictly increasing (R361). -/
def increasing : List SeekPoint → Bool
  | [] => true
  | [_] => true
  | p :: q :: rest => decide (p.sample < q.sample) && increasing (q :: rest)

/-- The index that a body gives: empty where the body is unusable (R361). -/
def seekTable (body : List Byte) : List SeekPoint :=
  if body.length % 18 ≠ 0 then []
  else
    let pts := seekPoints (body.length / 18) body
    if increasing pts then pts else []

/-- `SEEK_LOAD` of a body in hand (R361). -/
def seekLoad (body : List Byte) : Op Nat := do
  update fun s => { s with seek := seekTable body }
  pure (seekTable body).length

/-- `SEEK_LOOKUP` (R362): the last point at or before the target. -/
def seekFind (pts : List SeekPoint) (target : Nat) : Option Nat :=
  ((pts.filter fun p => p.sample ≤ target).getLast?).map (·.offset)

/-- The payload of `SEEK_LOAD`: one that is not `len` bytes is a table it cannot use (R361 "No content of the body raises
anything"; log 19). -/
def seekBody (len : Nat) (p : Payload) : List Byte :=
  match p with
  | .bytes bs => if bs.length = len then bs else []
  | .none | .samples _ | .blocks _ | .config _ => []

/-- `SEEK_LOAD` (R361): a byte count of 2^24 or more is outside its range (60_exceptions.md R374; DEDUCED, log 18). -/
def execSeekLoad (len : Nat) (s : State) : Host.Outcome State Fault Refusal :=
  issue (.none (.seekLoad len)) (do
    check (len < 2 ^ 24) (.logic .widthOutOfRange)
    let body ← look fun t => seekBody len t.payload
    let n ← seekLoad body
    pure (.nat n)) s

/-- `SEEK_LOOKUP target` (R362). -/
def execSeekLookup (target : Nat) (s : State) : Host.Outcome State Fault Refusal :=
  issue (.none (.seekLookup target)) (do
    let o ← look fun t => seekFind t.seek target
    pure (.offset o)) s

end Sys2Proof.Machine
end

