-- ==== Sys2Proof/Machine/Decoder.lean ====
section
/-! DEFINITION. The decoder: one frame, channel reconstruction, the sequencer's steps with their exception handling, flush:
46_decoder_pipeline.md R311 to R324, 60_exceptions.md R379 to R387. -/

namespace Sys2Proof.Machine

/-! ### Channel reconstruction (R318) -/

/-- One pair of samples, decorrelation undone (R318). -/
def decorrUndo (ca : Nat) (a b : Int) : Int × Int :=
  if ca = 8 then (a, a - b)
  else if ca = 9 then (a + b, b)
  else if ca = 10 then ((2 * a + b % 2 + b) / 2, (2 * a + b % 2 - b) / 2)
  else (a, b)

/-- `SMP[c][i]`; an unwritten entry is a `LogicError` (10_state.md R41). -/
def readSmpAt (c i : Nat) : Op Int := readReg fun s => (s.smp.getD c [])[i]?

/-- The decorrelation of sample `i` is undone in place; independent channels stay (R318). -/
def undoAt (ca i : Nat) : Op Unit :=
  if ca = 8 ∨ ca = 9 ∨ ca = 10 then do
    let a ← readSmpAt 0 i
    let b ← readSmpAt 1 i
    writeSmp 0 i (decorrUndo ca a b).1
    writeSmp 1 i (decorrUndo ca a b).2
  else pure ()

/-- Sample `i` of channel `c` fits the depth (R318). -/
def checkAt (bps i c : Nat) : Op Unit := do
  let v ← readSmpAt c i
  check (fitsS v bps) (.sync .rangeError)

/-- `CH_DECORR_INV` (R318): sample by sample, the decorrelation undone and then the range checked. Inside `DEC_FRAME` the samples
already undone stay so where the check fails (R315; 70_reset_and_hazards.md R433). The four registers are read ahead of the first
sample (DESIGN CHOICE, log 32). Issued by the host in mode Encode it raises `RangeError` there too, 47_encoder.md R348 notwithstanding
(DESIGN CHOICE, log 38). -/
def chDecorrInv : Op Unit := do
  let ca ← readReg fun s => s.fh.chanAssign
  let n ← readReg fun s => s.fh.blocksize
  let bps ← readReg fun s => s.fh.bps
  let channels ← readReg fun s => s.fh.channels
  countUp (fun i => do
    undoAt ca i
    countUp (checkAt bps i) channels 0) n 0

/-! ### One frame (R315) -/

/-- The padding bits, at most seven (R315). -/
def readPadding : Nat → Op Unit
  | 0 => pure ()
  | k + 1 => do
      let b ← readU 1
      check (b = 0) (.sync .badPadding)
      readPadding k

/-- The CRC-16 check of the frame in bytes `start .. stop - 1` of `IN` (R315, R316). -/
def checkFooter (start stop crc : Nat) : Op Unit := do
  update fun s => { s with crc16 := crc16Of ((s.input.drop start).take (stop - start)) }
  let sum ← look State.crc16
  if sum.toNat ≠ crc then do
    update fun s => s.setFlag .crc16Err
    raise (.sync .frameCrc16)
  else pure ()

/-- The CRC-16 field at the cursor, of the frame that starts at byte `start` (R315, R316). -/
def frameFooter (start : Nat) : Op Unit := do
  let stop ← look fun s => s.brPos / 8
  let crc ← readU 16
  checkFooter start stop crc

/-- A frame begins: the CRC-16 restarts from its initial value (70_reset_and_hazards.md R424), which `CRC16` then holds in a
frame that fails before its CRC-16 is computed (log 31). -/
def frameStart : Op Unit := update fun s => { s with crc16 := Config.crc16.init }

/-- `DEC_FRAME` (R315), in mode `Decode` (10_state.md R21). -/
def decFrame : Op Unit := do
  needMode .decode
  frameStart
  fhParse
  fhValidate
  let channels ← readReg fun s => s.fh.channels
  countUp sfDec channels 0
  let p ← look State.brPos
  readPadding (alignGap p)
  let start ← readReg fun s => s.fh.start
  frameFooter start
  chDecorrInv

/-! ### The sequencer's handling of exceptions -/

/-- A fatal exception of the sequencer, recorded at byte `pos` (R387). -/
def fatal (e : Exc) (pos : Nat) : Op Unit := update fun s => (s.record e pos).enterFatal e

/-- An exception the sequencer converts is recorded first, then the converted one (R371). -/
def recordOnly (e : Exc) (pos : Nat) : Op Unit := update fun s => s.record e pos

/-- An exception in a metadata step, at byte `pos`: it is fatal, end of input as `TruncatedMetadata` (R312, R313, R373, R376);
both entries carry that position (log 11). -/
def metadataFault (e : Exc) (pos : Nat) : Op Unit :=
  if e = .endOfStream then do
    recordOnly .endOfStream pos
    fatal (.structural .truncatedMetadata) pos
  else fatal e pos

/-- One unit operation issued by a metadata step, and what the step does after it. Its fault carries the byte at the cursor before
that operation (R371, R372). -/
def metadataOp {α : Type} (m : Op α) (next : α → Op Unit) : Op Unit := do
  let pos ← look fun s => s.brPos / 8
  match ← attempt m with
  | .ok a => next a
  | .error e => metadataFault e pos

/-- Entering `Resync` at frame position `start` (R382). -/
def enterResync (sub : SyncSub) (start : Nat) : Op Unit := update fun s =>
  let t := (s.record (.sync sub) start).setFlag .partial_
  { t with skipStart := start, fh := { t.fh with valid := false }, dstate := .resync }

/-- The verdict of a decode that reached `Done` (R385). -/
def verdictOf (complete : Bool) (stored digest : BitVec 128) : Verdict :=
  if complete = false then .notVerified
  else if stored = 0#128 then .notVerified
  else if digest = stored then .match_
  else .mismatch

/-- A decode that ends short of the announced total is partial (R379). -/
def checkTotals (si : StreamInfo) (s : State) : State :=
  if si.totalSamples ≠ 0 ∧ s.samplesOk ≠ si.totalSamples then s.setFlag .partial_ else s

/-- A mismatch is reported as an `Integrity` exception (R385). -/
def recordVerdict (v : Verdict) (s : State) : State :=
  if v = .mismatch then s.record .integrity (s.brPos / 8) else s

/-- `DSTATE` enters `Done` with its final report entry (R324). -/
def enterDone (v : Verdict) (s : State) : State :=
  { s with
    verdict := v
    report := s.report ++ [.final v s.framesOk s.samplesOk s.resyncs]
    dstate := .done }

/-- The final actions on entering `Done` (R324, R379, R384, R385). -/
def finishDecode : Op Unit := do
  let digest ← md5Final
  let si ← readReg State.si
  update (checkTotals si)
  let partial_ ← look fun s => s.flag .partial_
  let v := verdictOf (!partial_) si.md5 digest
  update (recordVerdict v)
  update (enterDone v)

/-- Sequencer work that raises nothing but, against the protocol, a `LogicError`. -/
def sequencerWork (m : Op Unit) : Op Unit := asIssued m

/-! ### The steps -/

/-- Step `Init` (R312). -/
def stepInit : Op Unit := metadataOp mkRead fun _ => update fun s => { s with dstate := .readStreamInfo }

/-- After a metadata block: frames begin after the last one (R312, R313). -/
def afterBlock (last : Bool) : Op Unit := update fun s =>
  if last then { s with firstFramePos := s.brPos / 8, dstate := .synced } else { s with dstate := .readMetadata }

/-- Step `ReadStreamInfo` (R312). A block that is no StreamInfo is the step's own exception, at the step's first byte (log 14). -/
def stepReadStreamInfo : Op Unit := do
  let start ← look fun s => s.brPos / 8
  metadataOp mbhRead fun h =>
    if h.type ≠ Config.mbType .streamInfo then metadataFault (.structural .noStreamInfo) start
    else if h.length ≠ Config.streamInfoLen then metadataFault (.structural .badStreamInfoLength) start
    else do
      let body ← look fun s => (s.input.drop (s.brPos / 8)).take Config.streamInfoLen
      metadataOp siRead fun _ => metadataOp siValidate fun _ => do
        update fun s =>
          { s with mdOut := s.mdOut ++ [⟨h.type, h.last, Config.streamInfoLen, body⟩], md5 := Md5Regs.reset }
        afterBlock h.last

/-- Step `ReadMetadata` (R313). A second StreamInfo is the step's own exception, at the step's first byte (log 14). -/
def stepReadMetadata : Op Unit := do
  let start ← look fun s => s.brPos / 8
  metadataOp mbhRead fun h =>
    if h.type = Config.mbType .streamInfo then metadataFault (.structural .duplicateStreamInfo) start
    else metadataOp mbReadBody fun body => do
      if h.type = Config.mbType .seekTable then do
        let _ ← seekLoad body
        pure ()
      else pure ()
      afterBlock h.last

/-- After a good frame (R319): hash, emit, count. A counter beyond its 64 bits is a free value (log 8). -/
def emitBlock : Op Unit := do
  md5UpdatePcm
  let first ← readReg fun s => s.fh.firstSample
  let n ← readReg fun s => s.fh.blocksize
  let channels ← readReg fun s => s.fh.channels
  let bps ← readReg fun s => s.fh.bps
  let rate ← readReg fun s => s.fh.sampleRate
  let rows ← readSmp channels n
  update fun s => { s with pcmOut := s.pcmOut ++ [⟨first, n, channels, bps, rate, rows⟩] }
  update fun s =>
    { s with
      framesOk := if s.framesOk + 1 < 2 ^ 64 then s.framesOk + 1
        else (Config.beyondWidth 64 .framesOk s.framesOk (s.framesOk + 1)).toNat
      samplesOk := if s.samplesOk + n < 2 ^ 64 then s.samplesOk + n
        else (Config.beyondWidth 64 .samplesOk s.samplesOk (s.samplesOk + n)).toNat }

/-- Step `Synced` (R314, R320). -/
def stepSynced : Op Unit := do
  let p ← look State.brPos
  let len ← look fun s => 8 * s.input.length
  let ended ← look State.inEof
  if p = len then
    if ended then sequencerWork finishDecode else hold
  else do
    let start := p / 8
    match ← attempt decFrame with
    | .ok _ => sequencerWork emitBlock
    | .error (.sync sub) => enterResync sub start
    | .error e =>
      if e = .endOfStream then do
        recordOnly .endOfStream start
        enterResync .truncated start
      else fatal e start

/-- Two bytes whose first bits are the sync code (30_encoding.md R110). -/
abbrev syncAt (a b : Byte) : Prop := bitsNat ((bytesBits [a, b]).take Config.syncLen) = Config.syncCode

/-- The first byte index, from `j` on, whose first 14 bits are the sync code (R383); `bs` are the bytes from `j` on. -/
def scanSync : List Byte → Nat → Option Nat
  | a :: b :: rest, j => if syncAt a b then some j else scanSync (b :: rest) (j + 1)
  | _, _ => none

/-- A resynchronisation ends (R383): reported and counted. `RESYNCS` beyond its 32 bits is a free value (log 8). -/
def endResync (stop pos : Nat) (how : ResyncHow) (s : State) : State :=
  let t := { s with report := s.report ++ [ReportEntry.resync s.skipStart stop how], brPos := pos }
  if s.resyncs + 1 < 2 ^ 32 then { t with resyncs := s.resyncs + 1 }
  else { t with resyncs := (Config.beyondWidth 32 .resyncs s.resyncs (s.resyncs + 1)).toNat }

/-- Step `Resync` (R383). -/
def stepResync : Op Unit := do
  let p ← look State.brPos
  let input ← look State.input
  let ended ← look State.inEof
  match scanSync (input.drop ((p + 7) / 8)) ((p + 7) / 8) with
  | some j => update fun s => { endResync j (8 * j) .found s with dstate := .synced }
  | none =>
    if ended then do
      update (endResync input.length (8 * input.length) .eof)
      let frames ← look State.framesOk
      if frames = 0 then fatal .noAudio (p / 8) else sequencerWork finishDecode
    else hold

/-- `DEC_STEP` (R311). -/
def decStep : Op DState := do
  needMode .decode
  match ← look State.dstate with
  | .init => stepInit
  | .readStreamInfo => stepReadStreamInfo
  | .readMetadata => stepReadMetadata
  | .synced => stepSynced
  | .resync => stepResync
  | .done => pure ()
  | .fatalError => pure ()
  look State.dstate

/-- `DEC_FLUSH` (R323). -/
def decFlush : Op Unit := do
  needMode .decode
  let d ← look State.dstate
  check (d = .synced ∨ d = .resync) (.logic .badMode)
  update fun s =>
    let t := s.setFlag .partial_
    { t with input := [], inEof := false, brPos := 0, skipStart := 0, fh := { t.fh with valid := false }, dstate := .resync }

/-! ### The operations -/

/-- `DEC_STEP` (R311). -/
def execDecStep (s : State) : Host.Outcome State Fault Refusal :=
  issue .read (do
    let d ← decStep
    pure (.dstate d)) s

/-- `DEC_FRAME` (R315). -/
def execDecFrame (s : State) : Host.Outcome State Fault Refusal :=
  issue .read (do
    decFrame
    pure .none) s

/-- `CH_DECORR_INV` (R318): issued by the host it takes effect wholly or not at all (20_memory.md R78; log 21). -/
def execChDecorrInv (s : State) : Host.Outcome State Fault Refusal :=
  issue .read (do
    atomically chDecorrInv
    pure .none) s

/-- `DEC_FLUSH` (R323). -/
def execDecFlush (s : State) : Host.Outcome State Fault Refusal :=
  issue .read (do
    decFlush
    pure .none) s

end Sys2Proof.Machine
end

