-- ==== Sys2Proof/Machine/Wire.lean ====
section
/-! DEFINITION. The wire structures of opcode_table.json's `WIRE<n>` rows (30_encoding.md R104 to R135). They are no operations of
R100; issued as instructions they act as the reading of that structure by the rule that reads it, with the structure's own bits
as the input read: `IN` and the read cursor stay as they are (DESIGN CHOICE, log 4). -/

namespace Sys2Proof.Machine

/-- The bits of a code in wire order. -/
def codeBits (c : Code) : List Bool := natBits c.form.width c.bits

/-- `s` with another input and another place in it. -/
def State.reading (s : State) (bs : List Byte) (p : Nat) : State := { s with input := bs, brPos := p }

/-- Run `m` with `bits` as its input, from their first bit on; `IN` and `BR_POS` are then as before. -/
def presented {α : Type} (bits : List Bool) (m : Op α) : Op α := fun s =>
  match m (s.reading (bitsBytes (bits ++ List.replicate (alignGap bits.length) false)) 0) with
  | .ok a t => .ok a (t.reading s.input s.brPos)
  | .error e t => .error e (t.reading s.input s.brPos)

/-- A metadata block header (R104), read as by `MBH_READ` (43_frame_model.md R222). -/
def execWireMbHeader (last type length : Nat) (s : State) : Host.Outcome State Fault Refusal :=
  issue .read (presented (codeBits (encode (.wireMbHeader last type length))) do
    let _ ← mbhRead
    pure .none) s

/-- A StreamInfo body (R106), read as by `SI_READ` (43_frame_model.md R223). -/
def execWireStreamInfo (minBs maxBs minFs maxFs rate ch bps total md5 : Nat) (s : State) :
    Host.Outcome State Fault Refusal :=
  issue .read (presented (codeBits (encode (.wireStreamInfo minBs maxBs minFs maxFs rate ch bps total md5))) do
    siRead
    pure .none) s

/-- The fixed part of a frame header (R110), read as by `FH_PARSE` (43_frame_model.md R227): the header registers of these
fields take them; the rest of the header, the CRC-8 with it, is not part of the structure. -/
def execWireFrameHeader (r v b s_ c d : Nat) (s : State) : Host.Outcome State Fault Refusal :=
  issue .read (presented (codeBits (encode (.wireFrameHeader r v b s_ c d))) do
    notEncode
    headerStart
    let h ← fhFixed
    update fun t =>
      { t with fh := { t.fh with
          variable_ := some h.variable_
          bsCode := some h.bsCode
          srCode := some h.srCode
          chanAssign := some h.chanAssign
          bpsCode := some h.bpsCode
          reserved := some h.reserved } }
    pure .none) s

/-- A subframe header byte (R120, R121), read as by `SF_DEC` (44_predictor.md R251): type, order, and no wasted bits where the
flag is 0 (with flag 1 the count follows the structure). -/
def readSubframeByte : Op Unit := do
  notEncode
  let (t, wf) ← sfHeader
  let _ ← setSfType t
  if wf = 0 then update fun s => { s with sf := { s.sf with wasted := some 0 } } else pure ()

/-- A Constant subframe header. -/
def execWireSfConstant (w : Nat) (s : State) : Host.Outcome State Fault Refusal :=
  issue .read (presented (codeBits (encode (.wireSfConstant w))) do
    readSubframeByte
    pure .none) s

/-- A Verbatim subframe header. -/
def execWireSfVerbatim (w : Nat) (s : State) : Host.Outcome State Fault Refusal :=
  issue .read (presented (codeBits (encode (.wireSfVerbatim w))) do
    readSubframeByte
    pure .none) s

/-- A Fixed subframe header; orders 5 to 7 are reserved (R121). -/
def execWireSfFixed (o w : Nat) (s : State) : Host.Outcome State Fault Refusal :=
  issue .read (presented (codeBits (encode (.wireSfFixed o w))) do
    readSubframeByte
    pure .none) s

/-- An LPC subframe header. -/
def execWireSfLpc (o w : Nat) (s : State) : Host.Outcome State Fault Refusal :=
  issue .read (presented (codeBits (encode (.wireSfLpc o w))) do
    readSubframeByte
    pure .none) s

/-- A residual-section header (R130), read as by `RES_DECODE` (45_residual.md R284). -/
def execWireResHeader (m p : Nat) (s : State) : Host.Outcome State Fault Refusal :=
  issue .read (presented (codeBits (encode (.wireResHeader m p))) do
    notEncode
    let (n, o) ← blockGeometry
    let _ ← readResHeader n o
    pure .none) s

/-- A seek point (R107), read as a table of this one point by `SEEK_LOAD` (48_seek_index.md R361). -/
def execWireSeekpoint (sample offset nsamples : Nat) (s : State) : Host.Outcome State Fault Refusal :=
  issue (.none (.wireSeekpoint sample offset nsamples)) (do
    let _ ← seekLoad (bitsBytes (codeBits (encode (.wireSeekpoint sample offset nsamples))))
    pure .none) s

/-- A frame footer (R135), checked as by `DEC_FRAME` (46_decoder_pipeline.md R315) against the bytes of `IN` from `FH_START` to
the cursor. -/
def execWireFrameFooter (crc : Nat) (s : State) : Host.Outcome State Fault Refusal :=
  issue .read (do
    notEncode
    let start ← readReg fun t => t.fh.start
    let stop ← look fun t => t.brPos / 8
    checkFooter start stop crc
    pure .none) s

end Sys2Proof.Machine
end

