-- ==== Sys2Proof/Machine/Dispatch.lean ====
section
/-! DEFINITION. The dispatch: one arm per constructor of `Instr`, each a direct call of its meaning. -/

namespace Sys2Proof.Machine

def exec (i : Instr) (s : State) : Host.Outcome State Fault Refusal :=
  match i with
  | .streamReset mode => Sys2Proof.Machine.execStreamReset mode s
  | .inPush count => Sys2Proof.Machine.execInPush count s
  | .inEof => Sys2Proof.Machine.execInEof s
  | .outPull => Sys2Proof.Machine.execOutPull s
  | .pcmPop => Sys2Proof.Machine.execPcmPop s
  | .mdPop => Sys2Proof.Machine.execMdPop s
  | .reportPop => Sys2Proof.Machine.execReportPop s
  | .pcmPush blocksize => Sys2Proof.Machine.execPcmPush blocksize s
  | .siPop => Sys2Proof.Machine.execSiPop s
  | .brReadU n => Sys2Proof.Machine.execBrReadU n s
  | .brReadS n => Sys2Proof.Machine.execBrReadS n s
  | .brReadUnary => Sys2Proof.Machine.execBrReadUnary s
  | .brReadRice k => Sys2Proof.Machine.execBrReadRice k s
  | .brAlign => Sys2Proof.Machine.execBrAlign s
  | .brReadBytes count => Sys2Proof.Machine.execBrReadBytes count s
  | .brReadCoded maxBytes => Sys2Proof.Machine.execBrReadCoded maxBytes s
  | .bwWriteU n v => Sys2Proof.Machine.execBwWriteU n v s
  | .bwWriteS n v => Sys2Proof.Machine.execBwWriteS n v s
  | .bwWriteUnary q => Sys2Proof.Machine.execBwWriteUnary q s
  | .bwWriteRice k r => Sys2Proof.Machine.execBwWriteRice k r s
  | .bwAlign => Sys2Proof.Machine.execBwAlign s
  | .bwWriteBytes count => Sys2Proof.Machine.execBwWriteBytes count s
  | .bwWriteCoded v => Sys2Proof.Machine.execBwWriteCoded v s
  | .crc8Reset => Sys2Proof.Machine.execCrc8Reset s
  | .crc8Update count => Sys2Proof.Machine.execCrc8Update count s
  | .crc16Reset => Sys2Proof.Machine.execCrc16Reset s
  | .crc16Update count => Sys2Proof.Machine.execCrc16Update count s
  | .md5Reset => Sys2Proof.Machine.execMd5Reset s
  | .md5Update count => Sys2Proof.Machine.execMd5Update count s
  | .md5UpdatePcm => Sys2Proof.Machine.execMd5UpdatePcm s
  | .md5Final => Sys2Proof.Machine.execMd5Final s
  | .mkRead => Sys2Proof.Machine.execMkRead s
  | .mbhRead => Sys2Proof.Machine.execMbhRead s
  | .siRead => Sys2Proof.Machine.execSiRead s
  | .siValidate => Sys2Proof.Machine.execSiValidate s
  | .mbReadBody => Sys2Proof.Machine.execMbReadBody s
  | .fhParse => Sys2Proof.Machine.execFhParse s
  | .fhValidate => Sys2Proof.Machine.execFhValidate s
  | .mdseqCheck count => Sys2Proof.Machine.execMdseqCheck count s
  | .mkWrite => Sys2Proof.Machine.execMkWrite s
  | .mbhWrite last b => Sys2Proof.Machine.execMbhWrite last b s
  | .siWrite => Sys2Proof.Machine.execSiWrite s
  | .fhWrite => Sys2Proof.Machine.execFhWrite s
  | .sfDec c => Sys2Proof.Machine.execSfDec c s
  | .sfDecConstant => Sys2Proof.Machine.execSfDecConstant s
  | .sfDecVerbatim => Sys2Proof.Machine.execSfDecVerbatim s
  | .sfDecFixed => Sys2Proof.Machine.execSfDecFixed s
  | .sfDecLpc => Sys2Proof.Machine.execSfDecLpc s
  | .fixedRestore => Sys2Proof.Machine.execFixedRestore s
  | .lpcRestore => Sys2Proof.Machine.execLpcRestore s
  | .fixedResidual order => Sys2Proof.Machine.execFixedResidual order s
  | .lpcResidual => Sys2Proof.Machine.execLpcResidual s
  | .lpcAnalyze => Sys2Proof.Machine.execLpcAnalyze s
  | .sfEncConstant => Sys2Proof.Machine.execSfEncConstant s
  | .sfEncVerbatim => Sys2Proof.Machine.execSfEncVerbatim s
  | .sfEncFixed => Sys2Proof.Machine.execSfEncFixed s
  | .sfEncLpc => Sys2Proof.Machine.execSfEncLpc s
  | .sfSelect c => Sys2Proof.Machine.execSfSelect c s
  | .resDecode => Sys2Proof.Machine.execResDecode s
  | .resEncode => Sys2Proof.Machine.execResEncode s
  | .riceParamSelect kmax first count => Sys2Proof.Machine.execRiceParamSelect kmax first count s
  | .partSelect => Sys2Proof.Machine.execPartSelect s
  | .decStep => Sys2Proof.Machine.execDecStep s
  | .decFrame => Sys2Proof.Machine.execDecFrame s
  | .chDecorrInv => Sys2Proof.Machine.execChDecorrInv s
  | .decFlush => Sys2Proof.Machine.execDecFlush s
  | .encInit b => Sys2Proof.Machine.execEncInit b s
  | .encBlock => Sys2Proof.Machine.execEncBlock s
  | .encFinish => Sys2Proof.Machine.execEncFinish s
  | .chDecorrFwd ca => Sys2Proof.Machine.execChDecorrFwd ca s
  | .stereoSelect => Sys2Proof.Machine.execStereoSelect s
  | .seekLoad len => Sys2Proof.Machine.execSeekLoad len s
  | .seekLookup target => Sys2Proof.Machine.execSeekLookup target s
  | .wireMbHeader last type length => Sys2Proof.Machine.execWireMbHeader last type length s
  | .wireStreamInfo minBs maxBs minFs maxFs rate ch bps total md5 => Sys2Proof.Machine.execWireStreamInfo minBs maxBs minFs maxFs rate ch bps total md5 s
  | .wireFrameHeader r v b xs c d => Sys2Proof.Machine.execWireFrameHeader r v b xs c d s
  | .wireSfConstant w => Sys2Proof.Machine.execWireSfConstant w s
  | .wireSfVerbatim w => Sys2Proof.Machine.execWireSfVerbatim w s
  | .wireSfFixed o w => Sys2Proof.Machine.execWireSfFixed o w s
  | .wireSfLpc o w => Sys2Proof.Machine.execWireSfLpc o w s
  | .wireResHeader m p => Sys2Proof.Machine.execWireResHeader m p s
  | .wireSeekpoint xs o n => Sys2Proof.Machine.execWireSeekpoint xs o n s
  | .wireFrameFooter c => Sys2Proof.Machine.execWireFrameFooter c s

end Sys2Proof.Machine
end

