-- ==== Sys2Proof/Machine/Fetch.lean ====
section
/-! DEFINITION. How an issued operation reaches the machine (there is no program counter and no stored program: 10_state.md R42;
log 1), and what a word that is no operation does (30_encoding.md R100; log 17). -/

namespace Sys2Proof.Machine

/-- The oldest operation issued, and the state in which it runs: it is taken off the queue and its payload is on the port. -/
def takeIssue (s : State) : Option (Code × State) :=
  match s.cmdq with
  | [] => none
  | i :: rest => some (i.code, { s with cmdq := rest, payload := i.payload })

/-- The operations accepted while the session is dead (60_exceptions.md R374): `STREAM_RESET`, `OUT_PULL`, `PCM_POP`, `MD_POP`,
`REPORT_POP`, `SI_POP`. -/
def acceptedWhenFaulted (c : Cmd) : Bool := c ∈ [Cmd.streamReset, .outPull, .pcmPop, .mdPop, .reportPop, .siPop]

/-- A word that is no operation raises `LogicError(BadOperand)` (R100). -/
def badCommand (c : Code) (why : Reject) (s : State) : Host.Outcome State Fault Refusal :=
  match why with
  | .unusedNotZero op =>
    if acceptedWhenFaulted op then issueAlways (.neutral c) (raise (.logic .badOperand)) s
    else issue (.neutral c) (raise (.logic .badOperand)) s
  | .tooWide | .unknownOpcode _ | .otherStructure => issue (.neutral c) (raise (.logic .badOperand)) s

/-- An operation is issued ahead of the others, without a payload. -/
def issueFirst (c : Code) (s : State) : State := { s with cmdq := ⟨c, .none⟩ :: s.cmdq }

end Sys2Proof.Machine
end

