-- ==== Sys2Proof/Machine/Step.lean ====
section
/-! DEFINITION. One step: the oldest issued operation is decoded and run; with none issued the block is idle
(70_reset_and_hazards.md R422). -/

namespace Sys2Proof.Machine

/-- One step (R422). A payload that comes beside an operation that takes none is not looked at, and the operation runs (30_encoding.md
R100 is silent; DESIGN CHOICE, log 2). -/
def step (s : State) : Host.Outcome State Fault Refusal :=
  match takeIssue s with
  | none => .next s
  | some (c, t) =>
    match decode c with
    | .ok i => exec i t
    | .error why => badCommand c why t

/-- `s` with the operation of a table word issued as the next one (log 1, 27). -/
def State.withFetchWord (s : State) (nbits w : Nat) : State :=
  match tableCode nbits w with
  | some c => issueFirst c s
  | none => s

end Sys2Proof.Machine
end

