-- ==== Sys2Proof/Safety.lean ====
section
/-! DEFINITION. What every state of a session satisfies, in the terms the statements use. -/

namespace Sys2Proof.Machine

/-- The cursors stay inside their streams: `0 ≤ BR_POS ≤ 8 * IN_LEN` (10_state.md R24), and the host has pulled only completed
bytes (R25). -/
def State.CursorsInside (s : State) : Prop := s.brPos ≤ 8 * s.input.length ∧ 8 * s.outRd ≤ s.out.length

/-- The reserved bits of `STATUS` read as 0 (R29). -/
def State.ReservedClear (s : State) : Prop := ∀ i, 11 ≤ i → s.status.getLsbD i = false

/-- A register, if written, holds a value below the bound. -/
def Below (r : Reg Nat) (bound : Nat) : Prop := ∀ v, r = some v → v < bound

/-- The input is one the spec covers (10_state.md R42). -/
def State.InputInSpec (s : State) : Prop := s.input.length < 2 ^ 61

/-- The stream-header fields are within the widths of 10_state.md R31. -/
def StreamInfo.InWidth (si : StreamInfo) : Prop :=
  si.minBlocksize < 2 ^ 16 ∧ si.maxBlocksize < 2 ^ 16 ∧ si.minFramesize < 2 ^ 24 ∧ si.maxFramesize < 2 ^ 24 ∧
    si.sampleRate < 2 ^ 20 ∧ 1 ≤ si.channels ∧ si.channels ≤ 8 ∧ 1 ≤ si.bps ∧ si.bps ≤ 32 ∧ si.totalSamples < 2 ^ 36

/-- The stream-header registers and the counters hold what their widths can (00_scope.md R12, 10_state.md R31, R32, R39,
R51). -/
def State.CountersInWidth (s : State) : Prop :=
  (∀ si, s.si = some si → si.InWidth) ∧
  (∀ h, s.mb = some h → h.type < 2 ^ 7 ∧ h.length < 2 ^ 24) ∧
  s.mbCount < 2 ^ 32 ∧ s.resyncs < 2 ^ 32 ∧ s.framesOk < 2 ^ 64 ∧ s.samplesOk < 2 ^ 64 ∧
  s.encSamples < 2 ^ 36 ∧ s.encMinFs < 2 ^ 24 ∧ s.encMaxFs < 2 ^ 24

/-- The frame-header registers are within the widths of 10_state.md R33. `FH_CRC8` is a byte by its type; `FH_START` of an encoder
counts bytes of `W`, which has no bound (log 9). -/
def FhRegs.InWidth (fh : FhRegs) : Prop :=
  Below fh.variable_ 2 ∧ Below fh.bsCode (2 ^ 4) ∧ Below fh.srCode (2 ^ 4) ∧ Below fh.chanAssign (2 ^ 4) ∧
    Below fh.bpsCode (2 ^ 3) ∧ Below fh.number (2 ^ 36) ∧ Below fh.blocksize (2 ^ 17) ∧ Below fh.sampleRate (2 ^ 20) ∧
    Below fh.channels 9 ∧ Below fh.bps 33 ∧ Below fh.reserved 2 ∧ Below fh.firstSample (2 ^ 64)

/-- The subframe registers are within the ranges of 10_state.md R34. -/
def SfRegs.InRange (sf : SfRegs) : Prop :=
  Below sf.order 33 ∧ Below sf.wasted 33 ∧ (∀ b, sf.bps = some b → 1 ≤ b ∧ b ≤ 33) ∧ Below sf.ch 8

/-- The partition-table registers are within the ranges of 10_state.md R36. -/
def RcRegs.InWidth (rc : RcRegs) : Prop :=
  Below rc.method 2 ∧ Below rc.porder 9 ∧ rc.table.length ≤ 256 ∧
    ∀ e ∈ rc.table, Below e.param 31 ∧ Below e.raw 32

/-- The coefficient file and the partition table hold legal values (R35, R36). -/
def State.CodingInRange (s : State) : Prop :=
  Below s.qlpPrec 16 ∧ Below s.qlpShift 16 ∧ s.qlp.length ≤ 32 ∧ (∀ q ∈ s.qlp, fitsS q 15) ∧ s.rc.InWidth

/-- `SMP` has its eight rows (R38). -/
def State.RowsWhole (s : State) : Prop := s.smp.length = 8

/-- The configuration, once written, is one that `ENC_INIT` accepts (R50, 47_encoder.md R342). -/
def State.ConfigValid (s : State) : Prop := ∀ c, s.cfg = some c → configError c = none

/-- The invariant of every session. -/
def State.Inv (s : State) : Prop :=
  s.InputInSpec ∧ s.CursorsInside ∧ s.ReservedClear ∧ s.RowsWhole ∧ s.CountersInWidth ∧ s.fh.InWidth ∧ s.sf.InRange ∧
    s.CodingInRange ∧ s.ConfigValid

/-! ### What an operation finds, and how it ends -/

/-- An outcome of `exec` or `step`. -/
abbrev Ending := Host.Outcome State Fault Refusal

/-- The input at the read cursor begins with these bits (00_scope.md R11). -/
abbrev AtCursor (s : State) (bits : List Bool) : Prop := bits <+: bitsFrom s.input s.brPos

/-- Fewer than `n` bits are left at the cursor (41_bitstream_io.md R161). -/
abbrev Lacks (s : State) (n : Nat) : Prop := 8 * s.input.length < s.brPos + n

/-- The payload beside the operation is these bytes (30_encoding.md R100); no payload is the empty one (log 2). -/
abbrev Carries (s : State) (bs : List Byte) : Prop := s.payload = .bytes bs ∨ (bs = [] ∧ s.payload = .none)

/-- The operation answers `r`, leaving `t` (00_scope.md R15). -/
abbrev Answers (o : Ending) (t : State) (r : Result) : Prop := o = .next { t with reply := some (.ok r) }

/-- The operation raises `e`, with no effect but the recording of it (60_exceptions.md R371). -/
abbrev Raises (o : Ending) (s : State) (side : Side) (e : Exc) : Prop := o = .next (s.takeException s side e)

/-- The instructions that read the input and so need mode Decode or Idle (10_state.md R21; which they are: log 15), with the wire
structures that they read. -/
abbrev ReadsTheInput (i : Instr) : Prop :=
  i ∈ [.mkRead, .mbhRead, .siRead, .mbReadBody, .fhParse, .sfDecConstant, .sfDecVerbatim, .sfDecFixed, .sfDecLpc, .resDecode] ∨
  (∃ c, i = .sfDec c) ∨
  (∃ last type length, i = .wireMbHeader last type length) ∨
  (∃ a b f g r c d t h, i = .wireStreamInfo a b f g r c d t h) ∨
  (∃ r v b n c d, i = .wireFrameHeader r v b n c d) ∨
  (∃ w, i = .wireSfConstant w ∨ i = .wireSfVerbatim w ∨ ∃ o, i = .wireSfFixed o w ∨ i = .wireSfLpc o w) ∨
  (∃ m p, i = .wireResHeader m p) ∨
  (∃ crc, i = .wireFrameFooter crc)

/-- The operation starves: it holds while more input may come, else it raises `EndOfStream`, consuming nothing
(41_bitstream_io.md R161). -/
abbrev Starves (o : Ending) (s : State) : Prop :=
  (s.inEof = false → o = .next { s with reply := some .hold }) ∧ (s.inEof = true → Raises o s .read .endOfStream)

/-- The result of an operation that answers, and the state it leaves. -/
def answerOf (i : Instr) (s : State) : Option (Result × State) :=
  match exec i s with
  | .next t =>
    match t.reply with
    | some (.ok r) => some (r, t)
    | some .hold | some (.fault _) | none => none
  | .fault _ | .refused _ => none

/-- Operations in order, each answering: their results and the state after the last. -/
def answersOf : List Instr → State → Option (List Result × State)
  | [], s => some ([], s)
  | i :: rest, s =>
    match answerOf i s with
    | some (r, t) => (answersOf rest t).map fun x => (r :: x.1, x.2)
    | none => none

/-- `k` decoder steps, each an operation of the host. -/
def decSteps : Nat → State → State
  | 0, s => s
  | k + 1, s =>
    match exec .decStep s with
    | .next t => decSteps k t
    | .fault _ | .refused _ => s

/-! ### Fields of a bit stream (41_bitstream_io.md R178) -/

/-- A field that is written by one bit-writer operation and read back by the bit-reader operation of the same kind. -/
inductive BitField
  | unsigned (n v : Nat)
  | signed (n : Nat) (v : Int)
  | unary (q : Nat)
  | rice (k : Nat) (r : Int)
  deriving DecidableEq, Repr

/-- A field the writer accepts (R171 to R174). -/
abbrev BitField.Writable : BitField → Prop
  | .unsigned n v => 1 ≤ n ∧ n ≤ 32 ∧ v < 2 ^ n
  | .signed n v => 1 ≤ n ∧ n ≤ 32 ∧ -(2 ^ (n - 1)) ≤ v ∧ v < 2 ^ (n - 1)
  | .unary q => q < 2 ^ 32
  | .rice k r => k ≤ 30 ∧ -(2 ^ 31) < r ∧ r < 2 ^ 31

/-- The operation that writes a field. -/
def BitField.writeOp : BitField → Instr
  | .unsigned n v => .bwWriteU n v
  | .signed n v => .bwWriteS n v
  | .unary q => .bwWriteUnary q
  | .rice k r => .bwWriteRice k r

/-- The operation that reads it back. -/
def BitField.readOp : BitField → Instr
  | .unsigned n _ => .brReadU n
  | .signed n _ => .brReadS n
  | .unary _ => .brReadUnary
  | .rice k _ => .brReadRice k

/-- What reading it back returns. -/
def BitField.value : BitField → Result
  | .unsigned _ v => .nat v
  | .signed _ v => .int v
  | .unary q => .nat q
  | .rice _ r => .int r

/-! ### Subframes and the residual section -/

/-- Samples as fields of `b` bits, two's complement, in time order (30_encoding.md R124). -/
def sampleBits (b : Nat) (xs : List Int) : List Bool := xs.flatMap fun x => natBits b (tc b x)

/-- Sample `i` of a row; 0 beyond its end. -/
abbrev sampleAt (xs : List Int) (i : Nat) : Int := xs.getD i 0

/-- Channel `c` of the block in hand. -/
abbrev State.row (s : State) (c : Nat) : List Int := s.smp.getD c []

/-- `P_o(i)` on a row (44_predictor.md R256). -/
def fixedAt (o : Nat) (xs : List Int) (i : Nat) : Int :=
  match o with
  | 0 => 0
  | 1 => sampleAt xs (i - 1)
  | 2 => 2 * sampleAt xs (i - 1) - sampleAt xs (i - 2)
  | 3 => 3 * sampleAt xs (i - 1) - 3 * sampleAt xs (i - 2) + sampleAt xs (i - 3)
  | _ => 4 * sampleAt xs (i - 1) - 6 * sampleAt xs (i - 2) + 4 * sampleAt xs (i - 3) - sampleAt xs (i - 4)

/-- `acc >> QLP_SHIFT` of sample `i` on a row, for a predictor of order `o` (R258). -/
def lpcAt (qlp : List Int) (shift o : Nat) (xs : List Int) (i : Nat) : Int :=
  ((List.range o).map fun j => sampleAt qlp j * sampleAt xs (i - 1 - j)).sum / 2 ^ shift

/-- The largest magnitude of a residual (R260). -/
abbrev IsLargest (m : Nat) (res : List Int) : Prop := (∀ r ∈ res, r.natAbs ≤ m) ∧ ∃ r ∈ res, r.natAbs = m

/-- The choice an entry of the partition table stands for (10_state.md R36). -/
def RcEntry.choice (e : RcEntry) : Option PartChoice := if e.esc then e.raw.map .esc else e.param.map .rice

/-- `RC_*` hold this table (R36). -/
abbrev TableIs (s : State) (t : PartTable) : Prop :=
  s.rc.method = some t.method ∧ s.rc.porder = some t.porder ∧
    (s.rc.table.take (2 ^ t.porder)).map RcEntry.choice = t.parts.map some

/-- A table that `RES_ENCODE` accepts for the residual `res` of a block of `n` samples and a predictor of order `o`
(45_residual.md R289): `p` valid, each parameter within the method, each escaped residual within the raw width, each residual
within the limits. -/
abbrev TableFits (n o : Nat) (res : List Int) (t : PartTable) : Prop :=
  t.method ≤ 1 ∧ t.porder ≤ 8 ∧ n % 2 ^ t.porder = 0 ∧ o ≤ n / 2 ^ t.porder ∧ res.length = n - o ∧
    t.parts.length = 2 ^ t.porder ∧ (∀ r ∈ res, -(2 ^ 31) < r ∧ r < 2 ^ 31) ∧
    ((partitions n o t.porder res).zip t.parts).all fun x => choiceFits t.method x.1 x.2

/-- How a subframe is coded: its type with what the type's body holds beside the samples (44_predictor.md R251). -/
inductive SubframeForm
  | constant
  | verbatim
  | fixed (o : Nat) (t : PartTable)
  | lpc (qs : List Int) (prec shift : Nat) (t : PartTable)
  deriving DecidableEq, Repr

/-- The type of a form. -/
def SubframeForm.type : SubframeForm → SfType
  | .constant => .constant
  | .verbatim => .verbatim
  | .fixed _ _ => .fixed
  | .lpc _ _ _ _ => .lpc

/-- The predictor order of a form. -/
def SubframeForm.order : SubframeForm → Nat
  | .constant | .verbatim => 0
  | .fixed o _ => o
  | .lpc qs _ _ _ => qs.length

/-- The residual that a form leaves of the samples `xs` (R260, R261). -/
def SubframeForm.residual (xs : List Int) : SubframeForm → List Int
  | .constant | .verbatim => []
  | .fixed o _ => residualOf (fixedPredict o) o xs
  | .lpc qs _ shift _ => residualOf (lpcPredict qs shift) qs.length xs

/-- The bits of a subframe of `w` wasted bits: `xs` without them, at `b` bits each (30_encoding.md R120 to R126; R267 to R270). -/
def SubframeForm.bits (b w : Nat) (xs : List Int) (f : SubframeForm) : List Bool :=
  match f with
  | .constant => sfHeaderBits 0 w ++ natBits b (tc b (xs.headD 0))
  | .verbatim => sfHeaderBits 1 w ++ sampleBits b xs
  | .fixed o t => sfHeaderBits (8 + o) w ++ sampleBits b (xs.take o) ++ sectionBits xs.length o (f.residual xs) t
  | .lpc qs prec shift t =>
    sfHeaderBits (32 + (qs.length - 1)) w ++ sampleBits b (xs.take qs.length) ++ natBits 4 (prec - 1) ++ natBits 5 shift ++
      sampleBits prec qs ++ sectionBits xs.length qs.length (f.residual xs) t

/-- The form can carry the samples `xs`: the ones that stand in the stream fit `b` bits, and the type's own limits hold. -/
abbrev SubframeForm.Carries (b : Nat) (xs : List Int) (f : SubframeForm) : Prop :=
  match f with
  | .constant => (∀ x ∈ xs, x = xs.headD 0) ∧ fitsS (xs.headD 0) b
  | .verbatim => ∀ x ∈ xs, fitsS x b
  | .fixed o t =>
    o ≤ 4 ∧ o ≤ xs.length ∧ (∀ x ∈ xs.take o, fitsS x b) ∧ TableFits xs.length o (f.residual xs) t
  | .lpc qs prec shift t =>
    1 ≤ qs.length ∧ qs.length ≤ 32 ∧ qs.length ≤ xs.length ∧ 1 ≤ prec ∧ prec ≤ 15 ∧ shift ≤ 15 ∧
      (∀ q ∈ qs, fitsS q prec) ∧ (∀ x ∈ xs.take qs.length, fitsS x b) ∧ TableFits xs.length qs.length (f.residual xs) t

/-! ### A frame header as it is read and written -/

/-- The fields that `FH_WRITE` takes (43_frame_model.md R236). -/
structure FrameHead where
  variable_ : Nat
  number : Nat
  blocksize : Nat
  sampleRate : Nat
  chanAssign : Nat
  bps : Nat
  deriving DecidableEq, Repr

/-- The fields are within the ranges that `FH_WRITE` accepts and the registers hold. -/
abbrev FrameHead.Writable (h : FrameHead) : Prop :=
  h.variable_ < 2 ∧ (h.number < if h.variable_ = 0 then 2 ^ 31 else 2 ^ 36) ∧ 1 ≤ h.blocksize ∧ h.blocksize ≤ 65535 ∧
    h.sampleRate < 2 ^ 20 ∧ h.chanAssign ≤ 10 ∧ 4 ≤ h.bps ∧ h.bps ≤ 32

/-- The registers hold these fields. -/
abbrev HeadIs (s : State) (h : FrameHead) : Prop :=
  s.fh.variable_ = some h.variable_ ∧ s.fh.number = some h.number ∧ s.fh.blocksize = some h.blocksize ∧
    s.fh.sampleRate = some h.sampleRate ∧ s.fh.chanAssign = some h.chanAssign ∧ s.fh.bps = some h.bps

/-- The header's bytes before the CRC-8 (30_encoding.md R110). -/
def FrameHead.body (h : FrameHead) : List Byte :=
  bitsBytes (natBits 14 0x3FFE ++ natBits 1 0 ++ natBits 1 h.variable_ ++ natBits 4 (bsCodeFor h.blocksize).code ++
    natBits 4 (srCodeFor h.sampleRate).code ++ natBits 4 h.chanAssign ++ natBits 3 (bpsCodeFor h.bps) ++ natBits 1 0) ++
    codedBytes h.number ++
    bitsBytes (natBits (bsCodeFor h.blocksize).width (bsCodeFor h.blocksize).value) ++
    bitsBytes (natBits (srCodeFor h.sampleRate).width (srCodeFor h.sampleRate).value)

/-- The whole header. -/
def FrameHead.bytes (h : FrameHead) : List Byte := h.body ++ [crc8Of h.body]

/-- The 32 bits that a frame header begins with (30_encoding.md R110). -/
def fixedHeadBits (r v b s c d e : Nat) : List Bool :=
  natBits 14 0x3FFE ++ natBits 1 r ++ natBits 1 v ++ natBits 4 b ++ natBits 4 s ++ natBits 4 c ++ natBits 3 d ++ natBits 1 e

/-! ### A frame as it is read (30_encoding.md R109) -/

/-- One channel of a frame: its wasted bits, its samples without them, and how they are coded. -/
structure CodedChannel where
  wasted : Nat
  xs : List Int
  form : SubframeForm
  deriving DecidableEq, Repr

/-- The samples of the channel. -/
def CodedChannel.samples (k : CodedChannel) : List Int := k.xs.map (· * 2 ^ k.wasted)

/-- The channels of a frame, from channel `c` on, as bits, each at its own depth (46_decoder_pipeline.md R317). -/
def channelBits (h : FrameHead) : Nat → List CodedChannel → List Bool
  | _, [] => []
  | c, k :: rest =>
    k.form.bits (h.bps + sideBit h.chanAssign c - k.wasted) k.wasted k.xs ++ channelBits h (c + 1) rest

/-- The bytes of a frame before its CRC-16, with `pad` between the last subframe and the byte boundary. -/
def frameBody (h : FrameHead) (ks : List CodedChannel) (pad : List Bool) : List Byte :=
  h.bytes ++ bitsBytes (channelBits h 0 ks ++ pad)

/-- Two channels, decorrelation undone (46_decoder_pipeline.md R318). -/
def undoRows (ca : Nat) (a b : List Int) : List Int × List Int := (List.zipWith (decorrUndo ca) a b).unzip

/-- The block that the channels stand for, the decorrelation undone (46_decoder_pipeline.md R318). -/
def decodedBlock (ca : Nat) (ks : List CodedChannel) : List (List Int) :=
  match ks.map CodedChannel.samples with
  | [a, b] => [(undoRows ca a b).1, (undoRows ca a b).2]
  | rows => rows

/-- Channel `c` of a frame with header `h` can be decoded: a depth of at least one bit is left, the form carries the samples,
and each fits that depth. -/
abbrev ChannelOk (h : FrameHead) (c : Nat) (k : CodedChannel) : Prop :=
  k.wasted < h.bps + sideBit h.chanAssign c ∧ k.xs.length = h.blocksize ∧
    k.form.Carries (h.bps + sideBit h.chanAssign c - k.wasted) k.xs ∧
    ∀ x ∈ k.xs, fitsS x (h.bps + sideBit h.chanAssign c - k.wasted)

/-- A decoder that has a StreamInfo which agrees with the header, at a byte boundary. -/
abbrev ReadyFor (d : State) (si : StreamInfo) (h : FrameHead) : Prop :=
  d.faulted = false ∧ d.mode = .decode ∧ d.brPos % 8 = 0 ∧ d.siValid = true ∧ d.si = some si ∧ d.smp.length = 8 ∧
    h.Writable ∧ channelsOf h.chanAssign = si.channels ∧ h.bps = si.bps ∧ h.sampleRate = si.sampleRate ∧
    h.blocksize ≤ si.maxBlocksize

end Sys2Proof.Machine
end

