-- ==== Sys2Proof/Certificates/Slice0/Obligations.lean ====
section
/-! DEFINITION. What is claimed of the model, for the provers: statements of the spec's rules over all states and operands.
Conclusions of the form `Answers o t r` say that the operation completes, what it leaves (every field not named is as before)
and what it answers; `Raises o s side e` that it changes nothing but what recording `e` changes; `Starves o s` what it does for
want of input (`Safety.lean`). Outcomes are seen in `reply` (log 2). Every `Raises` carries the byte index of R372 under the model's
reading of its sides (log 14); of neither side (`.none i`), a free value of the command and the state (log 7). Where a statement has a unit operation of the host
raise `EndOfStream`, `SyncError`, `StructuralError` or `Unsupported` in every mode, that 47_encoder.md R348 does not speak of it in mode
Encode is the model's reading (log 38), and so is that the operations which R21 does not name run in every mode (log 15). -/

open Sys2Proof Sys2Proof.Machine

/-! ### Reset, encoding, the command port -/

/-- R60, R420, R421: every register after power-on, and `STREAM_RESET`: the same values, in every state, with the mode of its
operand; mode 3 and above are refused and reset nothing. The command port is the model's own (log 1, 2) and is not reset; the position in
the report of that refusal is a free value (log 7). -/
def Obligations.PowerOnAndStreamReset : Prop :=
  (let s := State.reset
   s.mode = .idle ∧ s.dstate = .init ∧ s.estate = .idle ∧ s.status = 0#16 ∧ s.verdict = .none ∧ s.fatalCode = 0 ∧
   s.fatalSub = 0 ∧ s.input = [] ∧ s.inEof = false ∧ s.brPos = 0 ∧ s.out = [] ∧ s.outRd = 0 ∧ s.crc8 = 0#8 ∧
   s.crc16 = 0#16 ∧ s.md5 = ⟨0x67452301#32, 0xEFCDAB89#32, 0x98BADCFE#32, 0x10325476#32, 0, [], false, none⟩ ∧
   s.si = none ∧ s.siValid = false ∧ s.mb = none ∧ s.mbCount = 0 ∧
   s.fh = ⟨none, none, none, none, none, none, none, none, none, none, none, none, none, none, false⟩ ∧
   s.sf = ⟨none, none, none, none, none⟩ ∧ s.qlp = [] ∧ s.qlpPrec = none ∧ s.qlpShift = none ∧ s.rc = ⟨none, none, []⟩ ∧
   s.res = [] ∧ s.smp = [[], [], [], [], [], [], [], []] ∧ s.framesOk = 0 ∧ s.samplesOk = 0 ∧ s.skipStart = 0 ∧
   s.firstFramePos = 0 ∧ s.resyncs = 0 ∧ s.pcmOut = [] ∧ s.mdOut = [] ∧ s.report = [] ∧ s.pcmIn = [] ∧ s.siOut = [] ∧
   s.cfg = none ∧ s.encFrameNo = 0 ∧ s.encSamples = 0 ∧ s.encMinFs = 2 ^ 24 - 1 ∧ s.encMaxFs = 0 ∧ s.seek = []) ∧
  (∀ (s : State) (a : Nat) (m : Mode), (a = 0 ∧ m = .idle) ∨ (a = 1 ∧ m = .decode) ∨ (a = 2 ∧ m = .encode) →
    Answers (exec (.streamReset a) s)
      { State.reset with mode := m, cmdq := s.cmdq, payload := s.payload } .none) ∧
  (∀ (s : State) (a : Nat), 3 ≤ a → Raises (exec (.streamReset a) s) s (.none (.streamReset a)) (.logic .badOperand))

/-- Words written out from R100, R104, R110, R121, R130 and R135 decode to the operation or structure they stand for. That wire
structures are instructions, and which of two structures of one width a bare word is read as (0xFFF8C918 as a frame header, not
as a metadata block header), are the model's choices (log 4, 27). -/
def Obligations.WrittenOutWordsDecode : Prop :=
  decodeTableWord 80 0x00010000000000000000 = some (.streamReset 1) ∧
  decodeTableWord 80 0x01000000000000000004 = some (.inPush 4) ∧
  decodeTableWord 80 0x10030000000000000000 = some (.brReadU 3) ∧
  decodeTableWord 80 0x21050000000000000003 = some (.bwWriteS 5 3) ∧
  decodeTableWord 80 0x2105FFFFFFFFFFFFFFFD = some (.bwWriteS 5 (-3)) ∧
  decodeTableWord 80 0x32000000000000000000 = some .crc16Reset ∧
  decodeTableWord 80 0x49010000000004000028 = some (.mbhWrite 1 0x4000028) ∧
  decodeTableWord 80 0x57020000000000000000 = some (.fixedResidual 2) ∧
  decodeTableWord 80 0x620E0000000300000008 = some (.riceParamSelect 14 3 8) ∧
  decodeTableWord 80 0x70000000000000000000 = some .decStep ∧
  decodeTableWord 80 0x7B0A0000000000000000 = some (.chDecorrFwd 10) ∧
  decodeTableWord 80 0x7F00000000000000C350 = some (.seekLookup 50000) ∧
  decodeTableWord 80 0x10030000000000000001 = none ∧
  decodeTableWord 80 0x7D000000000000000000 = none ∧
  decodeTableWord 32 0x80000022 = some (.wireMbHeader 1 0 34) ∧
  decodeTableWord 32 0xFFF8C918 = some (.wireFrameHeader 0 0 12 9 1 4) ∧
  decodeTableWord 8 0x14 = some (.wireSfFixed 2 0) ∧
  decodeTableWord 8 0x42 = some (.wireSfLpc 1 0) ∧
  decodeTableWord 6 0b010011 = some (.wireResHeader 1 3) ∧
  decodeTableWord 16 0x95F4 = some (.wireFrameFooter 0x95F4)

/-- One step: the oldest operation issued is taken from the port with its payload and runs; a command that is no operation
raises `LogicError(BadOperand)` (R100; the position in its report is a free value, log 7); with nothing issued the block is idle
(R422). The port is the model's (log 1). R100 speaks of opcodes and unused fields: that a word too wide for its format, and one of a
wire structure without its fixed bits, is refused in the same way is the model's choice (log 4, 17). -/
def Obligations.StepRunsTheIssuedOperation : Prop :=
  ∀ (s : State) (c : Code) (p : Payload) (rest : List Issue),
    (∀ i, s.cmdq = ⟨c, p⟩ :: rest → decode c = .ok i → step s = exec i { s with cmdq := rest, payload := p }) ∧
    (∀ why, s.faulted = false → s.cmdq = ⟨c, p⟩ :: rest → decode c = .error why →
      Raises (step s) { s with cmdq := rest, payload := p } (.neutral c) (.logic .badOperand)) ∧
    (s.cmdq = [] → step s = .next s)

/-- R100, R104, R106, R107, R110, R121, R130, R135: no bit of an encoding is dropped, for every instruction with every operand
its fields can carry. The wire structures as instructions are the model's choice (log 4). -/
def Obligations.DecodeOfEncodeIsTheInstruction : Prop :=
  ∀ i : Instr, i.WellFormed → decode (encode i) = .ok i

/-- Each word has one meaning: what is decoded is well formed and encodes to the word it came from; so no two words decode to
one instruction. A word is its format with its bits, and wire structures are instructions: the model's choices (log 4, 27; a bare
32-bit word stands for two structures). -/
def Obligations.EncodeOfDecodeIsTheWord : Prop :=
  ∀ (c : Code) (i : Instr), decode c = .ok i → i.WellFormed ∧ encode i = c

/-! ### Host ports -/

/-- R80; and R81: `IN_EOF` sets the flag and nothing else. A push that would take the input to 2^61 bytes is outside the spec
(R42) and outside this statement. That `IN_PUSH` counts as read-side is the model's reading of R372 (log 14). -/
def Obligations.PushAndEndOfInput : Prop :=
  ∀ (s : State) (count : Nat) (bs : List Byte), s.faulted = false →
    (s.inEof = false → Carries s bs → bs.length = count → s.input.length + count < 2 ^ 61 →
      Answers (exec (.inPush count) s) { s with input := s.input ++ bs } .none) ∧
    (s.inEof = true → Raises (exec (.inPush count) s) s .read (.logic .badOperand)) ∧
    Answers (exec .inEof s) { s with inEof := true } .none

/-- R82: the bytes pulled are the completed bytes of `W` not pulled before, in every state; the pending partial byte stays. -/
def Obligations.PullTakesTheCompletedBytes : Prop :=
  ∀ s : State, ∃ bs : List Byte,
    Answers (exec .outPull s) { s with outRd := s.out.length / 8 } (.bytes bs) ∧
    bytesBits bs = (s.out.take (8 * (s.out.length / 8))).drop (8 * s.outRd)

/-- R83: the four pops in every state, and `PCM_PUSH` with what it refuses, outside mode Encode and state EReady whatever
configuration there is or is none; that it counts as write-side is the model's reading of
R372 (log 14). -/
def Obligations.HostQueues : Prop :=
  (∀ s : State,
    Answers (exec .pcmPop s) { s with pcmOut := s.pcmOut.tail } (.block s.pcmOut.head?) ∧
    Answers (exec .mdPop s) { s with mdOut := s.mdOut.tail } (.metadata s.mdOut.head?) ∧
    Answers (exec .reportPop s) { s with report := s.report.tail } (.report s.report.head?) ∧
    Answers (exec .siPop s) { s with siOut := s.siOut.tail } (.siBody s.siOut.head?)) ∧
  (∀ (s : State) (n : Nat), s.faulted = false → s.mode ≠ .encode ∨ s.estate ≠ .ready →
    Raises (exec (.pcmPush n) s) s .write (.logic .badMode)) ∧
  (∀ (s : State) (cfg : EncConfig) (n : Nat), s.faulted = false → s.cfg = some cfg →
    (∀ rows, s.mode = .encode → s.estate = .ready → 1 ≤ n → n ≤ 65535 → s.payload = .samples rows →
      rows.length = cfg.channels → (∀ row ∈ rows, row.length = n) →
      Answers (exec (.pcmPush n) s) { s with pcmIn := s.pcmIn ++ [⟨n, rows⟩] } .none) ∧
    (s.mode = .encode → s.estate = .ready →
      n = 0 ∨ 65535 < n ∨
        (∀ rows, s.payload = .samples rows → rows.length ≠ cfg.channels ∨ ∃ row ∈ rows, row.length ≠ n) →
      Raises (exec (.pcmPush n) s) s .write (.logic .badOperand)))

/-! ### The bit reader -/

/-- R161, R162, R163: `n` bits at the cursor, most significant first, unsigned or two's complement; any other width, and
starvation. -/
def Obligations.ReadUnsignedAndSigned : Prop :=
  ∀ (s : State) (n : Nat), s.faulted = false →
    (∀ v, 1 ≤ n → n ≤ 32 → v < 2 ^ n → AtCursor s (natBits n v) →
      Answers (exec (.brReadU n) s) { s with brPos := s.brPos + n } (.nat v)) ∧
    (∀ v : Int, 1 ≤ n → n ≤ 32 → -(2 ^ (n - 1)) ≤ v → v < 2 ^ (n - 1) → AtCursor s (natBits n (tc n v)) →
      Answers (exec (.brReadS n) s) { s with brPos := s.brPos + n } (.int v)) ∧
    (¬ (1 ≤ n ∧ n ≤ 32) →
      Raises (exec (.brReadU n) s) s .read (.logic .widthOutOfRange) ∧
      Raises (exec (.brReadS n) s) s .read (.logic .widthOutOfRange)) ∧
    (1 ≤ n → n ≤ 32 → Lacks s n → Starves (exec (.brReadU n) s) s ∧ Starves (exec (.brReadS n) s) s)

/-- R164, R165: a unary number of any size, and a Rice code word of any integer (30_encoding.md R132); a parameter above 30;
no stop bit, or a remainder cut off. -/
def Obligations.ReadUnaryAndRice : Prop :=
  ∀ (s : State) (k : Nat), s.faulted = false →
    (∀ q, AtCursor s (List.replicate q false ++ [true]) →
      Answers (exec .brReadUnary s) { s with brPos := s.brPos + q + 1 } (.nat q)) ∧
    (∀ r : Int, k ≤ 30 → AtCursor s (List.replicate (zz r / 2 ^ k) false ++ [true] ++ natBits k (zz r)) →
      Answers (exec (.brReadRice k) s) { s with brPos := s.brPos + zz r / 2 ^ k + 1 + k } (.int r)) ∧
    (30 < k → Raises (exec (.brReadRice k) s) s .read (.logic .widthOutOfRange)) ∧
    ((∀ b ∈ bitsFrom s.input s.brPos, b = false) → Starves (exec .brReadUnary s) s) ∧
    (∀ q rest, k ≤ 30 → (∀ b ∈ bitsFrom s.input s.brPos, b = false) ∨
        (bitsFrom s.input s.brPos = List.replicate q false ++ true :: rest ∧ rest.length < k) →
      Starves (exec (.brReadRice k) s) s)

/-- R166, R167: to the byte boundary, at most seven bits; whole bytes at an aligned cursor, all or nothing. A count of 2^24 or
more is out of range (R374); that this is found ahead of an unaligned cursor is log 16. -/
def Obligations.AlignAndReadBytes : Prop :=
  ∀ (s : State) (count : Nat), s.faulted = false → s.CursorsInside →
    (∃ skip, skip < 8 ∧ (s.brPos + skip) % 8 = 0 ∧
      Answers (exec .brAlign s) { s with brPos := s.brPos + skip } (.nat skip)) ∧
    (∀ bs, count < 2 ^ 24 → s.brPos % 8 = 0 → bs.length = count → AtCursor s (bytesBits bs) →
      Answers (exec (.brReadBytes count) s) { s with brPos := s.brPos + 8 * count } (.bytes bs)) ∧
    (count < 2 ^ 24 → s.brPos % 8 ≠ 0 → Raises (exec (.brReadBytes count) s) s .read (.logic .notAligned)) ∧
    (count < 2 ^ 24 → s.brPos % 8 = 0 → Lacks s (8 * count) → Starves (exec (.brReadBytes count) s) s) ∧
    (2 ^ 24 ≤ count → Raises (exec (.brReadBytes count) s) s .read (.logic .widthOutOfRange))

/-- R168 with the forms of 30_encoding.md R116: one byte below 0x80; a first byte with `len` leading ones and its `7 - len`
value bits `hi`, then `len - 1` bytes `10xxxxxx`, the over-long forms too; each malformed form, consuming nothing; a limit
other than 6 or 7, which is found ahead of an unaligned cursor (the model's order, log 16). -/
def Obligations.ReadCodedNumber : Prop :=
  ∀ (s : State) (limit : Nat), s.faulted = false →
    (∀ b0 : Byte, limit = 6 ∨ limit = 7 → s.brPos % 8 = 0 → b0.toNat < 0x80 → AtCursor s (bytesBits [b0]) →
      Answers (exec (.brReadCoded limit) s) { s with brPos := s.brPos + 8 } (.nat b0.toNat)) ∧
    (∀ (len hi : Nat) (b0 : Byte) (tail : List Byte), limit = 6 ∨ limit = 7 → s.brPos % 8 = 0 → 2 ≤ len → len ≤ limit →
      hi < 2 ^ (7 - len) → b0.toNat = 256 - 2 ^ (8 - len) + hi → tail.length = len - 1 →
      (∀ x ∈ tail, x.toNat / 64 = 2) → AtCursor s (bytesBits (b0 :: tail)) →
      Answers (exec (.brReadCoded limit) s) { s with brPos := s.brPos + 8 * len }
        (.nat (tail.foldl (fun v x => v * 64 + x.toNat % 64) hi))) ∧
    (∀ b0 : Byte, limit = 6 ∨ limit = 7 → s.brPos % 8 = 0 →
      (0x80 ≤ b0.toNat ∧ b0.toNat < 0xC0) ∨ b0.toNat = 0xFF ∨ (b0.toNat = 0xFE ∧ limit = 6) →
      AtCursor s (bytesBits [b0]) → Raises (exec (.brReadCoded limit) s) s .read (.sync .badCodedNumber)) ∧
    (∀ (len hi : Nat) (b0 x : Byte) (tail : List Byte), limit = 6 ∨ limit = 7 → s.brPos % 8 = 0 → 2 ≤ len → len ≤ limit →
      hi < 2 ^ (7 - len) → b0.toNat = 256 - 2 ^ (8 - len) + hi → tail.length + 1 < len →
      (∀ y ∈ tail, y.toNat / 64 = 2) → x.toNat / 64 ≠ 2 → AtCursor s (bytesBits (b0 :: tail ++ [x])) →
      Raises (exec (.brReadCoded limit) s) s .read (.sync .badCodedNumber)) ∧
    (∀ (len hi : Nat) (b0 : Byte) (tail : List Byte), limit = 6 ∨ limit = 7 → s.brPos % 8 = 0 → 2 ≤ len → len ≤ limit →
      hi < 2 ^ (7 - len) → b0.toNat = 256 - 2 ^ (8 - len) + hi → tail.length + 1 < len →
      (∀ y ∈ tail, y.toNat / 64 = 2) → bitsFrom s.input s.brPos = bytesBits (b0 :: tail) →
      Starves (exec (.brReadCoded limit) s) s) ∧
    (limit = 6 ∨ limit = 7 → s.brPos % 8 = 0 → Lacks s 8 → Starves (exec (.brReadCoded limit) s) s) ∧
    (limit = 6 ∨ limit = 7 → s.brPos % 8 ≠ 0 → Raises (exec (.brReadCoded limit) s) s .read (.logic .notAligned)) ∧
    (limit ≠ 6 → limit ≠ 7 → Raises (exec (.brReadCoded limit) s) s .read (.logic .widthOutOfRange))

/-! ### The bit writer -/

/-- R170 to R174: the bits appended, and the refusals, which append nothing. -/
def Obligations.WriteFields : Prop :=
  ∀ (s : State) (n k q v : Nat) (x r : Int), s.faulted = false →
    (1 ≤ n → n ≤ 32 → v < 2 ^ n →
      Answers (exec (.bwWriteU n v) s) { s with out := s.out ++ natBits n v } .none) ∧
    (1 ≤ n → n ≤ 32 → 2 ^ n ≤ v → Raises (exec (.bwWriteU n v) s) s .write (.logic .valueOutOfRange)) ∧
    (1 ≤ n → n ≤ 32 → -(2 ^ (n - 1)) ≤ x → x < 2 ^ (n - 1) →
      Answers (exec (.bwWriteS n x) s) { s with out := s.out ++ natBits n (x % 2 ^ n).toNat } .none) ∧
    (1 ≤ n → n ≤ 32 → ¬ (-(2 ^ (n - 1)) ≤ x ∧ x < 2 ^ (n - 1)) →
      Raises (exec (.bwWriteS n x) s) s .write (.logic .valueOutOfRange)) ∧
    (¬ (1 ≤ n ∧ n ≤ 32) →
      Raises (exec (.bwWriteU n v) s) s .write (.logic .widthOutOfRange) ∧
      Raises (exec (.bwWriteS n x) s) s .write (.logic .widthOutOfRange)) ∧
    (q < 2 ^ 32 →
      Answers (exec (.bwWriteUnary q) s) { s with out := s.out ++ (List.replicate q false ++ [true]) } .none) ∧
    (2 ^ 32 ≤ q → Raises (exec (.bwWriteUnary q) s) s .write (.logic .valueOutOfRange)) ∧
    (k ≤ 30 → -(2 ^ 31) < r → r < 2 ^ 31 →
      Answers (exec (.bwWriteRice k r) s)
        { s with out := s.out ++ (List.replicate (zz r / 2 ^ k) false ++ true :: natBits k (zz r)) } .none) ∧
    (k ≤ 30 → ¬ (-(2 ^ 31) < r ∧ r < 2 ^ 31) → Raises (exec (.bwWriteRice k r) s) s .write (.logic .valueOutOfRange)) ∧
    (30 < k → Raises (exec (.bwWriteRice k r) s) s .write (.logic .widthOutOfRange))

/-- R175 to R177: whole bytes, padding, the coded number in its shortest form (`codedBytes`, 30_encoding.md R116). That an unaligned
`BW_WRITE_BYTES` is `NotAligned` whatever its payload is the model's order, and a payload of another kind as one of another length
its reading (log 16). -/
def Obligations.WriteBytesPaddingAndCoded : Prop :=
  ∀ (s : State) (count v : Nat) (bs : List Byte), s.faulted = false →
    (s.out.length % 8 = 0 → Carries s bs → bs.length = count →
      Answers (exec (.bwWriteBytes count) s) { s with out := s.out ++ bytesBits bs } .none) ∧
    (s.out.length % 8 = 0 → (∀ xs, Carries s xs → xs.length ≠ count) →
      Raises (exec (.bwWriteBytes count) s) s .write (.logic .badOperand)) ∧
    (s.out.length % 8 ≠ 0 →
      Raises (exec (.bwWriteBytes count) s) s .write (.logic .notAligned) ∧
      Raises (exec (.bwWriteCoded v) s) s .write (.logic .notAligned)) ∧
    (∃ pad, pad < 8 ∧ (s.out.length + pad) % 8 = 0 ∧
      Answers (exec .bwAlign s) { s with out := s.out ++ List.replicate pad false } (.nat pad)) ∧
    (s.out.length % 8 = 0 → v < 2 ^ 36 →
      Answers (exec (.bwWriteCoded v) s) { s with out := s.out ++ bytesBits (codedBytes v) } .none) ∧
    (s.out.length % 8 = 0 → 2 ^ 36 ≤ v → Raises (exec (.bwWriteCoded v) s) s .write (.logic .valueOutOfRange))

/-- R178, an inference the spec marks as its own ("derived: from rules R162 to R177"): fields written one after another, then
`BW_ALIGN`; the bytes given to a fresh reader; the same fields read in the same order: the values written come back, and the
read cursor stands where the writer stood before the padding. And the coded number: what `BW_WRITE_CODED v` appends,
`BR_READ_CODED 7` reads as `v`, and with limit 6 too below 2^31. -/
def Obligations.ReadsReturnWhatWasWritten : Prop :=
  (∀ (fields : List BitField) (w : State), w.faulted = false → w.out = [] → (∀ f ∈ fields, f.Writable) →
    ∃ (w1 w2 : State) (pad : Nat),
      answersOf (fields.map BitField.writeOp) w = some (fields.map fun _ => .none, w1) ∧
      answerOf .bwAlign w1 = some (.nat pad, w2) ∧
      ∀ r : State, r.faulted = false → r.brPos = 0 → r.input = w2.outBytes 0 →
        ∃ r1 : State, answersOf (fields.map BitField.readOp) r = some (fields.map BitField.value, r1) ∧
          r1.brPos = w1.out.length) ∧
  (∀ (s : State) (v limit : Nat), s.faulted = false → s.brPos % 8 = 0 → AtCursor s (bytesBits (codedBytes v)) →
    (limit = 7 ∧ v < 2 ^ 36) ∨ (limit = 6 ∧ v < 2 ^ 31) →
    Answers (exec (.brReadCoded limit) s) { s with brPos := s.brPos + 8 * (codedBytes v).length } (.nat v))

/-! ### Checksums and the content hash -/

/-- R192, R193, R195, R196 over the step functions of R191 and R194, with the check values those rules give. A payload of another
kind is refused as one of another length (the model's reading, log 16). -/
def Obligations.CrcOperations : Prop :=
  (∀ (s : State) (count : Nat) (bs : List Byte), s.faulted = false →
    Answers (exec .crc8Reset s) { s with crc8 := 0x00#8 } .none ∧
    Answers (exec .crc16Reset s) { s with crc16 := 0x0000#16 } .none ∧
    (Carries s bs → bs.length = count →
      Answers (exec (.crc8Update count) s) { s with crc8 := bs.foldl crc8Step s.crc8 }
        (.nat (bs.foldl crc8Step s.crc8).toNat) ∧
      Answers (exec (.crc16Update count) s) { s with crc16 := bs.foldl crc16Step s.crc16 }
        (.nat (bs.foldl crc16Step s.crc16).toNat)) ∧
    ((∀ xs, Carries s xs → xs.length ≠ count) →
      Raises (exec (.crc8Update count) s) s (.none (.crc8Update count)) (.logic .badOperand) ∧
      Raises (exec (.crc16Update count) s) s (.none (.crc16Update count)) (.logic .badOperand))) ∧
  [0x01#8].foldl crc8Step 0x00#8 = 0x07#8 ∧ [0xFF#8].foldl crc8Step 0x00#8 = 0xF3#8 ∧
  [0x01#8].foldl crc16Step 0x0000#16 = 0x8005#16 ∧ [0xFF#8, 0xF8#8].foldl crc16Step 0x0000#16 = 0x001C#16

/-- R198, an inference the spec marks as its own ("derived: from rules R191, R194 and R197"): the remainder of bytes followed
by their own CRC is zero. -/
def Obligations.CrcOfGoodFrameIsZero : Prop :=
  (∀ bs : List Byte, crc8Of (bs ++ [crc8Of bs]) = 0#8) ∧
  (∀ bs : List Byte, crc16Of (bs ++ [(crc16Of bs).extractLsb' 8 8, (crc16Of bs).extractLsb' 0 8]) = 0#16)

/-- R199's inference ("derived: from rules R191 and R194"): a single flipped bit changes both CRCs, at any place in any number
of bytes. -/
def Obligations.CrcDetectsEverySingleBit : Prop :=
  ∀ (bs : List Byte) (k : Nat) (j : Fin 8) (x : Byte), bs[k]? = some x →
    crc8Of (bs.set k (x ^^^ (1#8 <<< j.val))) ≠ crc8Of bs ∧ crc16Of (bs.set k (x ^^^ (1#8 <<< j.val))) ≠ crc16Of bs

/-- R203, R204, R207: reset, bytes absorbed in order, padding and the 16 bytes of the digest; a second `MD5_FINAL` gives the
same digest; no update after it, nor with a payload of another length or kind (the kind: the model's reading, log 16). -/
def Obligations.Md5Operations : Prop :=
  ∀ (s : State) (count : Nat) (bs : List Byte), s.faulted = false →
    Answers (exec .md5Reset s)
      { s with md5 := ⟨0x67452301#32, 0xEFCDAB89#32, 0x98BADCFE#32, 0x10325476#32, 0, [], false, none⟩ } .none ∧
    (s.md5.done = false → Carries s bs → bs.length = count →
      Answers (exec (.md5Update count) s) { s with md5 := bs.foldl md5Byte s.md5 } .none) ∧
    (s.md5.done = true ∨ (∀ xs, Carries s xs → xs.length ≠ count) →
      Raises (exec (.md5Update count) s) s (.none (.md5Update count)) (.logic .badOperand)) ∧
    (∀ e, s.md5.done = false → e = (md5Padding s.md5.len).foldl md5Byte s.md5 →
      Answers (exec .md5Final s) { s with md5 := { e with done := true, digest := some (md5Digest e) } }
        (.bytes (leBytes 4 e.a.toNat ++ leBytes 4 e.b.toNat ++ leBytes 4 e.c.toNat ++ leBytes 4 e.d.toNat))) ∧
    (∀ d, s.md5.done = true → s.md5.digest = some d → Answers (exec .md5Final s) s (.bytes (beBytes 16 d.toNat)))

/-- R204, R207: any split of a message into calls gives the same engine; `MD5_BUF` holds the bytes since the last whole block;
the padding fills the last block exactly, so that the buffer is then empty. -/
def Obligations.Md5AbsorbsInAnySplit : Prop :=
  ∀ (e : Md5Regs) (xs ys : List Byte), e.buf.length = e.len % 64 →
    md5Absorb e (xs ++ ys) = md5Absorb (md5Absorb e xs) ys ∧
    (md5Absorb e xs).len = e.len + xs.length ∧ (md5Absorb e xs).buf.length = (e.len + xs.length) % 64 ∧
    (md5Finish e).buf = [] ∧
    (∀ z, z < (md5Padding e.len).length - 9 → (md5Padding e.len)[z + 1]? = some 0#8) ∧
    (md5Padding e.len).length ≤ 72 ∧ (e.len + (md5Padding e.len).length) % 64 = 0

/-- R205, R206: the block in `SMP` is absorbed in the order time, channel, byte, least significant byte first, each sample in
`ceil(bps / 8)` bytes of two's complement; the modes, an unvalidated header, a sample too wide for the depth. R206 lists these
three refusals without an order: that the mode comes before the header, and the header before the samples, is the model's order
(log 32). -/
def Obligations.HashOfTheBlock : Prop :=
  ∀ (s : State) (ch n bps : Nat), s.faulted = false → s.fh.channels = some ch → s.fh.blocksize = some n →
    (s.mode = .decode ∧ ∃ si, s.si = some si ∧ si.bps = bps) ∨ (s.mode = .encode ∧ ∃ c, s.cfg = some c ∧ c.bps = bps) →
    ch ≤ s.smp.length → (∀ c, c < ch → n ≤ (s.row c).length) →
    (s.fh.valid = true → s.md5.done = false →
      (∀ c i, c < ch → i < n → fitsS (sampleAt (s.row c) i) bps) →
      ∃ bs : List Byte,
        Answers (exec .md5UpdatePcm s) { s with md5 := bs.foldl md5Byte s.md5 } .none ∧
        bs.length = n * ch * ((bps + 7) / 8) ∧
        ∀ i c j, i < n → c < ch → j < (bps + 7) / 8 →
          bs[(i * ch + c) * ((bps + 7) / 8) + j]? =
            some (BitVec.ofInt 8 (sampleAt (s.row c) i / 256 ^ j))) ∧
    (s.fh.valid = false → Raises (exec .md5UpdatePcm s) s (.none .md5UpdatePcm) (.logic .unwrittenState)) ∧
    (s.fh.valid = true → (∃ c i, c < ch ∧ i < n ∧ ¬ fitsS (sampleAt (s.row c) i) bps) →
      Raises (exec .md5UpdatePcm s) s (.none .md5UpdatePcm) (.logic .valueOutOfRange)) ∧
    (∀ t, t = { s with mode := .idle } → Raises (exec .md5UpdatePcm t) t (.none .md5UpdatePcm) (.logic .badMode))

/-! ### Marker, metadata, frame header -/

/-- R221, R222 (with R21 for the mode): the marker, and a metadata block header with any values. That R21 asks the mode of these two,
and that the mode is found ahead of an unaligned cursor, is the model's reading (log 15, 16). -/
def Obligations.MarkerAndBlockHeader : Prop :=
  ∀ s : State, s.faulted = false →
    (s.mode ≠ .encode → s.brPos % 8 = 0 →
      (AtCursor s (bytesBits [0x66#8, 0x4C#8, 0x61#8, 0x43#8]) →
        Answers (exec .mkRead s) { s with brPos := s.brPos + 32 } .none) ∧
      (∀ bs : List Byte, bs.length = 4 → bs ≠ [0x66#8, 0x4C#8, 0x61#8, 0x43#8] → AtCursor s (bytesBits bs) →
        exec .mkRead s = .next (s.takeException { s with brPos := s.brPos + 32 } .read (.structural .badMarker))) ∧
      (∀ last type length, last < 2 → type < 2 ^ 7 → length < 2 ^ 24 → s.mbCount + 1 < 2 ^ 32 →
        AtCursor s (natBits 1 last ++ natBits 7 type ++ natBits 24 length) →
        Answers (exec .mbhRead s)
          { s with brPos := s.brPos + 32, mb := some ⟨last = 1, type, length⟩, mbCount := s.mbCount + 1 } .none) ∧
      (Lacks s 32 → Starves (exec .mkRead s) s ∧ Starves (exec .mbhRead s) s)) ∧
    (s.mode ≠ .encode → s.brPos % 8 ≠ 0 →
      Raises (exec .mkRead s) s .read (.logic .notAligned) ∧ Raises (exec .mbhRead s) s .read (.logic .notAligned)) ∧
    (s.mode = .encode →
      Raises (exec .mkRead s) s .read (.logic .badMode) ∧ Raises (exec .mbhRead s) s .read (.logic .badMode))

/-- R223, R224: every StreamInfo body reads without error into the registers, but a second one is refused once the first is
valid; and the five conditions of validity. That `SI_READ` looks at the alignment first is the model's reading (log 29), and so is that
R224's "if `SI_READ` has not run" means unwritten registers or mode Encode, whose registers `ENC_INIT` wrote (log 36); a second
`SI_READ` ahead of `SI_VALIDATE` reads anew, the model's choice between R223 and R31 with R434 (log 39). -/
def Obligations.StreamInfoReadAndValidated : Prop :=
  ∀ (s : State) (si : StreamInfo), s.faulted = false →
    (s.mode ≠ .encode → s.brPos % 8 = 0 → s.siValid = false → si.InWidth → AtCursor s si.bits →
      Answers (exec .siRead s) { s with brPos := s.brPos + 272, si := some si } .none) ∧
    (s.mode ≠ .encode → s.brPos % 8 = 0 → s.siValid = true →
      Raises (exec .siRead s) s .read (.structural .duplicateStreamInfo)) ∧
    (s.mode ≠ .encode → s.brPos % 8 = 0 → s.siValid = false → Lacks s 272 → Starves (exec .siRead s) s) ∧
    (s.mode ≠ .encode → s.brPos % 8 ≠ 0 → Raises (exec .siRead s) s .read (.logic .notAligned)) ∧
    (s.mode ≠ .encode → s.si = some si →
      (si.sampleRate = 0 ∨ si.bps < 4 ∨ si.minBlocksize = 0 ∨ si.maxBlocksize < si.minBlocksize ∨
          (si.maxFramesize ≠ 0 ∧ si.maxFramesize < si.minFramesize) →
        Raises (exec .siValidate s) s .read (.structural .inconsistentStreamInfo)) ∧
      (¬ (si.sampleRate = 0 ∨ si.bps < 4 ∨ si.minBlocksize = 0 ∨ si.maxBlocksize < si.minBlocksize ∨
          (si.maxFramesize ≠ 0 ∧ si.maxFramesize < si.minFramesize)) →
        Answers (exec .siValidate s) { s with siValid := true } .none)) ∧
    (s.si = none ∨ s.mode = .encode → Raises (exec .siValidate s) s .read (.logic .unwrittenState))

/-- R225, R226: a block body is surfaced uninterpreted, with the cursors inside their streams; a metadata sequence is judged by
its first fault in the rule's order. That a missing header is found ahead of an unaligned cursor (R226 lists both, R77 has the
alignment) is the model's order (log 32). -/
def Obligations.MetadataBodyAndSequence : Prop :=
  ∀ s : State, s.faulted = false →
    (∀ (h : MbHeader) (body : List Byte), s.CursorsInside → s.mode ≠ .encode → s.mb = some h → s.brPos % 8 = 0 →
      (body.length = h.length → AtCursor s (bytesBits body) →
        Answers (exec .mbReadBody s)
          { s with brPos := s.brPos + 8 * h.length, mdOut := s.mdOut ++ [⟨h.type, h.last, h.length, body⟩] } .none) ∧
      (Lacks s (8 * h.length) → Starves (exec .mbReadBody s) s)) ∧
    (∀ h : MbHeader, s.mode ≠ .encode → s.mb = some h → s.brPos % 8 ≠ 0 →
      Raises (exec .mbReadBody s) s .read (.logic .notAligned)) ∧
    (s.mode ≠ .encode → s.mb = none → Raises (exec .mbReadBody s) s .read (.logic .unwrittenState)) ∧
    (∀ blocks : List MdEntry, s.payload = .blocks blocks → (∀ b ∈ blocks, b.type < 2 ^ 7 ∧ b.length < 2 ^ 24) →
      let noInfo := ∀ b, blocks.head? = some b → b.type ≠ 0
      let badLength := ∃ b, blocks.head? = some b ∧ b.length ≠ 34
      let second := ∃ b ∈ blocks.tail, b.type = 0
      let lastOk := ∃ front b, blocks = front ++ [b] ∧ b.last = true ∧ ∀ x ∈ front, x.last = false
      (noInfo → Raises (exec (.mdseqCheck blocks.length) s) s .write (.structural .noStreamInfo)) ∧
      (¬ noInfo → badLength → Raises (exec (.mdseqCheck blocks.length) s) s .write (.structural .badStreamInfoLength)) ∧
      (¬ noInfo → ¬ badLength → second →
        Raises (exec (.mdseqCheck blocks.length) s) s .write (.structural .duplicateStreamInfo)) ∧
      (¬ noInfo → ¬ badLength → ¬ second → ¬ lastOk →
        Raises (exec (.mdseqCheck blocks.length) s) s .write (.structural .multipleLast)) ∧
      (¬ noInfo → ¬ badLength → ¬ second → lastOk → Answers (exec (.mdseqCheck blocks.length) s) s .none))

/-- R227, R230, R236, with the codes of R228 and R229: `FH_WRITE` appends the header with its CRC-8; `FH_PARSE` reads it back
into the registers; another byte for the CRC-8 is a `SyncError(HeaderCrc8)`; a place without the sync code consumes one byte;
sample-rate code 15 is refused behind the fixed fields, a malformed number behind its last byte read; input that is cut short
holds or raises; the refusals of the writer. A header that fails is no longer valid, and one that fails before its CRC-8 leaves
`CRC8` at the 0 that R424 gives it at the start (log 31). -/
def Obligations.FrameHeaderReadAsWritten : Prop :=
  ∀ (h : FrameHead) (s : State), s.faulted = false →
    let begun := { s with crc8 := 0x00#8, fh := { s.fh with valid := false } }
    (h.Writable → HeadIs s h → s.out.length % 8 = 0 →
      Answers (exec .fhWrite s)
        { s with
          out := s.out ++ bytesBits h.bytes
          crc8 := crc8Of h.body
          fh := { s.fh with
            start := some (s.out.length / 8)
            crc8 := some (crc8Of h.body)
            bsCode := some (bsCodeFor h.blocksize).code
            srCode := some (srCodeFor h.sampleRate).code
            bpsCode := some (bpsCodeFor h.bps)
            valid := true } } .none) ∧
    (HeadIs s h → s.out.length % 8 ≠ 0 → Raises (exec .fhWrite s) s .write (.logic .notAligned)) ∧
    (HeadIs s h → s.out.length % 8 = 0 →
      h.blocksize = 0 ∨ 65535 < h.blocksize ∨ 10 < h.chanAssign ∨ (h.variable_ = 0 ∧ 2 ^ 31 ≤ h.number) ∨ 2 ^ 36 ≤ h.number →
      Raises (exec .fhWrite s) s .write (.logic .valueOutOfRange)) ∧
    (∀ x : Byte, h.Writable → s.mode ≠ .encode → s.brPos % 8 = 0 → AtCursor s (bytesBits (h.body ++ [x])) →
      ((srCodeFor h.sampleRate).code = 0 → s.siValid = true ∧ ∃ si, s.si = some si ∧ si.sampleRate = h.sampleRate) →
      (x = crc8Of h.body →
        Answers (exec .fhParse s)
          { s with
            brPos := s.brPos + 8 * h.bytes.length
            crc8 := crc8Of h.body
            fh := { s.fh with
              start := some (s.brPos / 8)
              variable_ := some h.variable_
              bsCode := some (bsCodeFor h.blocksize).code
              srCode := some (srCodeFor h.sampleRate).code
              chanAssign := some h.chanAssign
              bpsCode := some (bpsCodeFor h.bps)
              number := some h.number
              blocksize := some h.blocksize
              sampleRate := some h.sampleRate
              crc8 := some x
              reserved := some 0
              valid := false } } .none) ∧
      (x ≠ crc8Of h.body →
        exec .fhParse s = .next (s.takeException
          ({ s with
            brPos := s.brPos + 8 * h.bytes.length
            crc8 := crc8Of h.body
            fh := { s.fh with crc8 := some x, valid := false } }.setFlag .crc8Err) .read (.sync .headerCrc8)))) ∧
    (∀ v, s.mode ≠ .encode → s.brPos % 8 = 0 → v < 2 ^ 14 → v ≠ 0x3FFE → AtCursor s (natBits 14 v) →
      exec .fhParse s = .next (s.takeException { begun with brPos := s.brPos + 8 } .read (.sync .badSync))) ∧
    (s.mode ≠ .encode → s.brPos % 8 ≠ 0 → Raises (exec .fhParse s) s .read (.logic .notAligned)) ∧
    (∀ r v b sr ca d e, s.mode ≠ .encode → s.brPos % 8 = 0 → r < 2 → v < 2 → b < 2 ^ 4 → sr < 2 ^ 4 → ca < 2 ^ 4 → d < 2 ^ 3 →
      e < 2 →
      (AtCursor s (fixedHeadBits r v b 15 ca d e) →
        exec .fhParse s = .next (s.takeException { begun with brPos := s.brPos + 32 } .read (.sync .headerReserved))) ∧
      (∀ b0 : Byte, sr ≠ 15 → (0x80 ≤ b0.toNat ∧ b0.toNat < 0xC0) ∨ b0.toNat = 0xFF ∨ (b0.toNat = 0xFE ∧ v = 0) →
        AtCursor s (fixedHeadBits r v b sr ca d e ++ bytesBits [b0]) →
        exec .fhParse s = .next (s.takeException { begun with brPos := s.brPos + 40 } .read (.sync .badCodedNumber))) ∧
      (∀ b0 x : Byte, sr ≠ 15 → 0xC0 ≤ b0.toNat → b0.toNat < 0xFE → x.toNat / 64 ≠ 2 →
        AtCursor s (fixedHeadBits r v b sr ca d e ++ bytesBits [b0, x]) →
        exec .fhParse s = .next (s.takeException { begun with brPos := s.brPos + 48 } .read (.sync .badCodedNumber))) ∧
      (sr ≠ 15 → bitsFrom s.input s.brPos = fixedHeadBits r v b sr ca d e →
        (s.inEof = false → exec .fhParse s = .next { s with reply := some .hold }) ∧
        (s.inEof = true →
          exec .fhParse s = .next (s.takeException { begun with brPos := s.brPos + 32 } .read .endOfStream)))) ∧
    (s.mode ≠ .encode → s.brPos % 8 = 0 → Lacks s 14 →
      (s.inEof = false → exec .fhParse s = .next { s with reply := some .hold }) ∧
      (s.inEof = true → exec .fhParse s = .next (s.takeException begun .read .endOfStream)))

/-- R231, R232: the checks of a parsed header in the rule's order, the values derived, the number of the first sample. `d` is
the depth that the code stands for (30_encoding.md R115). That the block size is not needed where the code is 0 is the model's reading
(log 20). That a mismatch leaves `FH_CHANNELS` and `FH_BPS` as they were where
the host issued the operation is the default of R15 and R78 (log 21). -/
def Obligations.FrameHeaderValidated : Prop :=
  ∀ (s : State) (si : StreamInfo) (res bsc bs ca bpc d sr var num : Nat), s.faulted = false → s.siValid = true →
    s.si = some si → s.fh.reserved = some res → s.fh.bsCode = some bsc → (bsc ≠ 0 → s.fh.blocksize = some bs) →
    s.fh.chanAssign = some ca → s.fh.bpsCode = some bpc → s.fh.sampleRate = some sr → s.fh.variable_ = some var →
    s.fh.number = some num →
    (bpc, d) ∈ [(0, si.bps), (1, 8), (2, 12), (3, 0), (4, 16), (5, 20), (6, 24), (7, 32)] →
    let reserved := res = 1 ∨ bsc = 0 ∨ bs = 65536
    let ch := if ca ≤ 7 then ca + 1 else 2
    let mismatch := ch ≠ si.channels ∨ d ≠ si.bps ∨ sr ≠ si.sampleRate ∨ si.maxBlocksize < bs
    (reserved → Raises (exec .fhValidate s) s .read (.sync .headerReserved)) ∧
    (¬ reserved → 11 ≤ ca → Raises (exec .fhValidate s) s .read (.unsupported .channelAssignment)) ∧
    (¬ reserved → ca < 11 → bpc = 3 → Raises (exec .fhValidate s) s .read (.unsupported .bitDepthCode)) ∧
    (¬ reserved → ca < 11 → bpc ≠ 3 → mismatch → Raises (exec .fhValidate s) s .read (.sync .headerMismatch)) ∧
    (¬ reserved → ca < 11 → bpc ≠ 3 → ¬ mismatch →
      Answers (exec .fhValidate s)
        { s with fh := { s.fh with
            channels := some ch
            bps := some d
            firstSample := some (if var = 1 then num else num * si.maxBlocksize)
            valid := true } } .none)

/-- R233, R234, R235 with R77: the marker, a metadata block header, the StreamInfo body. That an unaligned cursor is found ahead of
`SI_VALID = 0`, which R235's pseudocode does not check, is the model's reading (log 29). -/
def Obligations.StreamHeadWritten : Prop :=
  ∀ (s : State) (si : StreamInfo) (last type length : Nat), s.faulted = false →
    (s.out.length % 8 = 0 →
      Answers (exec .mkWrite s) { s with out := s.out ++ bytesBits [0x66#8, 0x4C#8, 0x61#8, 0x43#8] } .none ∧
      (last < 2 → type < 2 ^ 7 → length < 2 ^ 24 →
        Answers (exec (.mbhWrite last (type * 2 ^ 24 + length)) s)
          { s with out := s.out ++ natBits 1 last ++ natBits 7 type ++ natBits 24 length } .none) ∧
      (∀ b, 2 ≤ last ∨ 2 ^ 31 ≤ b → Raises (exec (.mbhWrite last b) s) s .write (.logic .valueOutOfRange)) ∧
      (s.siValid = true → s.si = some si → si.InWidth →
        Answers (exec .siWrite s)
          { s with out := s.out ++ natBits 16 si.minBlocksize ++ natBits 16 si.maxBlocksize ++ natBits 24 si.minFramesize ++
              natBits 24 si.maxFramesize ++ natBits 20 si.sampleRate ++ natBits 3 (si.channels - 1) ++
              natBits 5 (si.bps - 1) ++ natBits 36 si.totalSamples ++ natBits 128 si.md5.toNat } .none)) ∧
    (s.out.length % 8 = 0 → s.siValid = false → Raises (exec .siWrite s) s .write (.logic .unwrittenState)) ∧
    (s.out.length % 8 ≠ 0 →
      Raises (exec .mkWrite s) s .write (.logic .notAligned) ∧
      (∀ b, Raises (exec (.mbhWrite last b) s) s .write (.logic .notAligned)) ∧
      Raises (exec .siWrite s) s .write (.logic .notAligned))

/-! ### Subframes and prediction -/

/-- R252, R253: one sample repeated; raw samples; at every effective depth up to the 33 bits of a side channel
(30_encoding.md R140); a body that is not all there takes no effect (R78). -/
def Obligations.ConstantAndVerbatimBodies : Prop :=
  ∀ (s : State) (n c b : Nat), s.faulted = false → s.mode ≠ .encode → s.fh.blocksize = some n → s.sf.ch = some c →
    s.sf.bps = some b → 1 ≤ b → b ≤ 33 →
    (∀ v : Int, fitsS v b → AtCursor s (natBits b (tc b v)) →
      Answers (exec .sfDecConstant s)
        { s with brPos := s.brPos + b, smp := s.smp.modify c fun row => List.replicate n v ++ row.drop n } .none) ∧
    (Lacks s b → Starves (exec .sfDecConstant s) s) ∧
    (1 ≤ n → Lacks s (n * b) → Starves (exec .sfDecVerbatim s) s) ∧
    (∀ xs : List Int, xs.length = n → (∀ x ∈ xs, fitsS x b) → AtCursor s (sampleBits b xs) →
      Answers (exec .sfDecVerbatim s)
        { s with brPos := s.brPos + n * b, smp := s.smp.modify c fun row => xs ++ row.drop n } .none)

/-- R254, R255: whatever warm-up, coefficients, residual and partition table the body holds, the samples come out as the
recurrence gives them (`xs` ranges over all blocks, so its residual over all residuals), the whole body is consumed, and
nothing but the registers named changes. A sample beyond `SF_BPS`, or beyond the 33 bits of R38, stays as it is: that R259's
`RangeError`, which R254 and R255 list, is raised by `SF_DEC` only is the model's choice (log 30). Refused are an order above the
block size, and the invalid precision and shift codes, which take no effect (R78; log 21). -/
def Obligations.FixedAndLpcBodies : Prop :=
  ∀ (s : State) (n c b o : Nat) (xs : List Int) (t : PartTable), s.faulted = false → s.mode ≠ .encode →
    s.fh.blocksize = some n → s.sf.ch = some c → s.sf.bps = some b → s.sf.order = some o → 1 ≤ b → b ≤ 33 → c < s.smp.length →
    (s.sf.type = some .fixed → o ≤ 4 → o ≤ n → xs.length = n → (∀ x ∈ xs.take o, fitsS x b) →
      TableFits n o (residualOf (fixedPredict o) o xs) t →
      AtCursor s (sampleBits b (xs.take o) ++ sectionBits n o (residualOf (fixedPredict o) o xs) t) →
      ∃ u, exec .sfDecFixed s = .next u ∧ u.reply = some (.ok .none) ∧
        u.brPos = s.brPos + o * b + tableSize n o (residualOf (fixedPredict o) o xs) t ∧
        u.smp = (s.smp.modify c fun row => xs ++ row.drop n) ∧ TableIs u t ∧
        u.res.take (n - o) = residualOf (fixedPredict o) o xs ∧
        { u with brPos := s.brPos, smp := s.smp, rc := s.rc, res := s.res, reply := s.reply } = s) ∧
    (∀ (qs : List Int) (prec shift : Nat), s.sf.type = some .lpc → qs.length = o → 1 ≤ o → o ≤ 32 → o ≤ n → xs.length = n →
      1 ≤ prec → prec ≤ 15 → shift ≤ 15 → (∀ q ∈ qs, fitsS q prec) → (∀ x ∈ xs.take o, fitsS x b) →
      TableFits n o (residualOf (lpcPredict qs shift) o xs) t →
      AtCursor s (sampleBits b (xs.take o) ++ natBits 4 (prec - 1) ++ natBits 5 shift ++ sampleBits prec qs ++
        sectionBits n o (residualOf (lpcPredict qs shift) o xs) t) →
      ∃ u, exec .sfDecLpc s = .next u ∧ u.reply = some (.ok .none) ∧
        u.brPos = s.brPos + o * b + 4 + 5 + o * prec + tableSize n o (residualOf (lpcPredict qs shift) o xs) t ∧
        u.smp = (s.smp.modify c fun row => xs ++ row.drop n) ∧ TableIs u t ∧
        u.res.take (n - o) = residualOf (lpcPredict qs shift) o xs ∧
        u.qlp.take o = qs ∧ u.qlpPrec = some prec ∧ u.qlpShift = some shift ∧
        { u with
          brPos := s.brPos, smp := s.smp, rc := s.rc, res := s.res, qlp := s.qlp, qlpPrec := s.qlpPrec
          qlpShift := s.qlpShift, reply := s.reply } = s) ∧
    (n < o → Raises (exec .sfDecFixed s) s .read (.sync .badResidual) ∧
      Raises (exec .sfDecLpc s) s .read (.sync .badResidual)) ∧
    (o ≤ n → (∀ x ∈ xs, fitsS x b) → xs.length = o → AtCursor s (sampleBits b xs ++ natBits 4 15) →
      Raises (exec .sfDecLpc s) s .read (.sync .subframeReserved)) ∧
    (∀ p k, o ≤ n → (∀ x ∈ xs, fitsS x b) → xs.length = o → p < 15 → 16 ≤ k → k < 32 →
      AtCursor s (sampleBits b xs ++ natBits 4 p ++ natBits 5 k) →
      Raises (exec .sfDecLpc s) s .read (.sync .subframeReserved))

/-- R256, R257, R258: the recurrences, sample by sample: each sample from the warm-up's end on is its residual plus the integer
prediction from the samples before it in the same row, the shift rounding toward minus infinity; everything else is as before; a
sample beyond the 33 bits of R38 stays exact (log 30); the refusals. R257 and R258 list BadOperand and UnwrittenState without an
order: that a wrong type or order comes before an unwritten residual, warm-up, coefficient or shift is the model's order (log 32),
and an order outside 1 to 32 or a type other than Lpc as `LPC_RESTORE`'s bad operand its reading of "as rule R257" (log 35). That both run in every mode is its reading of R21 (log 15). -/
def Obligations.RestoreFollowsTheRecurrence : Prop :=
  ∀ (s : State) (n c o : Nat), s.faulted = false → s.fh.blocksize = some n → s.sf.ch = some c → s.sf.order = some o →
    c < s.smp.length →
    (s.sf.type = some .fixed → o ≤ 4 → o ≤ (s.row c).length → n - o ≤ s.res.length →
      ∃ row : List Int, Answers (exec .fixedRestore s) { s with smp := s.smp.set c row } .none ∧
        (∀ i, i < o ∨ n ≤ i → row[i]? = (s.row c)[i]?) ∧
        (∀ i, o ≤ i → i < n → row[i]? = some (sampleAt s.res (i - o) + fixedAt o row i))) ∧
    (∀ shift, s.sf.type = some .lpc → 1 ≤ o → o ≤ 32 → s.qlpShift = some shift → o ≤ s.qlp.length → o ≤ (s.row c).length →
      n - o ≤ s.res.length →
      ∃ row : List Int, Answers (exec .lpcRestore s) { s with smp := s.smp.set c row } .none ∧
        (∀ i, i < o ∨ n ≤ i → row[i]? = (s.row c)[i]?) ∧
        (∀ i, o ≤ i → i < n → row[i]? = some (sampleAt s.res (i - o) + lpcAt s.qlp shift o row i))) ∧
    (∀ ty, s.sf.type = some ty →
      (ty ≠ .fixed ∨ 4 < o → Raises (exec .fixedRestore s) s .read (.logic .badOperand)) ∧
      (ty ≠ .lpc ∨ o = 0 ∨ 32 < o → Raises (exec .lpcRestore s) s .read (.logic .badOperand))) ∧
    (s.sf.type = some .fixed → o ≤ 4 → o < n → (s.row c).length < o ∨ s.res.length < n - o →
      Raises (exec .fixedRestore s) s .read (.logic .unwrittenState)) ∧
    (s.sf.type = some .lpc → 1 ≤ o → o ≤ 32 → o < n →
      s.qlpShift = none ∨ s.qlp.length < o ∨ (s.row c).length < o ∨ s.res.length < n - o →
      Raises (exec .lpcRestore s) s .read (.logic .unwrittenState))

/-- R260, R261: the residuals, entry by entry, of the samples without their wasted low bits; the largest magnitude is the
answer; the refusals. Where the order is the block size there is no residual, and the answer is a free value of the model
(log 34). -/
def Obligations.ResidualIsSampleMinusPrediction : Prop :=
  ∀ (s : State) (n c w : Nat) (xs : List Int), s.faulted = false → s.fh.blocksize = some n → s.sf.ch = some c →
    s.sf.wasted = some w → n ≤ (s.row c).length → xs = ((s.row c).take n).map (· / 2 ^ w) →
    (∀ o, o ≤ 4 → o ≤ n →
      ∃ (res : List Int) (m : Nat), res.length = n - o ∧ (o < n → IsLargest m res) ∧
        (∀ i, o ≤ i → i < n → res[i - o]? = some (sampleAt xs i - fixedAt o xs i)) ∧
        Answers (exec (.fixedResidual o) s)
          { s with res := res ++ s.res.drop (n - o), sf := { s.sf with order := some o } } (.nat m)) ∧
    (∀ o, 4 < o ∨ n < o → Raises (exec (.fixedResidual o) s) s .write (.logic .badOperand)) ∧
    (∀ o shift, s.sf.order = some o → s.qlpShift = some shift → o ≤ s.qlp.length →
      (1 ≤ o → o ≤ 32 → o ≤ n →
        ∃ (res : List Int) (m : Nat), res.length = n - o ∧ (o < n → IsLargest m res) ∧
          (∀ i, o ≤ i → i < n → res[i - o]? = some (sampleAt xs i - lpcAt s.qlp shift o xs i)) ∧
          Answers (exec .lpcResidual s) { s with res := res ++ s.res.drop (n - o) } (.nat m)) ∧
      (o = 0 ∨ 32 < o ∨ n < o → Raises (exec .lpcResidual s) s .write (.logic .badOperand)))

/-- R272, an inference the spec marks as its own ("derived: from rules R256 to R261"): analysis then synthesis gives the
samples back, for every order, every set of coefficients and every shift, whatever stands in the samples that synthesis
rebuilds. That the four operations run in every mode is the model's reading of R21 (log 15). -/
def Obligations.PredictionIsLossless : Prop :=
  ∀ (s : State) (n c o : Nat) (junk : List Int), s.faulted = false → s.fh.blocksize = some n → s.sf.ch = some c →
    s.sf.wasted = some 0 → c < s.smp.length → n ≤ (s.row c).length → o ≤ n → junk.length = (s.row c).length - o →
    (s.sf.type = some .fixed → o ≤ 4 →
      ∃ t m, answerOf (.fixedResidual o) s = some (.nat m, t) ∧
        ∃ u, answerOf .fixedRestore { t with smp := t.smp.set c ((t.row c).take o ++ junk) } = some (.none, u) ∧
          (u.row c).take n = (s.row c).take n) ∧
    (∀ shift, s.sf.type = some .lpc → s.sf.order = some o → 1 ≤ o → o ≤ 32 → s.qlpShift = some shift → o ≤ s.qlp.length →
      ∃ t m, answerOf .lpcResidual s = some (.nat m, t) ∧
        ∃ u, answerOf .lpcRestore { t with smp := t.smp.set c ((t.row c).take o ++ junk) } = some (.none, u) ∧
          (u.row c).take n = (s.row c).take n)

/-- R267 to R270: the bits of a subframe of each type, the residual recomputed from the samples, and the refusals. -/
def Obligations.SubframesWritten : Prop :=
  ∀ (s : State) (n c w b : Nat) (xs : List Int), s.faulted = false → s.fh.blocksize = some n → s.sf.ch = some c →
    s.sf.wasted = some w → s.sf.bps = some b → 1 ≤ b → b ≤ 33 → n ≤ (s.row c).length →
    xs = ((s.row c).take n).map (· / 2 ^ w) →
    ((∀ x ∈ xs, x = xs.headD 0) → fitsS (xs.headD 0) b →
      Answers (exec .sfEncConstant s)
        { s with out := s.out ++ (sfHeaderBits 0 w ++ natBits b (tc b (xs.headD 0))) } .none) ∧
    ((∃ x ∈ xs, x ≠ xs.headD 0) → Raises (exec .sfEncConstant s) s .write (.logic .badOperand)) ∧
    ((∀ x ∈ xs, fitsS x b) →
      Answers (exec .sfEncVerbatim s) { s with out := s.out ++ (sfHeaderBits 1 w ++ sampleBits b xs) } .none) ∧
    ((∃ x ∈ xs, ¬ fitsS x b) → Raises (exec .sfEncVerbatim s) s .write (.logic .valueOutOfRange)) ∧
    (∀ (o : Nat) (t : PartTable), s.sf.order = some o → o ≤ 4 → o ≤ n → TableIs s t →
      TableFits n o (residualOf (fixedPredict o) o xs) t → (∀ x ∈ xs.take o, fitsS x b) →
      Answers (exec .sfEncFixed s)
        { s with
          out := s.out ++ (sfHeaderBits (8 + o) w ++ sampleBits b (xs.take o) ++
            sectionBits n o (residualOf (fixedPredict o) o xs) t)
          res := residualOf (fixedPredict o) o xs ++ s.res.drop (n - o) } .none) ∧
    (∀ (o prec shift : Nat) (t : PartTable), s.sf.order = some o → 1 ≤ o → o ≤ 32 → o ≤ n → s.qlpPrec = some prec → 1 ≤ prec →
      prec ≤ 15 → s.qlpShift = some shift → shift ≤ 15 → o ≤ s.qlp.length → (∀ q ∈ s.qlp.take o, fitsS q prec) → TableIs s t →
      TableFits n o (residualOf (lpcPredict (s.qlp.take o) shift) o xs) t → (∀ x ∈ xs.take o, fitsS x b) →
      Answers (exec .sfEncLpc s)
        { s with
          out := s.out ++ (sfHeaderBits (32 + (o - 1)) w ++ sampleBits b (xs.take o) ++ natBits 4 (prec - 1) ++
            natBits 5 shift ++ sampleBits prec (s.qlp.take o) ++
            sectionBits n o (residualOf (lpcPredict (s.qlp.take o) shift) o xs) t)
          res := residualOf (lpcPredict (s.qlp.take o) shift) o xs ++ s.res.drop (n - o) } .none) ∧
    (∀ o, s.sf.order = some o → 4 < o ∨ n < o → Raises (exec .sfEncFixed s) s .write (.logic .badOperand))

/-- R251 with R259, R256 to R258 and R267 to R270. `SF_DEC` completes on every subframe that a form can carry (`SubframeForm`):
the samples, the registers and the bits consumed are those of the form, and no other channel is written. What the operation of any
type writes is such a subframe: it decodes into the samples it was written from. And the refusals: the padding bit, a count of
wasted bits at or above the depth, a reserved type, a predicted sample outside the depth, a channel that the frame has not, a
header not validated; each leaves the cursor after the last bit read and of the rest no more than the channel's samples changed
(R251, R15; that `RES` and the table stay as well is the model's reading, log 21). -/
def Obligations.SubframeDecodesToItsSamples : Prop :=
  ∀ (r : State) (n c w b ch ca fb depth : Nat), r.faulted = false → r.mode ≠ .encode → r.fh.valid = true →
    r.fh.channels = some ch → r.fh.blocksize = some n → r.fh.bps = some fb → r.fh.chanAssign = some ca →
    depth = fb + sideBit ca c →
    (c < ch → c < r.smp.length → depth = b + w → 1 ≤ b → b ≤ 33 →
      (∀ (f : SubframeForm) (xs : List Int), xs.length = n → f.Carries b xs → AtCursor r (f.bits b w xs) →
        ((∀ x ∈ xs, fitsS x b) →
          ∃ u, exec (.sfDec c) r = .next u ∧ u.reply = some (.ok .none) ∧ u.brPos = r.brPos + (f.bits b w xs).length ∧
            (u.row c).take n = xs.map (· * 2 ^ w) ∧ (∀ d, d ≠ c → u.row d = r.row d) ∧
            u.sf = ⟨some f.type, some f.order, some w, some b, some c⟩ ∧
            { u with
              brPos := r.brPos, smp := r.smp, rc := r.rc, res := r.res, sf := r.sf, qlp := r.qlp, qlpPrec := r.qlpPrec
              qlpShift := r.qlpShift, reply := r.reply } = r) ∧
        ((∃ x ∈ xs, ¬ fitsS x b) →
          ∃ u, exec (.sfDec c) r = .next u ∧ u.reply = some (.fault (.sync .rangeError)) ∧
            u.brPos = r.brPos + (f.bits b w xs).length ∧ (∀ d, d ≠ c → u.row d = r.row d) ∧
            { u with brPos := r.brPos, smp := r.smp, status := r.status, report := r.report, reply := r.reply } = r)) ∧
      (∀ (s t : State) (i : Instr), s.faulted = false → s.CodingInRange → s.fh.blocksize = some n → s.sf.ch = some c →
        s.sf.wasted = some w → s.sf.bps = some b → n ≤ (s.row c).length →
        (∀ x ∈ (s.row c).take n, x % 2 ^ w = 0 ∧ fitsS (x / 2 ^ w) b) →
        i = .sfEncConstant ∨ i = .sfEncVerbatim ∨ i = .sfEncFixed ∨ i = .sfEncLpc → answerOf i s = some (.none, t) →
        AtCursor r (t.out.drop s.out.length) →
        ∃ u, exec (.sfDec c) r = .next u ∧ u.reply = some (.ok .none) ∧ u.brPos + s.out.length = r.brPos + t.out.length ∧
          (u.row c).take n = (s.row c).take n)) ∧
    (c < ch → AtCursor r [true] →
      exec (.sfDec c) r = .next (r.takeException { r with brPos := r.brPos + 1 } .read (.sync .subframeReserved))) ∧
    (∀ t, c < ch → t < 2 ^ 6 → AtCursor r (sfHeaderBits t w) →
      (depth ≤ w →
        exec (.sfDec c) r = .next (r.takeException { r with brPos := r.brPos + (sfHeaderBits t w).length } .read
          (.sync .subframeReserved))) ∧
      (w < depth → (2 ≤ t ∧ t ≤ 7) ∨ (13 ≤ t ∧ t ≤ 31) →
        exec (.sfDec c) r = .next (r.takeException { r with brPos := r.brPos + (sfHeaderBits t w).length } .read
          (.sync .subframeReserved)))) ∧
    (c < ch → Lacks r 1 → Starves (exec (.sfDec c) r) r) ∧
    (ch ≤ c → Raises (exec (.sfDec c) r) r .read (.logic .badOperand)) ∧
    (∀ t, t = { r with fh := { r.fh with valid := false } } → Raises (exec (.sfDec c) t) t .read (.logic .unwrittenState))

/-! ### The residual coder -/

/-- R283, R289: the section's bits, their number, and the refusals, which write nothing. -/
def Obligations.ResidualSectionWritten : Prop :=
  ∀ (s : State) (n o : Nat) (t : PartTable), s.faulted = false → s.fh.blocksize = some n → s.sf.order = some o → TableIs s t →
    n - o ≤ s.res.length →
    (TableFits n o (s.res.take (n - o)) t →
      (sectionBits n o (s.res.take (n - o)) t).length = tableSize n o (s.res.take (n - o)) t ∧
      Answers (exec .resEncode s) { s with out := s.out ++ sectionBits n o (s.res.take (n - o)) t }
        (.nat (tableSize n o (s.res.take (n - o)) t))) ∧
    (8 < t.porder ∨ n % 2 ^ t.porder ≠ 0 ∨ n / 2 ^ t.porder < o →
      Raises (exec .resEncode s) s .write (.logic .badOperand)) ∧
    (t.porder ≤ 8 → n % 2 ^ t.porder = 0 → o ≤ n / 2 ^ t.porder → t.parts.length = 2 ^ t.porder →
      (∃ k, t.parts.head? = some (.rice k) ∧ 14 + 16 * t.method < k) →
      Raises (exec .resEncode s) s .write (.logic .badOperand)) ∧
    (t.porder = 0 → o ≤ n → t.parts.length = 1 → (∃ k, t.parts = [.rice k] ∧ k ≤ 14 + 16 * t.method) →
      (∃ r ∈ s.res.take (n - o), ¬ (-(2 ^ 31) < r ∧ r < 2 ^ 31)) →
      Raises (exec .resEncode s) s .write (.logic .valueOutOfRange))

/-- R284, and R295, an inference the spec marks as its own ("derived: from rules R282, R284, R288 and R289"): `RES_DECODE` on
the bits of a section gives back the residual and the table, of either method, any valid partition order, any mixture of
parameters and escapes, and consumes exactly those bits. -/
def Obligations.ResidualSectionIsExact : Prop :=
  ∀ (s : State) (n o : Nat) (res : List Int) (t : PartTable), s.faulted = false → s.mode ≠ .encode →
    s.fh.blocksize = some n → s.sf.order = some o →
    (TableFits n o res t → AtCursor s (sectionBits n o res t) →
      ∃ u, exec .resDecode s = .next u ∧ u.reply = some (.ok .none) ∧
        u.brPos = s.brPos + (sectionBits n o res t).length ∧ TableIs u t ∧ u.res.take (n - o) = res ∧
        { u with brPos := s.brPos, rc := s.rc, res := s.res, reply := s.reply } = s) ∧
    (∀ m, 2 ≤ m → m < 4 → AtCursor s (natBits 2 m) →
      exec .resDecode s = .next (s.takeException { s with brPos := s.brPos + 2 } .read (.sync .badResidual))) ∧
    (∀ m p, m < 2 → p < 16 → 8 < p ∨ n % 2 ^ p ≠ 0 ∨ n / 2 ^ p < o → AtCursor s (natBits 2 m ++ natBits 4 p) →
      exec .resDecode s = .next (s.takeException { s with brPos := s.brPos + 6 } .read (.sync .badResidual)))

/-- R290: the least parameter of least cost, over every parameter of the method, and that cost; a run outside the residual, or
not yet written. -/
def Obligations.RiceParameterIsLeastOfLeastCost : Prop :=
  ∀ (s : State) (n o kmax first count : Nat), s.faulted = false → s.fh.blocksize = some n → s.sf.order = some o →
    (kmax ≤ 30 → first + count + o ≤ n → first + count ≤ s.res.length ∨ count = 0 →
      let cost := fun k => (((s.res.drop first).take count).map fun r => zz r / 2 ^ k + 1 + k).sum
      ∃ k, k ≤ kmax ∧ (∀ j, j ≤ kmax → cost k ≤ cost j) ∧ (∀ j, j < k → cost k < cost j) ∧
        Answers (exec (.riceParamSelect kmax first count) s) s (.riceParam k (cost k))) ∧
    (30 < kmax ∨ n < first + count + o →
      Raises (exec (.riceParamSelect kmax first count) s) s .write (.logic .badOperand)) ∧
    (kmax ≤ 30 → first + count + o ≤ n → s.res.length < first + count → 0 < count →
      Raises (exec (.riceParamSelect kmax first count) s) s .write (.logic .unwrittenState))

/-- R291, R292: whatever partitioning function the implementation has, `PART_SELECT` completes; the table it leaves is of the
configured method and can be written, and no partition is larger than its escaped form, at any width that holds it (the least
among them). The register of an entry that goes with the form not taken holds a free value of its range (R36; log 22). An order
above the block size as a bad operand is the model's reading (log 22), and so is its coming ahead of an unwritten residual (log 32). -/
def Obligations.PartitioningKeepsTheBound : Prop :=
  ∀ (s : State) (cfg : EncConfig) (n o : Nat), s.faulted = false → s.mode = .encode → s.cfg = some cfg → cfg.method ≤ 1 →
    s.fh.blocksize = some n → s.sf.order = some o →
    (o ≤ n → n - o ≤ s.res.length →
      ∃ (u : State) (t : PartTable), exec .partSelect s = .next u ∧ TableIs u t ∧
        u.reply = some (.ok (.nat (tableSize n o (s.res.take (n - o)) t))) ∧
        t.method = cfg.method ∧ t.porder ≤ 8 ∧ n % 2 ^ t.porder = 0 ∧ o ≤ n / 2 ^ t.porder ∧
        t.parts.length = 2 ^ t.porder ∧
        (∀ e ∈ u.rc.table.take (2 ^ t.porder), ∃ k nb, e.param = some k ∧ k ≤ 30 ∧ e.raw = some nb ∧ nb ≤ 31) ∧
        (∀ x ∈ (partitions n o t.porder (s.res.take (n - o))).zip t.parts,
          choiceFits t.method x.1 x.2 = true ∧
          ((∀ r ∈ x.1, -(2 ^ 30) ≤ r ∧ r < 2 ^ 30) → ∀ nb, (∀ r ∈ x.1, zz r < 2 ^ nb) →
            partSize t.method x.1 x.2 ≤ 4 + t.method + 5 + x.1.length * nb)) ∧
        { u with rc := s.rc, reply := s.reply } = s) ∧
    (n < o → Raises (exec .partSelect s) s .write (.logic .badOperand))

/-- R262, R271, R274, R346: whatever the implementation's functions are, the selections complete with a choice inside the
contract: the predictor of `LPC_ANALYZE`; the admissible subframe of `SF_SELECT`, with its size by R274 and a partition table that
can be written; one of the four assignments of `STEREO_SELECT`. The precision of coefficients that `select_subframe` chose itself
is the model's choice (log 33); that `LPC_ANALYZE` runs in every mode with a configuration, its reading (log 15). -/
def Obligations.SelectionsStayInsideTheirContracts : Prop :=
  (∀ (s : State) (cfg : EncConfig) (n c w : Nat), s.faulted = false → s.cfg = some cfg → s.fh.blocksize = some n →
    s.sf.ch = some c → s.sf.wasted = some w → n ≤ (s.row c).length →
    Answers (exec .lpcAnalyze s) s (.order none) ∨
    ∃ (u : State) (o shift : Nat), exec .lpcAnalyze s = .next u ∧ u.reply = some (.ok (.order (some o))) ∧
      1 ≤ o ∧ o ≤ 32 ∧ o ≤ cfg.maxLpcOrder ∧ o ≤ n ∧ u.sf = { s.sf with order := some o } ∧ o ≤ u.qlp.length ∧
      (∀ q ∈ u.qlp.take o, fitsS q cfg.qlpPrec) ∧ u.qlpPrec = some cfg.qlpPrec ∧ u.qlpShift = some shift ∧ shift ≤ 15 ∧
      { u with sf := s.sf, qlp := s.qlp, qlpPrec := s.qlpPrec, qlpShift := s.qlpShift, reply := s.reply } = s) ∧
  (∀ (s : State) (cfg : EncConfig) (n ch c ca depth : Nat) (xs : List Int), s.faulted = false → s.mode = .encode →
    s.cfg = some cfg → s.fh.channels = some ch → c < ch → s.fh.blocksize = some n → s.fh.chanAssign = some ca →
    n ≤ (s.row c).length → xs = (s.row c).take n → depth = cfg.bps + sideBit ca c → cfg.method ≤ 1 →
    ∃ (u : State) (size w o : Nat) (ty : SfType), exec (.sfSelect c) s = .next u ∧ u.reply = some (.ok (.nat size)) ∧
      (ty = .constant → size = 8 + w + (depth - w)) ∧ (ty = .verbatim → size = 8 + w + n * (depth - w)) ∧
      (ty = .fixed ∨ ty = .lpc → ∃ t : PartTable, TableIs u t ∧ TableFits n o (u.res.take (n - o)) t ∧
        size = 8 + w + o * (depth - w) + (if ty = .lpc then 4 + 5 + o * cfg.qlpPrec else 0) +
          tableSize n o (u.res.take (n - o)) t) ∧
      u.sf = ⟨some ty, some o, some w, some (depth - w), some c⟩ ∧
      (w = 0 ∨ (w < depth ∧ ∀ x ∈ xs, x % 2 ^ w = 0)) ∧ (ty = .constant → ∀ x ∈ xs, x = xs.headD 0) ∧
      (ty = .fixed → o ≤ 4 ∧ o ≤ n) ∧ (ty = .lpc → 1 ≤ o ∧ o ≤ 32 ∧ o ≤ n ∧ u.qlpPrec = some cfg.qlpPrec) ∧
      (ty = .fixed ∨ ty = .lpc → n - o ≤ u.res.length ∧ ∀ r ∈ u.res.take (n - o), -(2 ^ 31) < r ∧ r < 2 ^ 31) ∧
      (ty = .constant ∨ ty = .verbatim → o = 0) ∧
      { u with
        sf := s.sf, qlp := s.qlp, qlpPrec := s.qlpPrec, qlpShift := s.qlpShift, rc := s.rc, res := s.res
        reply := s.reply } = s) ∧
  (∀ (s : State) (cfg : EncConfig) (n : Nat), s.faulted = false → s.mode = .encode → s.cfg = some cfg →
    s.fh.blocksize = some n → n ≤ (s.row 0).length → n ≤ (s.row 1).length →
    (s.fh.channels = some 2 →
      ∃ ca, (ca = 1 ∨ ca = 8 ∨ ca = 9 ∨ ca = 10) ∧
        Answers (exec .stereoSelect s)
          { s with
            sf := ⟨none, none, none, none, none⟩, qlp := [], qlpPrec := none, qlpShift := none
            rc := ⟨none, none, []⟩, res := [] } (.nat ca)) ∧
    (∀ ch, s.fh.channels = some ch → ch ≠ 2 → Raises (exec .stereoSelect s) s .write (.logic .badOperand)))

/-! ### The decoder -/

/-- R318, R344: the forward transform of each assignment and the inverse one, exact on every block within the depth (independent
channels too; a difference beyond the 33 bits of R38 stays exact, log 30), and the refusals; a reconstructed sample outside the
depth is a `SyncError(RangeError)`, the block as it was (R78; log 21). That `CH_DECORR_INV`, which reads no input, runs in every mode
is the model's reading of R21 (log 15). -/
def Obligations.StereoTransformsAreInverse : Prop :=
  ∀ (s : State) (n ch ca bps : Nat), s.faulted = false → s.fh.blocksize = some n → s.fh.channels = some ch → ch ≤ s.smp.length →
    (∀ c, c < ch → n ≤ (s.row c).length) →
    (ca ≤ 7 → ca + 1 = ch →
      Answers (exec (.chDecorrFwd ca) s) { s with fh := { s.fh with chanAssign := some ca } } .none) ∧
    (ca = 8 ∨ ca = 9 ∨ ca = 10 → ch = 2 →
      ∃ a b : List Int,
        Answers (exec (.chDecorrFwd ca) s)
          { s with
            smp := (s.smp.set 0 (a ++ (s.row 0).drop n)).set 1 (b ++ (s.row 1).drop n)
            fh := { s.fh with chanAssign := some ca } } .none ∧
        a.length = n ∧ b.length = n ∧
        ∀ i, i < n →
          let l := sampleAt (s.row 0) i
          let r := sampleAt (s.row 1) i
          sampleAt a i = (if ca = 8 then l else if ca = 9 then l - r else (l + r) / 2) ∧
          sampleAt b i = (if ca = 9 then r else l - r)) ∧
    (10 < ca ∨ (ca ≤ 7 ∧ ca + 1 ≠ ch) ∨ (8 ≤ ca ∧ ch ≠ 2) →
      Raises (exec (.chDecorrFwd ca) s) s .write (.logic .badOperand)) ∧
    (s.fh.bps = some bps → (∀ c i, c < ch → i < n → fitsS (sampleAt (s.row c) i) bps) →
      ∀ t, answerOf (.chDecorrFwd ca) s = some (.none, t) →
        ∃ u, answerOf .chDecorrInv t = some (.none, u) ∧ (∀ c, c < ch → (u.row c).take n = (s.row c).take n) ∧
          { u with smp := t.smp } = t) ∧
    (s.fh.bps = some bps → s.fh.chanAssign = some ca →
      (ca ≤ 7 → (∀ c i, c < ch → i < n → fitsS (sampleAt (s.row c) i) bps) → Answers (exec .chDecorrInv s) s .none) ∧
      (ca = 8 ∨ ca = 9 ∨ ca = 10 → ch = 2 →
        let x := fun i => sampleAt (s.row 0) i
        let y := fun i => sampleAt (s.row 1) i
        let left := fun i => if ca = 8 then x i else if ca = 9 then x i + y i else (2 * x i + y i % 2 + y i) / 2
        let right := fun i => if ca = 8 then x i - y i else if ca = 9 then y i else (2 * x i + y i % 2 - y i) / 2
        (∀ i, i < n → fitsS (left i) bps ∧ fitsS (right i) bps) →
        Answers (exec .chDecorrInv s)
          { s with
            smp := (s.smp.set 0 ((List.range n).map left ++ (s.row 0).drop n)).set 1
                ((List.range n).map right ++ (s.row 1).drop n) } .none)) ∧
    (∀ i, s.fh.bps = some bps → s.fh.chanAssign = some 8 → ch = 2 → i < n →
      ¬ fitsS (sampleAt (s.row 0) i - sampleAt (s.row 1) i) bps →
      Raises (exec .chDecorrInv s) s .read (.sync .rangeError))

/-- R323: what `DEC_FLUSH` discards, and where it is refused. -/
def Obligations.FlushEntersResync : Prop :=
  ∀ s : State, s.faulted = false →
    (s.mode = .decode → s.dstate = .synced ∨ s.dstate = .resync →
      Answers (exec .decFlush s)
        { s with
          input := [], inEof := false, brPos := 0, skipStart := 0
          fh := { s.fh with valid := false }
          status := s.status ||| 0x0020#16
          dstate := .resync } .none) ∧
    (s.mode ≠ .decode ∨ (s.dstate ≠ .synced ∧ s.dstate ≠ .resync) →
      Raises (exec .decFlush s) s .read (.logic .badMode))

/-- R311, R312, R313, R373, R376, R387: the steps through marker and metadata, each of their faults fatal, a cut anywhere reported
as end of stream and then as truncated metadata; the terminal states. Each fault carries the byte at the cursor before the unit
operation that raised it (R371, R372); that the converted one carries the same, and that a block of the wrong type or length
carries the step's first byte, is the model's reading (log 11, 14). -/
def Obligations.MetadataSteps : Prop :=
  ∀ s : State, s.faulted = false → s.mode = .decode →
    (s.dstate = .done ∨ s.dstate = .fatalError → Answers (exec .decStep s) s (.dstate s.dstate)) ∧
    (s.brPos % 8 = 0 →
      let first := s.brPos / 8
      let die := fun (t : State) (e : Exc) (pos : Nat) =>
        exec .decStep s = .next { (t.record e pos).enterFatal e with reply := some (.ok (.dstate .fatalError)) }
      let cut := fun (t : State) (pos : Nat) => die (t.record .endOfStream pos) (.structural .truncatedMetadata) pos
      (s.dstate = .init → AtCursor s (bytesBits [0x66#8, 0x4C#8, 0x61#8, 0x43#8]) →
        Answers (exec .decStep s) { s with brPos := s.brPos + 32, dstate := .readStreamInfo } (.dstate .readStreamInfo)) ∧
      (∀ bs : List Byte, s.dstate = .init → bs.length = 4 → bs ≠ [0x66#8, 0x4C#8, 0x61#8, 0x43#8] →
        AtCursor s (bytesBits bs) → die { s with brPos := s.brPos + 32 } (.structural .badMarker) first) ∧
      (s.dstate = .init ∨ s.dstate = .readStreamInfo ∨ s.dstate = .readMetadata → Lacks s 32 →
        (s.inEof = false → exec .decStep s = .next { s with reply := some .hold }) ∧
        (s.inEof = true → cut s first)) ∧
      (∀ (last : Nat) (si : StreamInfo) (body : List Byte), s.dstate = .readStreamInfo → last < 2 → s.mbCount + 1 < 2 ^ 32 →
        s.siValid = false → si.InWidth → bytesBits body = si.bits →
        AtCursor s (natBits 1 last ++ natBits 7 0 ++ natBits 24 34 ++ si.bits) →
        let read := { s with
          brPos := s.brPos + 304
          mb := some ⟨last = 1, 0, 34⟩
          mbCount := s.mbCount + 1
          si := some si }
        (si.Consistent →
          Answers (exec .decStep s)
            { read with
              siValid := true
              mdOut := s.mdOut ++ [⟨0, last = 1, 34, body⟩]
              md5 := Md5Regs.reset
              firstFramePos := if last = 1 then s.brPos / 8 + 38 else s.firstFramePos
              dstate := if last = 1 then .synced else .readMetadata }
            (.dstate (if last = 1 then .synced else .readMetadata))) ∧
        (¬ si.Consistent → die read (.structural .inconsistentStreamInfo) (first + 38))) ∧
      (∀ last type length, last < 2 → type < 2 ^ 7 → length < 2 ^ 24 → s.mbCount + 1 < 2 ^ 32 →
        AtCursor s (natBits 1 last ++ natBits 7 type ++ natBits 24 length) →
        let read := { s with brPos := s.brPos + 32, mb := some ⟨last = 1, type, length⟩, mbCount := s.mbCount + 1 }
        (s.dstate = .readStreamInfo → type ≠ 0 → die read (.structural .noStreamInfo) first) ∧
        (s.dstate = .readStreamInfo → type = 0 → length ≠ 34 → die read (.structural .badStreamInfoLength) first) ∧
        (s.dstate = .readMetadata → type = 0 → die read (.structural .duplicateStreamInfo) first) ∧
        ((s.dstate = .readMetadata ∧ type ≠ 0) ∨ (s.dstate = .readStreamInfo ∧ type = 0 ∧ length = 34 ∧ s.siValid = false) →
          Lacks s (32 + 8 * length) →
          (s.inEof = false → exec .decStep s = .next { s with reply := some .hold }) ∧
          (s.inEof = true → cut read (first + 4))) ∧
        (∀ body : List Byte, s.dstate = .readMetadata → type ≠ 0 → body.length = length →
          AtCursor s (natBits 1 last ++ natBits 7 type ++ natBits 24 length ++ bytesBits body) →
          Answers (exec .decStep s)
            { read with
              brPos := s.brPos + 32 + 8 * length
              mdOut := s.mdOut ++ [⟨type, last = 1, length, body⟩]
              seek := if type = 3 then seekTable body else s.seek
              firstFramePos := if last = 1 then s.brPos / 8 + 4 + length else s.firstFramePos
              dstate := if last = 1 then .synced else .readMetadata }
            (.dstate (if last = 1 then .synced else .readMetadata)))))

/-- R314, R319, R382, R371, R373: what `DEC_STEP` makes of the outcome of `DEC_FRAME` at the cursor: a good frame is hashed,
emitted and counted; a `SyncError` at any point drops it and enters `Resync`, reported at the frame's first byte; so does an end
of input inside it; `Unsupported` is fatal; a hold undoes the step. -/
def Obligations.SyncedStepActsOnTheFrame : Prop :=
  ∀ (s t : State), s.faulted = false → s.mode = .decode → s.dstate = .synced → s.brPos ≠ 8 * s.input.length →
    exec .decFrame s = .next t →
    (∀ (n ch bps : Nat), t.reply = some (.ok .none) → s.md5.done = false → s.framesOk + 1 < 2 ^ 64 → s.samplesOk + n < 2 ^ 64 →
      t.fh.blocksize = some n → t.fh.channels = some ch → t.fh.bps = some bps →
      ∃ first rate, t.fh.firstSample = some first ∧ t.fh.sampleRate = some rate ∧
        Answers (exec .decStep s)
          { t with
            md5 := (hashBytes ((t.smp.take ch).map (·.take n)) n bps).foldl md5Byte s.md5
            pcmOut := s.pcmOut ++ [⟨first, n, ch, bps, rate, (t.smp.take ch).map (·.take n)⟩]
            framesOk := s.framesOk + 1
            samplesOk := s.samplesOk + n } (.dstate .synced)) ∧
    (∀ sub, t.reply = some (.fault (.sync sub)) →
      t.report = s.report ++ [.exception 5 sub.code (s.brPos / 8)] ∧ t.flag .syncErr = true ∧ t.pcmOut = s.pcmOut ∧
      t.md5 = s.md5 ∧ t.framesOk = s.framesOk ∧
      Answers (exec .decStep s)
        { t with
          status := t.status ||| 0x0020#16
          skipStart := s.brPos / 8
          fh := { t.fh with valid := false }
          dstate := .resync } (.dstate .resync)) ∧
    (t.reply = some (.fault .endOfStream) →
      t.report = s.report ++ [.exception 1 0 (s.brPos / 8)] ∧ t.flag .eos = true ∧ t.pcmOut = s.pcmOut ∧ t.md5 = s.md5 ∧
      Answers (exec .decStep s)
        { t with
          status := t.status ||| 0x0030#16
          report := t.report ++ [.exception 5 11 (s.brPos / 8)]
          skipStart := s.brPos / 8
          fh := { t.fh with valid := false }
          dstate := .resync } (.dstate .resync)) ∧
    (∀ sub, t.reply = some (.fault (.unsupported sub)) →
      t.report = s.report ++ [.exception 6 sub.code (s.brPos / 8)] ∧ t.flag .unsupported = true ∧ t.pcmOut = s.pcmOut ∧
      Answers (exec .decStep s)
        { t with
          status := t.status ||| 0x0020#16
          report := t.report ++ [.final .notVerified s.framesOk s.samplesOk s.resyncs]
          fatalCode := 6
          fatalSub := sub.code
          verdict := .notVerified
          dstate := .fatalError } (.dstate .fatalError)) ∧
    (t.reply = some .hold → exec .decStep s = .next { s with reply := some .hold })

/-- R383, R380: the scan stops at the first byte, not before the cursor, whose 14 bits are the sync code; with none, it holds
until input ends, then discards to the end: `NoAudioRecovered` if no frame was ever decoded. That its entry carries the byte at the
cursor before the step is the model's reading of R372 (log 14). -/
def Obligations.ResyncScansToTheNextSyncCode : Prop :=
  ∀ s : State, s.faulted = false → s.mode = .decode → s.dstate = .resync → s.resyncs + 1 < 2 ^ 32 →
    let sync := fun j => ∃ x y : Byte, s.input[j]? = some x ∧ s.input[j + 1]? = some y ∧ x = 0xFF#8 ∧ y.toNat / 4 = 0x3E
    (∀ j, s.brPos ≤ 8 * j → sync j → (∀ k, s.brPos ≤ 8 * k → k < j → ¬ sync k) →
      Answers (exec .decStep s)
        { s with
          report := s.report ++ [.resync s.skipStart j .found]
          brPos := 8 * j
          resyncs := s.resyncs + 1
          dstate := .synced } (.dstate .synced)) ∧
    ((∀ k, s.brPos ≤ 8 * k → ¬ sync k) →
      (s.inEof = false → exec .decStep s = .next { s with reply := some .hold }) ∧
      (s.inEof = true → s.framesOk = 0 →
        Answers (exec .decStep s)
          { s with
            report := s.report ++ [.resync s.skipStart s.input.length .eof, .exception 8 0 (s.brPos / 8),
              .final .notVerified 0 s.samplesOk (s.resyncs + 1)]
            brPos := 8 * s.input.length
            resyncs := s.resyncs + 1
            status := s.status ||| 0x0420#16
            fatalCode := 8
            fatalSub := 0
            verdict := .notVerified
            dstate := .fatalError } (.dstate .fatalError)) ∧
      (∀ (si : StreamInfo) (e : Md5Regs), s.inEof = true → s.framesOk ≠ 0 → s.si = some si → s.md5.done = false →
        s.flag .partial_ = true → e = (md5Padding s.md5.len).foldl md5Byte s.md5 →
        Answers (exec .decStep s)
          { s with
            report := s.report ++ [.resync s.skipStart s.input.length .eof,
              .final .notVerified s.framesOk s.samplesOk (s.resyncs + 1)]
            brPos := 8 * s.input.length
            resyncs := s.resyncs + 1
            md5 := { e with done := true, digest := some (md5Digest e) }
            verdict := .notVerified
            dstate := .done } (.dstate .done)))

/-- R320, R324, R379, R384, R385: at the end of input on a frame boundary the decode is done, with the verdict that the digest
of everything absorbed, the stored hash and the sample count give; a mismatch is reported and flagged, nothing is taken back.
That its entry carries the byte at the cursor before the step is the model's reading of R372 (log 14). -/
def Obligations.DoneGivesTheVerdict : Prop :=
  ∀ (s : State) (si : StreamInfo) (digest : BitVec 128), s.faulted = false → s.mode = .decode → s.dstate = .synced →
    s.brPos = 8 * s.input.length → s.inEof = true → s.si = some si → s.md5.done = false →
    digest = md5Digest ((md5Padding s.md5.len).foldl md5Byte s.md5) →
    let part := s.flag .partial_ = true ∨ (si.totalSamples ≠ 0 ∧ s.samplesOk ≠ si.totalSamples)
    ∃ u, exec .decStep s = .next u ∧ u.reply = some (.ok (.dstate .done)) ∧ u.dstate = .done ∧
      u.md5.digest = some digest ∧ u.pcmOut = s.pcmOut ∧ u.brPos = s.brPos ∧
      (part ∨ si.md5 = 0#128 → u.verdict = .notVerified) ∧
      (¬ part → si.md5 ≠ 0#128 → digest = si.md5 → u.verdict = .match_) ∧
      (¬ part → si.md5 ≠ 0#128 → digest ≠ si.md5 → u.verdict = .mismatch) ∧
      (∀ f, u.flag f = true ↔ s.flag f = true ∨ (f = .partial_ ∧ part) ∨ (f = .hashErr ∧ u.verdict = .mismatch)) ∧
      (∀ i, 11 ≤ i → u.status.getLsbD i = s.status.getLsbD i) ∧
      (u.verdict = .mismatch →
        u.report = s.report ++ [.exception 7 0 (s.brPos / 8), .final .mismatch s.framesOk s.samplesOk s.resyncs]) ∧
      (u.verdict ≠ .mismatch → u.report = s.report ++ [.final u.verdict s.framesOk s.samplesOk s.resyncs]) ∧
      { u with
        md5 := s.md5, verdict := s.verdict, status := s.status, report := s.report, dstate := s.dstate
        reply := s.reply } = s

/-! ### The encoder -/

/-- R341, R342: a configuration that passes its checks starts the session and writes marker, block header and provisional
StreamInfo; the first check that fails names the error, nothing is written, and the session has failed; the modes. A method
above 1 is refused as `Parameter`, and an operand `b` that is not zero as an unused field (log 16). -/
def Obligations.EncoderInit : Prop :=
  ∀ (s : State) (c : EncConfig), s.faulted = false →
    (s.mode = .encode → s.estate = .idle → s.payload = .config c →
      let channels := 1 ≤ c.channels ∧ c.channels ≤ 8
      let depth := 4 ≤ c.bps ∧ c.bps ≤ 32
      let rate := 1 ≤ c.sampleRate ∧ c.sampleRate ≤ 1048575
      let blocks := 1 ≤ c.minBlocksize ∧ c.minBlocksize ≤ c.blocksize ∧ c.blocksize ≤ c.maxBlocksize ∧ c.maxBlocksize ≤ 65535
      let params := c.totalSamples < 2 ^ 36 ∧ c.maxLpcOrder ≤ 32 ∧ 1 ≤ c.qlpPrec ∧ c.qlpPrec ≤ 15 ∧ c.maxPorder ≤ 8 ∧
        c.method ≤ 1
      let fails := fun sub =>
        exec (.encInit 0) s = .next (s.takeException { s with estate := .failed } .write (.config sub))
      (channels → depth → rate → blocks → params → s.out.length % 8 = 0 →
        ∃ si : StreamInfo, si = ⟨c.minBlocksize, c.maxBlocksize, 0, 0, c.sampleRate, c.channels, c.bps, c.totalSamples, 0#128⟩ ∧
          Answers (exec (.encInit 0) s)
            { s with
              cfg := some c
              si := some si
              siValid := true
              md5 := Md5Regs.reset
              out := s.out ++ bytesBits [0x66#8, 0x4C#8, 0x61#8, 0x43#8] ++
                (natBits 1 (if c.siLast = true then 1 else 0) ++ natBits 7 0 ++ natBits 24 34) ++ si.bits
              estate := .ready } .none) ∧
      (¬ channels → fails .channels) ∧ (channels → ¬ depth → fails .bitDepth) ∧
      (channels → depth → ¬ rate → fails .sampleRate) ∧ (channels → depth → rate → ¬ blocks → fails .blockSize) ∧
      (channels → depth → rate → blocks → ¬ params → fails .parameter)) ∧
    (s.mode ≠ .encode ∨ s.estate ≠ .idle → Raises (exec (.encInit 0) s) s .write (.logic .badMode)) ∧
    (∀ b, b ≠ 0 → Raises (exec (.encInit b) s) s .write (.logic .badOperand))

/-- The block at the head of `PCM_IN` is one that R343 accepts: the session is ready under a valid configuration, the size is
within the declared bounds, the numbers still fit, the samples fit the depth, the writer is at a byte boundary. -/
abbrev BlockAcceptable (s : State) (cfg : EncConfig) (blk : PcmIn) (rest : List PcmIn) : Prop :=
  s.faulted = false ∧ s.mode = .encode ∧ s.estate = .ready ∧ s.cfg = some cfg ∧ configError cfg = none ∧
    s.pcmIn = blk :: rest ∧ cfg.minBlocksize ≤ blk.blocksize ∧ blk.blocksize ≤ cfg.maxBlocksize ∧
    s.encSamples + blk.blocksize < 2 ^ 36 ∧ s.encFrameNo < 2 ^ 31 ∧ blk.samples.length = cfg.channels ∧
    (∀ row ∈ blk.samples, row.length = blk.blocksize ∧ ∀ v ∈ row, fitsS v cfg.bps) ∧ s.smp.length = 8 ∧
    s.md5.done = false ∧ s.out.length % 8 = 0

/-- R343, R345, and R348, an inference the spec marks as its own ("derived: from rules R341 to R347"): `ENC_BLOCK` completes
on every block it accepts, whatever the implementation's selection functions choose: one frame of whole bytes is appended, the
block is taken, its samples are hashed as pushed, the counters follow. -/
def Obligations.EncodingNeverFailsOnSampleContent : Prop :=
  ∀ (s : State) (cfg : EncConfig) (blk : PcmIn) (rest : List PcmIn), BlockAcceptable s cfg blk rest →
    ∃ (t : State) (len : Nat) (frame : List Byte),
      exec .encBlock s = .next t ∧ t.reply = some (.ok (.nat len)) ∧ frame.length = len ∧
      t.out = s.out ++ bytesBits frame ∧ t.pcmIn = rest ∧ t.encFrameNo = s.encFrameNo + 1 ∧
      t.encSamples = s.encSamples + blk.blocksize ∧ t.encMinFs = min s.encMinFs len ∧
      (len < 2 ^ 24 → t.encMaxFs = max s.encMaxFs len) ∧
      t.md5 = (hashBytes blk.samples blk.blocksize cfg.bps).foldl md5Byte s.md5 ∧
      crc16Of frame = 0#16 ∧
      { t with
        out := s.out, pcmIn := s.pcmIn, encFrameNo := s.encFrameNo, encSamples := s.encSamples, encMinFs := s.encMinFs
        encMaxFs := s.encMaxFs, md5 := s.md5, crc8 := s.crc8, crc16 := s.crc16, fh := s.fh, sf := s.sf, qlp := s.qlp
        qlpPrec := s.qlpPrec, qlpShift := s.qlpShift, rc := s.rc, res := s.res, smp := s.smp
        reply := s.reply } = s

/-- R349, an inference the spec marks as its own ("derived: from rules R343 to R347"), frame by frame: the frame that
`ENC_BLOCK` writes, standing at the cursor of a decoder that has read the matching StreamInfo, is decoded by `DEC_FRAME` into
the samples that were pushed; it consumes exactly the frame. -/
def Obligations.EncodedFrameDecodesToItsBlock : Prop :=
  ∀ (s t d : State) (cfg : EncConfig) (blk : PcmIn) (rest : List PcmIn) (si : StreamInfo),
    BlockAcceptable s cfg blk rest → exec .encBlock s = .next t →
    d.faulted = false → d.mode = .decode → d.brPos % 8 = 0 → d.siValid = true → d.si = some si → d.smp.length = 8 →
    si.channels = cfg.channels → si.bps = cfg.bps → si.sampleRate = cfg.sampleRate → si.maxBlocksize = cfg.maxBlocksize →
    AtCursor d (t.out.drop s.out.length) →
    ∃ u, exec .decFrame d = .next u ∧ u.reply = some (.ok .none) ∧
      u.brPos + s.out.length = d.brPos + t.out.length ∧ u.fh.valid = true ∧ u.fh.blocksize = some blk.blocksize ∧
      u.fh.channels = some cfg.channels ∧ u.fh.bps = some cfg.bps ∧ u.fh.sampleRate = some cfg.sampleRate ∧
      (u.smp.take cfg.channels).map (·.take blk.blocksize) = blk.samples ∧
      { u with
        brPos := d.brPos, fh := d.fh, sf := d.sf, qlp := d.qlp, qlpPrec := d.qlpPrec, qlpShift := d.qlpShift, rc := d.rc
        res := d.res, smp := d.smp, crc8 := d.crc8, crc16 := d.crc16, reply := d.reply } = d

/-- R315, R316 with R109, R317 and R318: `DEC_FRAME` completes on every frame whose header agrees with StreamInfo and whose
channels can be decoded (`ReadyFor`, `ChannelOk`), zero padding and the right CRC-16 behind them: the block, the header registers
and the bytes consumed are the frame's. A padding bit of 1, another CRC-16, a block that does not fit its depth once the
decorrelation is undone are refused, the cursor after the last bit read; so are another mode and an unaligned cursor. A frame that
fails before its CRC-16 leaves `CRC16` at the 0 that R424 gives it at the start (log 31). That the mode is found ahead of the
alignment is the model's order (log 16). -/
def Obligations.FramesDecodeOrAreRefused : Prop :=
  ∀ (d : State) (si : StreamInfo) (h : FrameHead) (ks : List CodedChannel) (pad : List Bool) (sum : Nat),
    (ReadyFor d si h → ks.length = channelsOf h.chanAssign →
      (∀ c k, ks[c]? = some k → ChannelOk h c k) → pad.length = alignGap (channelBits h 0 ks).length →
      let first := if h.variable_ = 1 then h.number else h.number * si.maxBlocksize
      let kept := fun u : State =>
        { u with
          brPos := d.brPos, fh := d.fh, sf := d.sf, qlp := d.qlp, qlpPrec := d.qlpPrec, qlpShift := d.qlpShift, rc := d.rc
          res := d.res, smp := d.smp, crc8 := d.crc8, crc16 := d.crc16, status := d.status, report := d.report
          reply := d.reply } = d
      ((∀ x ∈ pad, x = false) → sum < 2 ^ 16 → AtCursor d (bytesBits (frameBody h ks pad) ++ natBits 16 sum) →
        (sum = (crc16Of (frameBody h ks pad)).toNat →
          ((∀ row ∈ decodedBlock h.chanAssign ks, ∀ v ∈ row, fitsS v h.bps) →
            ∃ u, exec .decFrame d = .next u ∧ u.reply = some (.ok .none) ∧
              u.brPos = d.brPos + 8 * (frameBody h ks pad).length + 16 ∧
              (u.smp.take ks.length).map (·.take h.blocksize) = decodedBlock h.chanAssign ks ∧
              u.fh = ⟨some h.variable_, some (bsCodeFor h.blocksize).code, some (srCodeFor h.sampleRate).code,
                some h.chanAssign, some (bpsCodeFor h.bps), some h.number, some h.blocksize, some h.sampleRate,
                some ks.length, some h.bps, some (crc8Of h.body), some 0, some (d.brPos / 8), some first, true⟩ ∧
              u.crc8 = crc8Of h.body ∧ u.crc16.toNat = sum ∧ u.status = d.status ∧ u.report = d.report ∧ kept u) ∧
          ((∃ row ∈ decodedBlock h.chanAssign ks, ∃ v ∈ row, ¬ fitsS v h.bps) →
            ∃ u, exec .decFrame d = .next u ∧ u.reply = some (.fault (.sync .rangeError)) ∧
              u.brPos = d.brPos + 8 * (frameBody h ks pad).length + 16 ∧ kept u)) ∧
        (sum ≠ (crc16Of (frameBody h ks pad)).toNat →
          ∃ u, exec .decFrame d = .next u ∧ u.reply = some (.fault (.sync .frameCrc16)) ∧ u.flag .crc16Err = true ∧
            u.brPos = d.brPos + 8 * (frameBody h ks pad).length + 16 ∧ kept u)) ∧
      (∀ z rest, pad = List.replicate z false ++ true :: rest → AtCursor d (bytesBits (frameBody h ks pad)) →
        ∃ u, exec .decFrame d = .next u ∧ u.reply = some (.fault (.sync .badPadding)) ∧
          u.brPos = d.brPos + 8 * h.bytes.length + (channelBits h 0 ks).length + z + 1 ∧ u.crc8 = crc8Of h.body ∧
          u.crc16 = 0x0000#16 ∧ kept u)) ∧
    (d.faulted = false → d.mode ≠ .decode → Raises (exec .decFrame d) d .read (.logic .badMode)) ∧
    (d.faulted = false → d.mode = .decode → d.brPos % 8 ≠ 0 → Raises (exec .decFrame d) d .read (.logic .notAligned))

/-- R343, R375: no block, no effect; a block outside the declared bounds, or numbers that no longer fit, fail the session before
anything is written or hashed (the block stays queued: 00_scope.md R15's default, log 21); a sample outside the depth is the
caller's error, which leaves `ESTATE` and the queue (log 13). In another mode or state `ENC_BLOCK` and `ENC_FINISH` are refused,
whatever configuration there is or is none. -/
def Obligations.BlockRefusals : Prop :=
  ∀ s : State, s.faulted = false →
    (s.mode = .encode → s.estate = .ready → s.pcmIn = [] → Answers (exec .encBlock s) s (.nat 0)) ∧
    (∀ (cfg : EncConfig) (blk : PcmIn) (rest : List PcmIn), s.mode = .encode → s.estate = .ready → s.cfg = some cfg →
      s.pcmIn = blk :: rest →
      let fails := fun sub =>
        exec .encBlock s = .next (s.takeException { s with estate := .failed } .write (.config sub))
      let sized := cfg.minBlocksize ≤ blk.blocksize ∧ blk.blocksize ≤ cfg.maxBlocksize
      let numbered := s.encSamples + blk.blocksize < 2 ^ 36 ∧ s.encFrameNo < 2 ^ 31
      (¬ sized → fails .blockSize) ∧ (sized → ¬ numbered → fails .streamTooLong) ∧
      (sized → numbered → (∃ row ∈ blk.samples, ∃ v ∈ row, ¬ fitsS v cfg.bps) →
        Raises (exec .encBlock s) s .write (.logic .valueOutOfRange))) ∧
    (s.mode ≠ .encode ∨ s.estate ≠ .ready →
      Raises (exec .encBlock s) s .write (.logic .badMode) ∧ Raises (exec .encFinish s) s .write (.logic .badMode))

/-- R347: the final StreamInfo: the digest of what was hashed, the true sample count, the frame sizes if there was a frame; its
34 bytes on `SI_OUT`; nothing on `W`. -/
def Obligations.FinishGivesTheFinalStreamInfo : Prop :=
  ∀ (s : State) (si : StreamInfo) (e : Md5Regs), s.faulted = false → s.mode = .encode → s.estate = .ready → s.si = some si →
    s.md5.done = false → e = (md5Padding s.md5.len).foldl md5Byte s.md5 →
    si.InWidth → s.encSamples < 2 ^ 36 → s.encMinFs < 2 ^ 24 → s.encMaxFs < 2 ^ 24 →
    let final := { si with
      md5 := md5Digest e
      totalSamples := s.encSamples
      minFramesize := if s.encFrameNo = 0 then si.minFramesize else s.encMinFs
      maxFramesize := if s.encFrameNo = 0 then si.maxFramesize else s.encMaxFs }
    ∃ body : List Byte, body.length = 34 ∧ bytesBits body = final.bits ∧
      Answers (exec .encFinish s)
        { s with
          md5 := { e with done := true, digest := some (md5Digest e) }
          si := some final
          siOut := s.siOut ++ [body]
          estate := .finished } .none

/-! ### The seek index -/

/-- The 18 bytes of a seek point (30_encoding.md R107). -/
def Sys2Proof.Machine.SeekPoint.bytes (p : SeekPoint) : List Byte :=
  beBytes 8 p.sample ++ beBytes 8 p.offset ++ beBytes 2 p.nsamples

/-- R361, R362, and R364, an inference the spec marks as its own ("derived: from rules R361 and R362"): a body of increasing
points loads them, placeholders dropped wherever they stand; every body loads to an index that increases strictly, a body of broken
length or order to the empty one; a lookup returns the offset of the last point at or before the target, if there is one; it changes
nothing. That a byte count of 2^24 or more is a `LogicError(WidthOutOfRange)` is read from R374 (log 18); the position in that report
is a free value (log 7). -/
def Obligations.SeekIndexLaws : Prop :=
  (∀ (s : State) (len : Nat), s.faulted = false → 2 ^ 24 ≤ len →
    Raises (exec (.seekLoad len) s) s (.none (.seekLoad len)) (.logic .widthOutOfRange)) ∧
  (∀ (s : State) (body : List Byte), s.faulted = false → s.payload = .bytes body → body.length < 2 ^ 24 →
    ∃ pts : List SeekPoint, Answers (exec (.seekLoad body.length) s) { s with seek := pts } (.nat pts.length) ∧
      pts.Pairwise (fun p q => p.sample < q.sample) ∧
      (body.length % 18 ≠ 0 → pts = []) ∧
      (∀ all : List SeekPoint, (∀ p ∈ all, p.sample < 2 ^ 64 ∧ p.offset < 2 ^ 64 ∧ p.nsamples < 2 ^ 16) →
        body = all.flatMap SeekPoint.bytes →
        let real := all.filter fun p => p.sample ≠ 2 ^ 64 - 1
        (real.Pairwise (fun p q => p.sample < q.sample) → pts = real) ∧
        (¬ real.Pairwise (fun p q => p.sample < q.sample) → pts = []))) ∧
  (∀ (s : State) (target : Nat), s.faulted = false → s.seek.Pairwise (fun p q => p.sample < q.sample) →
    ((∀ p ∈ s.seek, target < p.sample) → Answers (exec (.seekLookup target) s) s (.offset none)) ∧
    (∀ p ∈ s.seek, p.sample ≤ target → (∀ q ∈ s.seek, q.sample ≤ target → q.sample ≤ p.sample) →
      Answers (exec (.seekLookup target) s) s (.offset (some p.offset))))

/-! ### Wire structures as instructions -/

/-- Under the model's choice that wire structures are instructions (log 4), input and cursor staying. R104, R106, R107: a metadata
block header, a StreamInfo body and a seek point, each handed over as an instruction, act as `MBH_READ` (R222), `SI_READ` (R223) and
`SEEK_LOAD` (R361) do on those bits, with the modes the model asks of those (log 15). R110, R121, R130, R135: the fixed part of a
frame header, a subframe header byte of each type, a residual header and a frame footer act as `FH_PARSE` (R227), `SF_DEC` (R251),
`RES_DECODE` (R284) and `DEC_FRAME` (R315) do on those bits (a header's start sets `CRC8` to 0, R424); their reserved codes raise what
those rules say. -/
def Obligations.WireStructures : Prop :=
  (∀ s : State, s.faulted = false →
    (∀ last type length, last < 2 → type < 2 ^ 7 → length < 2 ^ 24 →
      (s.mode ≠ .encode → s.mbCount + 1 < 2 ^ 32 →
        Answers (exec (.wireMbHeader last type length) s)
          { s with mb := some ⟨last = 1, type, length⟩, mbCount := s.mbCount + 1 } .none) ∧
      (s.mode = .encode → Raises (exec (.wireMbHeader last type length) s) s .read (.logic .badMode))) ∧
    (∀ minBs maxBs minFs maxFs rate ch bps total md5, minBs < 2 ^ 16 → maxBs < 2 ^ 16 → minFs < 2 ^ 24 → maxFs < 2 ^ 24 →
      rate < 2 ^ 20 → ch < 2 ^ 3 → bps < 2 ^ 5 → total < 2 ^ 36 → md5 < 2 ^ 128 → s.mode ≠ .encode →
      (s.siValid = false →
        Answers (exec (.wireStreamInfo minBs maxBs minFs maxFs rate ch bps total md5) s)
          { s with si := some ⟨minBs, maxBs, minFs, maxFs, rate, ch + 1, bps + 1, total, BitVec.ofNat 128 md5⟩ } .none) ∧
      (s.siValid = true →
        Raises (exec (.wireStreamInfo minBs maxBs minFs maxFs rate ch bps total md5) s) s .read
          (.structural .duplicateStreamInfo))) ∧
    (∀ sample offset nsamples, sample < 2 ^ 64 → offset < 2 ^ 64 → nsamples < 2 ^ 16 →
      Answers (exec (.wireSeekpoint sample offset nsamples) s)
        { s with seek := if sample = 2 ^ 64 - 1 then [] else [⟨sample, offset, nsamples⟩] } .none)) ∧
  (∀ s : State, s.faulted = false → s.mode ≠ .encode →
    (∀ r v b sr ca d, r < 2 → v < 2 → b < 2 ^ 4 → sr < 2 ^ 4 → ca < 2 ^ 4 → d < 2 ^ 3 →
      (sr ≠ 15 →
        Answers (exec (.wireFrameHeader r v b sr ca d) s)
          { s with
            crc8 := 0x00#8
            fh := { s.fh with
              variable_ := some v
              bsCode := some b
              srCode := some sr
              chanAssign := some ca
              bpsCode := some d
              reserved := some r
              valid := false } } .none) ∧
      (sr = 15 →
        exec (.wireFrameHeader r v b sr ca d) s = .next (s.takeException
          { s with crc8 := 0x00#8, fh := { s.fh with valid := false } } .read (.sync .headerReserved)))) ∧
    (∀ w, w < 2 →
      let wasted := if w = 0 then some 0 else s.sf.wasted
      Answers (exec (.wireSfConstant w) s)
        { s with sf := { s.sf with type := some .constant, order := some 0, wasted := wasted } } .none ∧
      Answers (exec (.wireSfVerbatim w) s)
        { s with sf := { s.sf with type := some .verbatim, order := some 0, wasted := wasted } } .none ∧
      (∀ o, o ≤ 4 → Answers (exec (.wireSfFixed o w) s)
        { s with sf := { s.sf with type := some .fixed, order := some o, wasted := wasted } } .none) ∧
      (∀ o, 5 ≤ o → o ≤ 7 → Raises (exec (.wireSfFixed o w) s) s .read (.sync .subframeReserved)) ∧
      (∀ o, o < 2 ^ 5 → Answers (exec (.wireSfLpc o w) s)
        { s with sf := { s.sf with type := some .lpc, order := some (o + 1), wasted := wasted } } .none)) ∧
    (∀ n o m p, s.fh.blocksize = some n → s.sf.order = some o → m < 2 ^ 2 → p < 2 ^ 4 →
      (m < 2 → p ≤ 8 → n % 2 ^ p = 0 → o ≤ n / 2 ^ p →
        Answers (exec (.wireResHeader m p) s) { s with rc := { s.rc with method := some m, porder := some p } } .none) ∧
      (2 ≤ m ∨ 8 < p ∨ n % 2 ^ p ≠ 0 ∨ n / 2 ^ p < o →
        Raises (exec (.wireResHeader m p) s) s .read (.sync .badResidual))) ∧
    (∀ start crc sum, s.fh.start = some start → crc < 2 ^ 16 →
      sum = crc16Of ((s.input.drop start).take (s.brPos / 8 - start)) →
      (sum.toNat = crc → Answers (exec (.wireFrameFooter crc) s) { s with crc16 := sum } .none) ∧
      (sum.toNat ≠ crc →
        exec (.wireFrameFooter crc) s = .next (s.takeException ({ s with crc16 := sum }.setFlag .crc16Err) .read
          (.sync .frameCrc16)))))

/-! ### The whole machine -/

/-- R21: an operation in a mode that does not accept it raises `LogicError(BadMode)` and does nothing else, whatever its operands and
whatever else is wrong: in mode Encode every operation that reads the input, the wire structures that such an operation reads among
them (which they are is the model's reading, log 15; wire structures as instructions, log 4); outside mode Decode `DEC_*`; outside
mode Encode `ENC_*`, `PCM_PUSH` (R83) and the encoder's selections (R271, R291, R346). That the mode is found ahead of every other
refusal but an unused field (`ENC_INIT`'s `b`) is the model's order (log 16). -/
def Obligations.OperationsRefuseTheWrongMode : Prop :=
  ∀ s : State, s.faulted = false →
    (∀ i, ReadsTheInput i → s.mode = .encode → Raises (exec i s) s .read (.logic .badMode)) ∧
    (∀ i ∈ [.decStep, .decFrame, .decFlush], s.mode ≠ .decode → Raises (exec i s) s .read (.logic .badMode)) ∧
    (∀ i, i ∈ [.encInit 0, .encBlock, .encFinish, .partSelect, .stereoSelect] ∨ (∃ n, i = .pcmPush n) ∨ (∃ c, i = .sfSelect c) →
      s.mode ≠ .encode → Raises (exec i s) s .write (.logic .badMode))

/-- Every step keeps the invariant of a session (`State.Inv`): an input that the spec covers (R42), the cursors inside their
streams (R24, R25), the reserved bits of `STATUS` clear (R29), `SMP` of eight rows (R38), the stream-header, frame-header and
subframe registers and the counters within their widths (R31 to R34, R39, R51), the coefficient file and the partition table within
their ranges (R35, R36), an accepted configuration (R50, R342). -/
def Obligations.StateInvariantKept : Prop :=
  ∀ s t : State, s.Inv → step s = .next t → t.Inv

/-- The invariant holds at reset. -/
def Obligations.StateInvariantAtReset : Prop := State.reset.Inv

/-- R371, R374, R435: what an exception or a hold of any operation does. A `LogicError` changes no state but the flag and the
report (the operation of a sequencer also ends the sequencer); after it every operation but reset and the queue reads is refused
without effect; any other exception sets its flag and adds one report entry; a hold changes nothing, and comes only while more
input may. The reply is the model's port (log 2). -/
def Obligations.FaultDiscipline : Prop :=
  ∀ (i : Instr) (s : State),
    (s.faulted = true → (∀ m, i ≠ .streamReset m) → i ∉ [.outPull, .pcmPop, .mdPop, .reportPop, .siPop] →
      exec i s = .next { s with reply := some (.fault (.logic .faulted)) }) ∧
    (∀ t e, s.faulted = false → exec i s = .next t → t.reply = some (.fault e) →
      t.flag e.flag = true ∧ ∃ pos rest, t.report = s.report ++ .exception e.code e.sub pos :: rest ∧
        ((∀ l, e ≠ .logic l) → rest = []) ∧
        (i ∉ [.decStep, .encBlock, .encFinish] → (∀ b, i ≠ .encInit b) → rest = [])) ∧
    (∀ t l, s.faulted = false → exec i s = .next t → t.reply = some (.fault (.logic l)) → t.faulted = true ∧
      { t with
        status := s.status, report := s.report, reply := s.reply, dstate := s.dstate
        estate := s.estate, verdict := s.verdict, fatalCode := s.fatalCode, fatalSub := s.fatalSub } = s ∧
      (i ∉ [.decStep, .encBlock, .encFinish] → (∀ b, i ≠ .encInit b) →
        t.status = s.status ||| 0x0002#16 ∧ t.dstate = s.dstate ∧ t.estate = s.estate ∧ t.verdict = s.verdict ∧
        t.fatalCode = s.fatalCode ∧ t.fatalSub = s.fatalSub)) ∧
    (∀ t, exec i s = .next t → t.reply = some .hold → t = { s with reply := some .hold } ∧ s.inEof = false)

/-- R21, R25, R29, R31, R50, R311: what no operation but `STREAM_RESET` takes back: flags stay set, output and input are only
appended to, the read cursor only advances (`DEC_FLUSH` alone discards input), queues shrink only at the host's pops; the mode,
the configuration in use, the validated StreamInfo of a decode, and the terminal states with verdict and fatal code stay. -/
def Obligations.OnlyResetTakesBack : Prop :=
  ∀ (i : Instr) (s t : State), (∀ m, i ≠ .streamReset m) → exec i s = .next t →
    (∀ f, s.flag f = true → t.flag f = true) ∧
    s.out <+: t.out ∧
    (i ≠ .decFlush → s.input <+: t.input ∧ (s.inEof = true → t.inEof = true) ∧ (s.CursorsInside → s.brPos ≤ t.brPos)) ∧
    (i ≠ .reportPop → s.report <+: t.report) ∧
    (i ≠ .pcmPop → s.pcmOut <+: t.pcmOut) ∧
    (i ≠ .mdPop → s.mdOut <+: t.mdOut) ∧
    (i ≠ .siPop → s.siOut <+: t.siOut) ∧
    t.mode = s.mode ∧
    (s.estate ≠ .idle → t.cfg = s.cfg) ∧
    (s.mode ≠ .encode → s.siValid = true → t.si = s.si ∧ t.siValid = true) ∧
    (s.dstate = .done ∨ s.dstate = .fatalError →
      t.dstate = s.dstate ∧ t.verdict = s.verdict ∧ t.fatalCode = s.fatalCode ∧ t.fatalSub = s.fatalSub) ∧
    (s.estate = .finished ∨ s.estate = .failed → t.estate = s.estate)

/-- R435's inference ("derived: from 20_memory.md rule R84 and 00_scope.md rule R3"): how the stream is cut into pushes
changes nothing: a decoder step that does not hold does the same when later bytes are already there. -/
def Obligations.LaterPushesDoNotMatter : Prop :=
  ∀ (s t : State) (later : List Byte), s.faulted = false → s.mode = .decode → s.CursorsInside → s.inEof = false →
    exec .decStep s = .next t → t.reply ≠ some .hold →
    exec .decStep { s with input := s.input ++ later } = .next { t with input := s.input ++ later }

/-- R390, an inference the spec marks as its own ("derived: from 46_decoder_pipeline.md rules R312 to R314 and rules R382,
R383"): once the input has ended, a terminal state is reached within `2 * (IN_LEN - BR_POS div 8) + 4` steps, from every live
decode state, whatever the bytes. -/
def Obligations.DecodeTerminates : Prop :=
  ∀ s : State, s.faulted = false → s.mode = .decode → s.CursorsInside → s.inEof = true →
    ∃ k, k ≤ 2 * (s.input.length - s.brPos / 8) + 4 ∧
      ((decSteps k s).dstate = .done ∨ (decSteps k s).dstate = .fatalError)
end

