-- ==== Sys2Proof/Laws/State.lean ====
section
/-! SUPPORT. One lemma per field per named update of the state, each true by `rfl`. -/

namespace Sys2Proof.Machine

/-! ### A bound on a register -/

@[simp] theorem below_none (bound : Nat) : Below none bound := fun _ h => by cases h
@[simp] theorem below_some {v bound : Nat} : Below (some v) bound ↔ v < bound := by simp [Below]

/-! ### `setFlag` writes `STATUS` -/

@[simp] theorem State.setFlag_status (s : State) (f : Flag) : (s.setFlag f).status = s.status ||| f.mask := rfl
@[simp] theorem State.setFlag_mode (s : State) (f : Flag) : (s.setFlag f).mode = s.mode := rfl
@[simp] theorem State.setFlag_dstate (s : State) (f : Flag) : (s.setFlag f).dstate = s.dstate := rfl
@[simp] theorem State.setFlag_estate (s : State) (f : Flag) : (s.setFlag f).estate = s.estate := rfl
@[simp] theorem State.setFlag_verdict (s : State) (f : Flag) : (s.setFlag f).verdict = s.verdict := rfl
@[simp] theorem State.setFlag_fatalCode (s : State) (f : Flag) : (s.setFlag f).fatalCode = s.fatalCode := rfl
@[simp] theorem State.setFlag_fatalSub (s : State) (f : Flag) : (s.setFlag f).fatalSub = s.fatalSub := rfl
@[simp] theorem State.setFlag_input (s : State) (f : Flag) : (s.setFlag f).input = s.input := rfl
@[simp] theorem State.setFlag_inEof (s : State) (f : Flag) : (s.setFlag f).inEof = s.inEof := rfl
@[simp] theorem State.setFlag_brPos (s : State) (f : Flag) : (s.setFlag f).brPos = s.brPos := rfl
@[simp] theorem State.setFlag_out (s : State) (f : Flag) : (s.setFlag f).out = s.out := rfl
@[simp] theorem State.setFlag_outRd (s : State) (f : Flag) : (s.setFlag f).outRd = s.outRd := rfl
@[simp] theorem State.setFlag_crc8 (s : State) (f : Flag) : (s.setFlag f).crc8 = s.crc8 := rfl
@[simp] theorem State.setFlag_crc16 (s : State) (f : Flag) : (s.setFlag f).crc16 = s.crc16 := rfl
@[simp] theorem State.setFlag_md5 (s : State) (f : Flag) : (s.setFlag f).md5 = s.md5 := rfl
@[simp] theorem State.setFlag_si (s : State) (f : Flag) : (s.setFlag f).si = s.si := rfl
@[simp] theorem State.setFlag_siValid (s : State) (f : Flag) : (s.setFlag f).siValid = s.siValid := rfl
@[simp] theorem State.setFlag_mb (s : State) (f : Flag) : (s.setFlag f).mb = s.mb := rfl
@[simp] theorem State.setFlag_mbCount (s : State) (f : Flag) : (s.setFlag f).mbCount = s.mbCount := rfl
@[simp] theorem State.setFlag_fh (s : State) (f : Flag) : (s.setFlag f).fh = s.fh := rfl
@[simp] theorem State.setFlag_sf (s : State) (f : Flag) : (s.setFlag f).sf = s.sf := rfl
@[simp] theorem State.setFlag_qlp (s : State) (f : Flag) : (s.setFlag f).qlp = s.qlp := rfl
@[simp] theorem State.setFlag_qlpPrec (s : State) (f : Flag) : (s.setFlag f).qlpPrec = s.qlpPrec := rfl
@[simp] theorem State.setFlag_qlpShift (s : State) (f : Flag) : (s.setFlag f).qlpShift = s.qlpShift := rfl
@[simp] theorem State.setFlag_rc (s : State) (f : Flag) : (s.setFlag f).rc = s.rc := rfl
@[simp] theorem State.setFlag_res (s : State) (f : Flag) : (s.setFlag f).res = s.res := rfl
@[simp] theorem State.setFlag_smp (s : State) (f : Flag) : (s.setFlag f).smp = s.smp := rfl
@[simp] theorem State.setFlag_framesOk (s : State) (f : Flag) : (s.setFlag f).framesOk = s.framesOk := rfl
@[simp] theorem State.setFlag_samplesOk (s : State) (f : Flag) : (s.setFlag f).samplesOk = s.samplesOk := rfl
@[simp] theorem State.setFlag_skipStart (s : State) (f : Flag) : (s.setFlag f).skipStart = s.skipStart := rfl
@[simp] theorem State.setFlag_firstFramePos (s : State) (f : Flag) : (s.setFlag f).firstFramePos = s.firstFramePos := rfl
@[simp] theorem State.setFlag_resyncs (s : State) (f : Flag) : (s.setFlag f).resyncs = s.resyncs := rfl
@[simp] theorem State.setFlag_pcmOut (s : State) (f : Flag) : (s.setFlag f).pcmOut = s.pcmOut := rfl
@[simp] theorem State.setFlag_mdOut (s : State) (f : Flag) : (s.setFlag f).mdOut = s.mdOut := rfl
@[simp] theorem State.setFlag_report (s : State) (f : Flag) : (s.setFlag f).report = s.report := rfl
@[simp] theorem State.setFlag_pcmIn (s : State) (f : Flag) : (s.setFlag f).pcmIn = s.pcmIn := rfl
@[simp] theorem State.setFlag_siOut (s : State) (f : Flag) : (s.setFlag f).siOut = s.siOut := rfl
@[simp] theorem State.setFlag_cfg (s : State) (f : Flag) : (s.setFlag f).cfg = s.cfg := rfl
@[simp] theorem State.setFlag_encFrameNo (s : State) (f : Flag) : (s.setFlag f).encFrameNo = s.encFrameNo := rfl
@[simp] theorem State.setFlag_encSamples (s : State) (f : Flag) : (s.setFlag f).encSamples = s.encSamples := rfl
@[simp] theorem State.setFlag_encMinFs (s : State) (f : Flag) : (s.setFlag f).encMinFs = s.encMinFs := rfl
@[simp] theorem State.setFlag_encMaxFs (s : State) (f : Flag) : (s.setFlag f).encMaxFs = s.encMaxFs := rfl
@[simp] theorem State.setFlag_seek (s : State) (f : Flag) : (s.setFlag f).seek = s.seek := rfl
@[simp] theorem State.setFlag_cmdq (s : State) (f : Flag) : (s.setFlag f).cmdq = s.cmdq := rfl
@[simp] theorem State.setFlag_payload (s : State) (f : Flag) : (s.setFlag f).payload = s.payload := rfl
@[simp] theorem State.setFlag_reply (s : State) (f : Flag) : (s.setFlag f).reply = s.reply := rfl

/-! ### `record` writes `STATUS` and `REPORT` -/

@[simp] theorem State.record_status (s : State) (e : Exc) (pos : Nat) :
    (s.record e pos).status = s.status ||| e.flag.mask := rfl
@[simp] theorem State.record_report (s : State) (e : Exc) (pos : Nat) :
    (s.record e pos).report = s.report ++ [.exception e.code e.sub pos] := rfl
@[simp] theorem State.record_mode (s : State) (e : Exc) (pos : Nat) : (s.record e pos).mode = s.mode := rfl
@[simp] theorem State.record_dstate (s : State) (e : Exc) (pos : Nat) : (s.record e pos).dstate = s.dstate := rfl
@[simp] theorem State.record_estate (s : State) (e : Exc) (pos : Nat) : (s.record e pos).estate = s.estate := rfl
@[simp] theorem State.record_verdict (s : State) (e : Exc) (pos : Nat) : (s.record e pos).verdict = s.verdict := rfl
@[simp] theorem State.record_fatalCode (s : State) (e : Exc) (pos : Nat) : (s.record e pos).fatalCode = s.fatalCode := rfl
@[simp] theorem State.record_fatalSub (s : State) (e : Exc) (pos : Nat) : (s.record e pos).fatalSub = s.fatalSub := rfl
@[simp] theorem State.record_input (s : State) (e : Exc) (pos : Nat) : (s.record e pos).input = s.input := rfl
@[simp] theorem State.record_inEof (s : State) (e : Exc) (pos : Nat) : (s.record e pos).inEof = s.inEof := rfl
@[simp] theorem State.record_brPos (s : State) (e : Exc) (pos : Nat) : (s.record e pos).brPos = s.brPos := rfl
@[simp] theorem State.record_out (s : State) (e : Exc) (pos : Nat) : (s.record e pos).out = s.out := rfl
@[simp] theorem State.record_outRd (s : State) (e : Exc) (pos : Nat) : (s.record e pos).outRd = s.outRd := rfl
@[simp] theorem State.record_crc8 (s : State) (e : Exc) (pos : Nat) : (s.record e pos).crc8 = s.crc8 := rfl
@[simp] theorem State.record_crc16 (s : State) (e : Exc) (pos : Nat) : (s.record e pos).crc16 = s.crc16 := rfl
@[simp] theorem State.record_md5 (s : State) (e : Exc) (pos : Nat) : (s.record e pos).md5 = s.md5 := rfl
@[simp] theorem State.record_si (s : State) (e : Exc) (pos : Nat) : (s.record e pos).si = s.si := rfl
@[simp] theorem State.record_siValid (s : State) (e : Exc) (pos : Nat) : (s.record e pos).siValid = s.siValid := rfl
@[simp] theorem State.record_mb (s : State) (e : Exc) (pos : Nat) : (s.record e pos).mb = s.mb := rfl
@[simp] theorem State.record_mbCount (s : State) (e : Exc) (pos : Nat) : (s.record e pos).mbCount = s.mbCount := rfl
@[simp] theorem State.record_fh (s : State) (e : Exc) (pos : Nat) : (s.record e pos).fh = s.fh := rfl
@[simp] theorem State.record_sf (s : State) (e : Exc) (pos : Nat) : (s.record e pos).sf = s.sf := rfl
@[simp] theorem State.record_qlp (s : State) (e : Exc) (pos : Nat) : (s.record e pos).qlp = s.qlp := rfl
@[simp] theorem State.record_qlpPrec (s : State) (e : Exc) (pos : Nat) : (s.record e pos).qlpPrec = s.qlpPrec := rfl
@[simp] theorem State.record_qlpShift (s : State) (e : Exc) (pos : Nat) : (s.record e pos).qlpShift = s.qlpShift := rfl
@[simp] theorem State.record_rc (s : State) (e : Exc) (pos : Nat) : (s.record e pos).rc = s.rc := rfl
@[simp] theorem State.record_res (s : State) (e : Exc) (pos : Nat) : (s.record e pos).res = s.res := rfl
@[simp] theorem State.record_smp (s : State) (e : Exc) (pos : Nat) : (s.record e pos).smp = s.smp := rfl
@[simp] theorem State.record_framesOk (s : State) (e : Exc) (pos : Nat) : (s.record e pos).framesOk = s.framesOk := rfl
@[simp] theorem State.record_samplesOk (s : State) (e : Exc) (pos : Nat) : (s.record e pos).samplesOk = s.samplesOk := rfl
@[simp] theorem State.record_skipStart (s : State) (e : Exc) (pos : Nat) : (s.record e pos).skipStart = s.skipStart := rfl
@[simp] theorem State.record_firstFramePos (s : State) (e : Exc) (pos : Nat) : (s.record e pos).firstFramePos = s.firstFramePos := rfl
@[simp] theorem State.record_resyncs (s : State) (e : Exc) (pos : Nat) : (s.record e pos).resyncs = s.resyncs := rfl
@[simp] theorem State.record_pcmOut (s : State) (e : Exc) (pos : Nat) : (s.record e pos).pcmOut = s.pcmOut := rfl
@[simp] theorem State.record_mdOut (s : State) (e : Exc) (pos : Nat) : (s.record e pos).mdOut = s.mdOut := rfl
@[simp] theorem State.record_pcmIn (s : State) (e : Exc) (pos : Nat) : (s.record e pos).pcmIn = s.pcmIn := rfl
@[simp] theorem State.record_siOut (s : State) (e : Exc) (pos : Nat) : (s.record e pos).siOut = s.siOut := rfl
@[simp] theorem State.record_cfg (s : State) (e : Exc) (pos : Nat) : (s.record e pos).cfg = s.cfg := rfl
@[simp] theorem State.record_encFrameNo (s : State) (e : Exc) (pos : Nat) : (s.record e pos).encFrameNo = s.encFrameNo := rfl
@[simp] theorem State.record_encSamples (s : State) (e : Exc) (pos : Nat) : (s.record e pos).encSamples = s.encSamples := rfl
@[simp] theorem State.record_encMinFs (s : State) (e : Exc) (pos : Nat) : (s.record e pos).encMinFs = s.encMinFs := rfl
@[simp] theorem State.record_encMaxFs (s : State) (e : Exc) (pos : Nat) : (s.record e pos).encMaxFs = s.encMaxFs := rfl
@[simp] theorem State.record_seek (s : State) (e : Exc) (pos : Nat) : (s.record e pos).seek = s.seek := rfl
@[simp] theorem State.record_cmdq (s : State) (e : Exc) (pos : Nat) : (s.record e pos).cmdq = s.cmdq := rfl
@[simp] theorem State.record_payload (s : State) (e : Exc) (pos : Nat) : (s.record e pos).payload = s.payload := rfl
@[simp] theorem State.record_reply (s : State) (e : Exc) (pos : Nat) : (s.record e pos).reply = s.reply := rfl

/-! ### `enterFatal` writes `STATUS`, `VERDICT`, `FATAL_CODE`, `FATAL_SUB`, `REPORT`, `DSTATE` -/

@[simp] theorem State.enterFatal_status (s : State) (e : Exc) :
    (s.enterFatal e).status = s.status ||| Flag.partial_.mask := rfl
@[simp] theorem State.enterFatal_verdict (s : State) (e : Exc) : (s.enterFatal e).verdict = .notVerified := rfl
@[simp] theorem State.enterFatal_fatalCode (s : State) (e : Exc) : (s.enterFatal e).fatalCode = e.code := rfl
@[simp] theorem State.enterFatal_fatalSub (s : State) (e : Exc) : (s.enterFatal e).fatalSub = e.sub := rfl
@[simp] theorem State.enterFatal_dstate (s : State) (e : Exc) : (s.enterFatal e).dstate = .fatalError := rfl
@[simp] theorem State.enterFatal_report (s : State) (e : Exc) :
    (s.enterFatal e).report = s.report ++ [.final .notVerified s.framesOk s.samplesOk s.resyncs] := rfl
@[simp] theorem State.enterFatal_mode (s : State) (e : Exc) : (s.enterFatal e).mode = s.mode := rfl
@[simp] theorem State.enterFatal_estate (s : State) (e : Exc) : (s.enterFatal e).estate = s.estate := rfl
@[simp] theorem State.enterFatal_input (s : State) (e : Exc) : (s.enterFatal e).input = s.input := rfl
@[simp] theorem State.enterFatal_inEof (s : State) (e : Exc) : (s.enterFatal e).inEof = s.inEof := rfl
@[simp] theorem State.enterFatal_brPos (s : State) (e : Exc) : (s.enterFatal e).brPos = s.brPos := rfl
@[simp] theorem State.enterFatal_out (s : State) (e : Exc) : (s.enterFatal e).out = s.out := rfl
@[simp] theorem State.enterFatal_outRd (s : State) (e : Exc) : (s.enterFatal e).outRd = s.outRd := rfl
@[simp] theorem State.enterFatal_crc8 (s : State) (e : Exc) : (s.enterFatal e).crc8 = s.crc8 := rfl
@[simp] theorem State.enterFatal_crc16 (s : State) (e : Exc) : (s.enterFatal e).crc16 = s.crc16 := rfl
@[simp] theorem State.enterFatal_md5 (s : State) (e : Exc) : (s.enterFatal e).md5 = s.md5 := rfl
@[simp] theorem State.enterFatal_si (s : State) (e : Exc) : (s.enterFatal e).si = s.si := rfl
@[simp] theorem State.enterFatal_siValid (s : State) (e : Exc) : (s.enterFatal e).siValid = s.siValid := rfl
@[simp] theorem State.enterFatal_mb (s : State) (e : Exc) : (s.enterFatal e).mb = s.mb := rfl
@[simp] theorem State.enterFatal_mbCount (s : State) (e : Exc) : (s.enterFatal e).mbCount = s.mbCount := rfl
@[simp] theorem State.enterFatal_fh (s : State) (e : Exc) : (s.enterFatal e).fh = s.fh := rfl
@[simp] theorem State.enterFatal_sf (s : State) (e : Exc) : (s.enterFatal e).sf = s.sf := rfl
@[simp] theorem State.enterFatal_qlp (s : State) (e : Exc) : (s.enterFatal e).qlp = s.qlp := rfl
@[simp] theorem State.enterFatal_qlpPrec (s : State) (e : Exc) : (s.enterFatal e).qlpPrec = s.qlpPrec := rfl
@[simp] theorem State.enterFatal_qlpShift (s : State) (e : Exc) : (s.enterFatal e).qlpShift = s.qlpShift := rfl
@[simp] theorem State.enterFatal_rc (s : State) (e : Exc) : (s.enterFatal e).rc = s.rc := rfl
@[simp] theorem State.enterFatal_res (s : State) (e : Exc) : (s.enterFatal e).res = s.res := rfl
@[simp] theorem State.enterFatal_smp (s : State) (e : Exc) : (s.enterFatal e).smp = s.smp := rfl
@[simp] theorem State.enterFatal_framesOk (s : State) (e : Exc) : (s.enterFatal e).framesOk = s.framesOk := rfl
@[simp] theorem State.enterFatal_samplesOk (s : State) (e : Exc) : (s.enterFatal e).samplesOk = s.samplesOk := rfl
@[simp] theorem State.enterFatal_skipStart (s : State) (e : Exc) : (s.enterFatal e).skipStart = s.skipStart := rfl
@[simp] theorem State.enterFatal_firstFramePos (s : State) (e : Exc) : (s.enterFatal e).firstFramePos = s.firstFramePos := rfl
@[simp] theorem State.enterFatal_resyncs (s : State) (e : Exc) : (s.enterFatal e).resyncs = s.resyncs := rfl
@[simp] theorem State.enterFatal_pcmOut (s : State) (e : Exc) : (s.enterFatal e).pcmOut = s.pcmOut := rfl
@[simp] theorem State.enterFatal_mdOut (s : State) (e : Exc) : (s.enterFatal e).mdOut = s.mdOut := rfl
@[simp] theorem State.enterFatal_pcmIn (s : State) (e : Exc) : (s.enterFatal e).pcmIn = s.pcmIn := rfl
@[simp] theorem State.enterFatal_siOut (s : State) (e : Exc) : (s.enterFatal e).siOut = s.siOut := rfl
@[simp] theorem State.enterFatal_cfg (s : State) (e : Exc) : (s.enterFatal e).cfg = s.cfg := rfl
@[simp] theorem State.enterFatal_encFrameNo (s : State) (e : Exc) : (s.enterFatal e).encFrameNo = s.encFrameNo := rfl
@[simp] theorem State.enterFatal_encSamples (s : State) (e : Exc) : (s.enterFatal e).encSamples = s.encSamples := rfl
@[simp] theorem State.enterFatal_encMinFs (s : State) (e : Exc) : (s.enterFatal e).encMinFs = s.encMinFs := rfl
@[simp] theorem State.enterFatal_encMaxFs (s : State) (e : Exc) : (s.enterFatal e).encMaxFs = s.encMaxFs := rfl
@[simp] theorem State.enterFatal_seek (s : State) (e : Exc) : (s.enterFatal e).seek = s.seek := rfl
@[simp] theorem State.enterFatal_cmdq (s : State) (e : Exc) : (s.enterFatal e).cmdq = s.cmdq := rfl
@[simp] theorem State.enterFatal_payload (s : State) (e : Exc) : (s.enterFatal e).payload = s.payload := rfl
@[simp] theorem State.enterFatal_reply (s : State) (e : Exc) : (s.enterFatal e).reply = s.reply := rfl

end Sys2Proof.Machine
end

