-- ==== Sys2Proof/Laws/Op.lean ====
section
/-! SUPPORT. What each building block of an operation does, once: the monad, the ends of an operation, delivery, the bit
reader and the bit writer. -/

namespace Sys2Proof.Machine

variable {α β : Type}

/-! ### The monad -/

@[simp] theorem pure_run (a : α) (s : State) : (pure a : Op α) s = .ok a s := rfl

theorem bind_run (x : Op α) (f : α → Op β) (s : State) :
    (x >>= f) s = match x s with
      | .ok a t => f a t
      | .error e t => .error e t := by
  show EStateM.bind x f s = _
  unfold EStateM.bind
  cases x s <;> rfl

theorem map_run (g : α → β) (x : Op α) (s : State) :
    (g <$> x) s = match x s with
      | .ok a t => .ok (g a) t
      | .error e t => .error e t := by
  show EStateM.map g x s = _
  unfold EStateM.map
  cases x s <;> rfl

@[simp] theorem map_look (g : α → β) (f : State → α) (s : State) : (g <$> look f) s = .ok (g (f s)) s := rfl
@[simp] theorem map_update (g : Unit → β) (f : State → State) (s : State) : (g <$> update f) s = .ok (g ()) (f s) := rfl

/-- A part that answers hands its answer to the rest. -/
theorem bind_ok {x : Op α} {f : α → Op β} {s t : State} {a : α} (h : x s = .ok a t) : (x >>= f) s = f a t := by
  rw [bind_run, h]

/-- A part that ends the operation ends it. -/
theorem bind_error {x : Op α} {f : α → Op β} {s t : State} {e : Stop} (h : x s = .error e t) :
    (x >>= f) s = .error e t := by
  rw [bind_run, h]

@[simp] theorem look_bind (f : State → α) (g : α → Op β) (s : State) : (look f >>= g) s = g (f s) s := rfl
@[simp] theorem update_bind (f : State → State) (g : Unit → Op β) (s : State) : (update f >>= g) s = g () (f s) := rfl
@[simp] theorem pure_bind_run (a : α) (g : α → Op β) (s : State) : ((pure a : Op α) >>= g) s = g a s := rfl
@[simp] theorem raise_bind (e : Exc) (g : α → Op β) (s : State) : (raise e >>= g) s = .error (.exc e) s := rfl
@[simp] theorem hold_bind (g : α → Op β) (s : State) : (hold >>= g) s = .error .hold s := rfl
@[simp] theorem look_run (f : State → α) (s : State) : look f s = .ok (f s) s := rfl
@[simp] theorem update_run (f : State → State) (s : State) : update f s = .ok () (f s) := rfl
@[simp] theorem raise_run (e : Exc) (s : State) : (raise e : Op α) s = .error (.exc e) s := rfl
@[simp] theorem hold_run (s : State) : (hold : Op α) s = .error .hold s := rfl

/-- A check that holds is passed. -/
@[simp] theorem check_true {c : Prop} [Decidable c] (e : Exc) (s : State) (h : c) : check c e s = .ok () s := by
  simp [check, h]

/-- A check that fails raises its exception, the state as it is. -/
@[simp] theorem check_false {c : Prop} [Decidable c] (e : Exc) (s : State) (h : ¬ c) :
    check c e s = .error (.exc e) s := by
  simp [check, h]

@[simp] theorem check_bind_true {c : Prop} [Decidable c] (e : Exc) (g : Unit → Op β) (s : State) (h : c) :
    (check c e >>= g) s = g () s := bind_ok (check_true e s h)

@[simp] theorem check_bind_false {c : Prop} [Decidable c] (e : Exc) (g : Unit → Op β) (s : State) (h : ¬ c) :
    (check c e >>= g) s = .error (.exc e) s := bind_error (check_false e s h)

@[simp] theorem written_some (v : α) (s : State) : written (some v) s = .ok v s := rfl
@[simp] theorem written_none (s : State) : written (none : Reg α) s = .error (.exc (.logic .unwrittenState)) s := rfl
@[simp] theorem written_some_bind (v : α) (g : α → Op β) (s : State) : (written (some v) >>= g) s = g v s := rfl

@[simp] theorem readReg_run (f : State → Reg α) (s : State) : readReg f s = written (f s) s := rfl

@[simp] theorem readReg_bind (f : State → Reg α) (g : α → Op β) (s : State) :
    (readReg f >>= g) s = (written (f s) >>= g) s := rfl

theorem readEntries_ok {l : List α} {n : Nat} (h : n ≤ l.length) (s : State) :
    readEntries l n s = .ok (l.take n) s := by
  simp [readEntries, h]

@[simp] theorem readEntries_bind_ok {l : List α} {n : Nat} (g : List α → Op β) (s : State) (h : n ≤ l.length) :
    (readEntries l n >>= g) s = g (l.take n) s := bind_ok (readEntries_ok h s)

@[simp] theorem seq_assoc {γ : Type} (x : Op α) (f : α → Op β) (g : β → Op γ) :
    (x >>= f) >>= g = x >>= fun a => f a >>= g := by
  funext s
  simp only [bind_run]
  cases x s <;> rfl

/-! ### Delivery -/

/-- An operation of a live session that answers. -/
theorem issue_ok {side : Side} {op : Op Result} {s t : State} {r : Result} (live : s.faulted = false)
    (h : op s = .ok r t) : issue side op s = .next { t with reply := some (.ok r) } := by
  simp [issue, live, issueAlways, deliver, h]

/-- An operation of a live session that holds. -/
theorem issue_hold {side : Side} {op : Op Result} {s t : State} (live : s.faulted = false)
    (h : op s = .error .hold t) : issue side op s = .next { s with reply := some .hold } := by
  simp [issue, live, issueAlways, deliver, h]

/-- An operation of a live session that raises. -/
theorem issue_exc {side : Side} {op : Op Result} {s t : State} {e : Exc} (live : s.faulted = false)
    (h : op s = .error (.exc e) t) : issue side op s = .next (s.takeException t side e) := by
  simp [issue, live, issueAlways, deliver, h]

/-- An operation of a live session whose sequencer met a `LogicError`. -/
theorem issue_issued {side : Side} {op : Op Result} {s t : State} {l : LogicSub} (live : s.faulted = false)
    (h : op s = .error (.issued l) t) :
    issue side op s = .next ((s.takeException s side (.logic l)).sequencerFailed (.logic l)) := by
  simp [issue, live, issueAlways, deliver, h]

/-- An operation of a dead session (R374). -/
theorem issue_dead {side : Side} {op : Op Result} {s : State} (dead : s.faulted = true) :
    issue side op s = .next { s with reply := some (.fault (.logic .faulted)) } := by
  simp [issue, dead]

/-- Every issued operation ends in a next state. -/
theorem issue_next (side : Side) (op : Op Result) (s : State) : ∃ t, issue side op s = .next t := by
  unfold issue issueAlways
  split <;> exact ⟨_, rfl⟩

/-! ### The bit reader -/

/-- Everything `starve` can do (R161). -/
theorem starve_cases (need : Nat) (s : State) :
    (s.brPos + need ≤ 8 * s.input.length ∧ starve need s = .ok () s) ∨
    (8 * s.input.length < s.brPos + need ∧ s.inEof = true ∧ starve need s = .error (.exc .endOfStream) s) ∨
    (8 * s.input.length < s.brPos + need ∧ s.inEof = false ∧ starve need s = .error .hold s) := by
  unfold starve
  rcases Nat.lt_or_ge (8 * s.input.length) (s.brPos + need) with h | h
  · have h' : ¬ s.brPos + need ≤ 8 * s.input.length := by omega
    cases he : s.inEof <;> simp [h, h']
  · exact .inl ⟨h, by simp [h]⟩

theorem starve_ok {need : Nat} {s : State} (h : s.brPos + need ≤ 8 * s.input.length) : starve need s = .ok () s := by
  simp [starve, h]

/-- A read of bits that are there (R162). -/
theorem readBits_ok {n : Nat} {s : State} (h : s.brPos + n ≤ 8 * s.input.length) :
    readBits n s = .ok (memRead s.input s.brPos n) { s with brPos := s.brPos + n } := by
  simp [readBits, peekBits, skipBits, bind_run, starve_ok h]

/-- A read of bits that are not there yet (R161). -/
theorem readBits_hold {n : Nat} {s : State} (h : 8 * s.input.length < s.brPos + n) (open_ : s.inEof = false) :
    readBits n s = .error .hold s := by
  have h' : ¬ s.brPos + n ≤ 8 * s.input.length := by omega
  simp [readBits, peekBits, bind_run, starve, h', open_]

/-- A read beyond the end of input (R161): nothing is consumed. -/
theorem readBits_eos {n : Nat} {s : State} (h : 8 * s.input.length < s.brPos + n) (ended : s.inEof = true) :
    readBits n s = .error (.exc .endOfStream) s := by
  have h' : ¬ s.brPos + n ≤ 8 * s.input.length := by omega
  simp [readBits, peekBits, bind_run, starve, h', ended]

theorem readU_eq_readBits {n : Nat} (h1 : 1 ≤ n) (h2 : n ≤ 32) : readU n = readBits n := by
  have h : n ≠ 0 := by omega
  simp [readU, h, h2]

/-- An aligned read cursor passes. -/
theorem readAligned_ok {s : State} (h : s.brPos % 8 = 0) : readAligned s = .ok () s := by
  simp [readAligned, h]

/-- Bytes that are there, at an aligned cursor (R167). -/
theorem readBytes_ok {count : Nat} {s : State} (aligned : s.brPos % 8 = 0)
    (h : s.brPos + 8 * count ≤ 8 * s.input.length) :
    readBytes count s =
      .ok ((s.input.drop (s.brPos / 8)).take count) { s with brPos := s.brPos + 8 * count } := by
  simp [readBytes, skipBits, bind_run, readAligned_ok aligned, starve_ok h]

/-! ### The bit writer -/

@[simp] theorem emit_run (bits : List Bool) (s : State) : emit bits s = .ok () { s with out := s.out ++ bits } := rfl
@[simp] theorem emit_bind (bits : List Bool) (g : Unit → Op β) (s : State) :
    (emit bits >>= g) s = g () { s with out := s.out ++ bits } := rfl

@[simp] theorem map_emit (g : Unit → β) (bits : List Bool) (s : State) :
    (g <$> emit bits) s = .ok (g ()) { s with out := s.out ++ bits } := rfl

/-- A field that fits is appended (R171). -/
theorem writeU_ok {n v : Nat} (h1 : 1 ≤ n) (fits : v < 2 ^ n) (s : State) :
    writeU n v s = .ok () { s with out := s.out ++ natBits n v } := by
  have h : n ≠ 0 := by omega
  simp [writeU, h, fits]

/-- A field that does not fit is refused, nothing appended (R170). -/
theorem writeU_refused {n v : Nat} (h1 : 1 ≤ n) (big : 2 ^ n ≤ v) (s : State) :
    writeU n v s = .error (.exc (.logic .valueOutOfRange)) s := by
  have h : n ≠ 0 := by omega
  have h' : ¬ v < 2 ^ n := by omega
  simp [writeU, h, h']

/-- A signed field that fits is appended (R172). -/
theorem writeS_ok {n : Nat} {v : Int} (fits : fitsS v n) (s : State) :
    writeS n v s = .ok () { s with out := s.out ++ natBits n (tc n v) } := by
  have h : n ≠ 0 := by have := fits.1; omega
  rw [writeS, if_neg h, check_bind_true _ _ _ fits, emit_run]

theorem writeAligned_ok {s : State} (h : s.out.length % 8 = 0) : writeAligned s = .ok () s := by
  simp [writeAligned, h]

theorem writeBytes_ok {bs : List Byte} {s : State} (h : s.out.length % 8 = 0) :
    writeBytes bs s = .ok () { s with out := s.out ++ bytesBits bs } := by
  simp [writeBytes, bind_run, writeAligned_ok h]

end Sys2Proof.Machine
end

