-- ==== Sys2Proof/Laws/Channel.lean ====
section
/-! SUPPORT. The channel reconstruction of `CH_DECORR_INV` (46_decoder_pipeline.md R318) on whole rows: what its loop over the
samples makes of two channels, and of independent channels. -/

namespace Sys2Proof.Machine

/-- The range check of one sample of every channel passes. -/
theorem checkAt_all {bps i : Nat} {s : State} : ∀ (k c : Nat),
    (∀ d, c ≤ d → d < c + k → ∃ v, (s.row d)[i]? = some v ∧ fitsS v bps) → countUp (checkAt bps i) k c s = .ok () s
  | 0, _, _ => rfl
  | k + 1, c, h => by
    obtain ⟨v, hv, hf⟩ := h c (Nat.le_refl c) (by omega)
    have one : checkAt bps i c s = .ok () s := by
      rw [checkAt, readSmpAt, readReg_bind, hv, written_some_bind, check_true _ _ hf]
    rw [countUp, bind_ok one]
    exact checkAt_all k (c + 1) fun d h1 h2 => h d (by omega) (by omega)

/-- Independent channels whose samples fit the depth stay as they are. -/
theorem undoLoop_independent {bps channels ca : Nat} {s : State} (h : ¬ (ca = 8 ∨ ca = 9 ∨ ca = 10)) : ∀ (n i : Nat),
    (∀ d j, d < channels → i ≤ j → j < i + n → ∃ v, (s.row d)[j]? = some v ∧ fitsS v bps) →
    countUp (fun i => do undoAt ca i; countUp (checkAt bps i) channels 0) n i s = .ok () s
  | 0, _, _ => rfl
  | n + 1, i, fits => by
    have one : (do undoAt ca i; countUp (checkAt bps i) channels 0) s = .ok () s := by
      rw [undoAt, if_neg h, pure_bind_run]
      exact checkAt_all channels 0 fun d _ h2 => fits d i (by omega) (Nat.le_refl i) (by omega)
    rw [countUp, bind_ok one]
    exact undoLoop_independent h n (i + 1) fun d j h1 h2 h3 => fits d j h1 (by omega) (by omega)

/-- The entry behind `xs` becomes `v`. -/
theorem setAt_append (xs as : List Int) (a v : Int) : setAt (xs ++ a :: as) xs.length v = xs ++ v :: as := by
  simp [setAt]

/-- The decorrelation of the sample behind `xs` and `ys` undone. -/
theorem undoAt_run {ca : Nat} (h : ca = 8 ∨ ca = 9 ∨ ca = 10) (xs ys as bs : List Int) (a b : Int) (rest : List (List Int))
    (s : State) (len : ys.length = xs.length) :
    undoAt ca xs.length { s with smp := (xs ++ a :: as) :: (ys ++ b :: bs) :: rest } =
      .ok () { s with smp := (xs ++ (decorrUndo ca a b).1 :: as) :: (ys ++ (decorrUndo ca a b).2 :: bs) :: rest } := by
  have e : setAt (ys ++ b :: bs) xs.length (decorrUndo ca a b).2 = ys ++ (decorrUndo ca a b).2 :: bs := len ▸ setAt_append ..
  have hb : (ys ++ b :: bs)[xs.length]? = some b := by rw [← len]; simp
  simp [undoAt, h, readSmpAt, writeSmp, hb, setAt_append, e]

/-- Two channels whose samples fit the depth once the decorrelation is undone: the loop undoes them all. `xs` and `ys` are the
samples already undone, `as` and `bs` those to come, `ra` and `rb` what stands behind the block. -/
theorem undoLoop_stereo {ca bps : Nat} (h : ca = 8 ∨ ca = 9 ∨ ca = 10) (ra rb : List Int) (rest : List (List Int)) (s : State) :
    ∀ (as bs xs ys : List Int), bs.length = as.length → ys.length = xs.length →
      (∀ v ∈ (undoRows ca as bs).1, fitsS v bps) → (∀ v ∈ (undoRows ca as bs).2, fitsS v bps) →
      countUp (fun i => do undoAt ca i; countUp (checkAt bps i) 2 0) as.length xs.length
          { s with smp := (xs ++ (as ++ ra)) :: (ys ++ (bs ++ rb)) :: rest } =
        .ok () { s with smp := (xs ++ ((undoRows ca as bs).1 ++ ra)) :: (ys ++ ((undoRows ca as bs).2 ++ rb)) :: rest }
  | [], [], _, _, _, _, _, _ => rfl
  | [], _ :: _, _, _, hl, _, _, _ => by cases hl
  | _ :: _, [], _, _, hl, _, _, _ => by cases hl
  | a :: as, b :: bs, xs, ys, hl, len, f0, f1 => by
    have hl : bs.length = as.length := by simpa using hl
    have step : undoRows ca (a :: as) (b :: bs) =
        ((decorrUndo ca a b).1 :: (undoRows ca as bs).1, (decorrUndo ca a b).2 :: (undoRows ca as bs).2) := by
      simp [undoRows]
    rw [step] at f0 f1 ⊢
    simp only [List.forall_mem_cons] at f0 f1
    generalize hp : (decorrUndo ca a b).1 = p at *
    generalize hq : (decorrUndo ca a b).2 = q at *
    have one : (do undoAt ca xs.length; countUp (checkAt bps xs.length) 2 0)
        { s with smp := (xs ++ (a :: as ++ ra)) :: (ys ++ (b :: bs ++ rb)) :: rest } =
          .ok () { s with smp := ((xs ++ [p]) ++ (as ++ ra)) :: ((ys ++ [q]) ++ (bs ++ rb)) :: rest } := by
      have u := undoAt_run h xs ys (as ++ ra) (bs ++ rb) a b rest s len
      rw [hp, hq] at u
      simp only [List.cons_append]
      rw [bind_ok u]
      simp only [List.append_assoc, List.singleton_append]
      refine checkAt_all 2 0 fun d _ hd => ?_
      have : d = 0 ∨ d = 1 := by omega
      rcases this with rfl | rfl
      · exact ⟨p, by simp [State.row], f0.1⟩
      · exact ⟨q, by simp [State.row, ← len], f1.1⟩
    rw [List.length_cons, countUp, bind_ok one]
    have ih := undoLoop_stereo h ra rb rest s as bs (xs ++ [p]) (ys ++ [q]) hl (by simp [len]) f0.2 f1.2
    rw [List.length_append, List.length_singleton] at ih
    rw [ih]
    simp

end Sys2Proof.Machine
end

