-- ==== Sys2Proof/Laws/Encoding.lean ====
section
/-! SUPPORT. The command word: its opcode names its operation and no other, its fields come back out of it. -/

namespace Sys2Proof

/-- The opcodes are eight bits. -/
theorem opcode_lt (c : Cmd) : Config.opcode c < 2 ^ 8 := by cases c <;> decide

/-- No two operations share an opcode (R100): the lookup finds the operation. -/
@[simp] theorem cmdOf_opcode (c : Cmd) : cmdOf (Config.opcode c) = some c := by cases c <;> rfl

/-- What the lookup finds has the opcode looked for. -/
theorem opcode_of_cmdOf {op : Nat} {c : Cmd} (h : cmdOf op = some c) : Config.opcode c = op := by
  simpa using List.find?_some h

/-- The three fields of a command word. -/
theorem cmd_fields {op a b : Nat} (ha : a < 2 ^ 8) (hb : b < 2 ^ 64) (hop : op < 2 ^ 8) :
    field (op * 2 ^ 72 + a * 2 ^ 64 + b) 72 8 = op ∧ field (op * 2 ^ 72 + a * 2 ^ 64 + b) 64 8 = a ∧
      field (op * 2 ^ 72 + a * 2 ^ 64 + b) 0 64 = b := by
  unfold field
  omega

/-- A command word whose operands fit their fields fits 80 bits. -/
theorem cmd_fits {c : Cmd} {a b : Nat} (ha : a < 2 ^ 8) (hb : b < 2 ^ 64) :
    (cmd c a b).bits < 2 ^ (cmd c a b).form.width := by
  have := opcode_lt c
  show Config.opcode c * 2 ^ 72 + a * 2 ^ 64 + b < 2 ^ 80
  omega

/-- A command word is decoded by its opcode and operands. -/
theorem decode_cmd {c : Cmd} {a b : Nat} (ha : a < 2 ^ 8) (hb : b < 2 ^ 64) :
    decode (cmd c a b) = decodeCmd (Config.opcode c) a b := by
  obtain ⟨f1, f2, f3⟩ := cmd_fields ha hb (opcode_lt c)
  have fits : (cmd c a b).bits < 2 ^ 80 := cmd_fits ha hb
  have w : fitsWidth (cmd c a b).bits (cmd c a b).form.width = true := by
    simp only [cmd, Form.width] at fits ⊢
    exact decide_eq_true (by omega)
  simp only [decode, w, if_true]
  simp only [cmd, f1, f2, f3]

end Sys2Proof
end

