-- ==== Sys2Proof/Laws/Frame.lean ====
section
/-! SUPPORT. What every operation but the host-port and session operations leaves alone, and what it moves only forward: one
relation between the state before and after, one lemma per operation. -/

namespace Sys2Proof.Machine

variable {α β : Type}

/-- Between the states before and after an operation: the input, the mode and the model's port are as before, the cursors only
move forward and stay inside, output is only appended, flags are only set and reserved bits never. -/
structure Frame (s t : State) : Prop where
  input : t.input = s.input
  inEof : t.inEof = s.inEof
  mode : t.mode = s.mode
  outRd : t.outRd = s.outRd
  cmdq : t.cmdq = s.cmdq
  payload : t.payload = s.payload
  cursor : s.brPos ≤ 8 * s.input.length → s.brPos ≤ t.brPos ∧ t.brPos ≤ 8 * s.input.length
  appended : s.out <+: t.out
  sticky : ∀ i, s.status.getLsbD i = true → t.status.getLsbD i = true
  reserved : ∀ i, 11 ≤ i → t.status.getLsbD i = s.status.getLsbD i

@[simp] theorem Frame.refl (s : State) : Frame s s :=
  ⟨rfl, rfl, rfl, rfl, rfl, rfl, fun h => ⟨Nat.le_refl _, h⟩, List.prefix_refl _, fun _ h => h, fun _ _ => rfl⟩

theorem Frame.trans {s t u : State} (h : Frame s t) (k : Frame t u) : Frame s u where
  input := k.input.trans h.input
  inEof := k.inEof.trans h.inEof
  mode := k.mode.trans h.mode
  outRd := k.outRd.trans h.outRd
  cmdq := k.cmdq.trans h.cmdq
  payload := k.payload.trans h.payload
  cursor := fun i => by
    have a := h.cursor i
    have b := k.cursor (by rw [h.input]; exact a.2)
    rw [h.input] at b
    exact ⟨a.1.trans b.1, b.2⟩
  appended := h.appended.trans k.appended
  sticky := fun i e => k.sticky i (h.sticky i e)
  reserved := fun i e => (k.reserved i e).trans (h.reserved i e)

/-- A flag's mask sets its own bit only. -/
theorem Flag.mask_bit (f : Flag) (i : Nat) (h : 11 ≤ i) : f.mask.getLsbD i = false := by
  rcases Nat.lt_or_ge i 16 with h' | h'
  · have : i = 11 ∨ i = 12 ∨ i = 13 ∨ i = 14 ∨ i = 15 := by omega
    rcases this with rfl | rfl | rfl | rfl | rfl <;> cases f <;> rfl
  · exact BitVec.getLsbD_of_ge _ _ h'

/-- The state an operation ends in, however it ends. -/
def endState : EStateM.Result Stop State α → State
  | .ok _ t => t
  | .error _ t => t

/-- The operation stays within the frame, however it ends. -/
def Keeps (m : Op α) : Prop := ∀ s, Frame s (endState (m s))

/-- The writes of an update are outside the frame's fields, or within it. -/
@[simp] theorem keeps_update {f : State → State} : Keeps (update f) ↔ ∀ s, Frame s (f s) := Iff.rfl

@[simp] theorem keeps_pure (a : α) : Keeps (pure a : Op α) := fun s => Frame.refl s
@[simp] theorem keeps_look (f : State → α) : Keeps (look f) := fun s => Frame.refl s
@[simp] theorem keeps_raise (e : Exc) : Keeps (raise e : Op α) := fun s => Frame.refl s
@[simp] theorem keeps_hold : Keeps (hold : Op α) := fun s => Frame.refl s

@[simp] theorem keeps_check (c : Prop) [Decidable c] (e : Exc) : Keeps (check c e) := by
  intro s
  unfold check
  split <;> exact Frame.refl s

@[simp] theorem keeps_written (r : Reg α) : Keeps (written r) := by
  intro s
  cases r <;> exact Frame.refl s

@[simp] theorem keeps_readEntries (l : List α) (n : Nat) : Keeps (readEntries l n) := by
  intro s
  unfold readEntries
  split <;> exact Frame.refl s

@[simp] theorem keeps_bind {x : Op α} {f : α → Op β} (hx : Keeps x) (hf : ∀ a, Keeps (f a)) : Keeps (x >>= f) := by
  intro s
  have h := hx s
  rw [bind_run]
  cases hs : x s with
  | ok a t =>
    rw [hs] at h
    exact h.trans (hf a t)
  | error e t =>
    rw [hs] at h
    exact h

@[simp] theorem keeps_map (g : α → β) {x : Op α} (h : Keeps x) : Keeps (g <$> x) := by
  intro s
  have := h s
  rw [map_run]
  cases hs : x s <;> rw [hs] at this <;> exact this

@[simp] theorem keeps_readReg (f : State → Reg α) : Keeps (readReg f) := keeps_bind (keeps_look f) keeps_written

@[simp] theorem keeps_ite {c : Prop} [Decidable c] {x y : Op α} (hx : Keeps x) (hy : Keeps y) : Keeps (if c then x else y) := by
  split <;> assumption

@[simp] theorem keeps_atomically {m : Op α} (h : Keeps m) : Keeps (atomically m) := by
  intro s
  have := h s
  unfold atomically
  cases hs : m s with
  | ok a t => rw [hs] at this; exact this
  | error e t => exact Frame.refl s

/-- A part whose exception takes over what stays within the frame. -/
theorem keeps_leaving {kept : State → State → State} {m : Op α} (h : Keeps m) (k : ∀ s t, Frame s t → Frame s (kept s t)) :
    Keeps (leaving kept m) := by
  intro s
  have := h s
  unfold leaving
  cases hs : m s with
  | ok a t => rw [hs] at this; exact this
  | error e t => rw [hs] at this; exact k s t this

@[simp] theorem keeps_attempt {m : Op α} (h : Keeps m) : Keeps (attempt m) := by
  intro s
  have := h s
  unfold attempt
  cases hs : m s with
  | ok a t => rw [hs] at this; exact this
  | error e t =>
    rw [hs] at this
    cases e with
    | hold => exact this
    | issued l => exact this
    | exc e => cases e <;> exact this

@[simp] theorem keeps_asIssued {m : Op α} (h : Keeps m) : Keeps (asIssued m) := by
  intro s
  have := h s
  unfold asIssued
  cases hs : m s with
  | ok a t => rw [hs] at this; exact this
  | error e t =>
    rw [hs] at this
    cases e with
    | hold => exact this
    | issued l => exact this
    | exc e => cases e <;> exact this

@[simp] theorem keeps_forEach {f : α → Op Unit} (h : ∀ a, Keeps (f a)) : ∀ l, Keeps (forEach f l)
  | [] => keeps_pure ()
  | a :: rest => keeps_bind (h a) fun _ => keeps_forEach h rest

@[simp] theorem keeps_countUp {f : Nat → Op Unit} (h : ∀ i, Keeps (f i)) : ∀ n i, Keeps (countUp f n i)
  | 0, _ => keeps_pure ()
  | n + 1, i => keeps_bind (h i) fun _ => keeps_countUp h n (i + 1)

/-! ### The bit reader and writer -/

/-- The cursor may move past bits that are there. -/
theorem frame_skip {s : State} {n : Nat} (h : s.brPos + n ≤ 8 * s.input.length) :
    Frame s { s with brPos := s.brPos + n } :=
  ⟨rfl, rfl, rfl, rfl, rfl, rfl, fun _ => ⟨Nat.le_add_right _ _, h⟩, List.prefix_refl _, fun _ h => h, fun _ _ => rfl⟩

@[simp] theorem keeps_starve (n : Nat) : Keeps (starve n) := by
  intro s
  rcases starve_cases n s with ⟨_, h⟩ | ⟨_, _, h⟩ | ⟨_, _, h⟩ <;> rw [h] <;> exact Frame.refl s

@[simp] theorem keeps_readBits (n : Nat) : Keeps (readBits n) := by
  intro s
  rcases Nat.lt_or_ge (8 * s.input.length) (s.brPos + n) with h | h
  · cases he : s.inEof
    · rw [readBits_hold h he]; exact Frame.refl s
    · rw [readBits_eos h he]; exact Frame.refl s
  · rw [readBits_ok h]; exact frame_skip h

@[simp] theorem keeps_readU (n : Nat) : Keeps (readU n) := by
  unfold readU
  refine keeps_ite (keeps_pure _) (keeps_ite (keeps_readBits _) ?_)
  exact keeps_bind (keeps_readBits _) fun _ => keeps_bind (keeps_readBits _) fun _ => keeps_pure _

@[simp] theorem keeps_readS (n : Nat) : Keeps (readS n) := by
  unfold readS
  refine keeps_ite (keeps_pure _) (keeps_ite (keeps_bind (keeps_readBits _) fun _ => keeps_pure _) ?_)
  exact keeps_bind (keeps_readBits _) fun _ => keeps_bind (keeps_readBits _) fun _ => keeps_pure _

/-- The stop bit of a unary number is inside the bits it is looked for in. -/
theorem leadRun_lt : ∀ {l : List Bool} {q : Nat}, leadRun l = some q → q < l.length
  | [], _, h => by cases h
  | b :: l, q, h => by
    rw [leadRun] at h
    split at h
    · cases h
      exact Nat.succ_pos _
    · obtain ⟨r, hr, rfl⟩ := Option.map_eq_some_iff.1 h
      exact Nat.succ_lt_succ (leadRun_lt hr)

theorem bytesBits_length (bs : List Byte) : (bytesBits bs).length = 8 * bs.length := by
  induction bs with
  | nil => rfl
  | cons b rest ih =>
    simp only [bytesBits, List.flatMap_cons, List.length_append, List.length_cons] at ih ⊢
    rw [ih]
    simp [byteBits, inBitOrder, Config.bitOrder, natBits]
    omega

theorem bitsFrom_length (bs : List Byte) (p : Nat) : (bitsFrom bs p).length = 8 * bs.length - p := by
  simp only [bitsFrom, List.length_drop, bytesBits_length]
  omega

/-- A unary number at the cursor is inside the input. -/
theorem peekUnary_cases (s : State) :
    (∃ q, peekUnary s = .ok q s ∧ s.brPos + q + 1 ≤ 8 * s.input.length) ∨ (∃ e, peekUnary s = .error e s) := by
  unfold peekUnary
  cases h : leadRun (bitsFrom s.input s.brPos) with
  | none => cases s.inEof <;> exact .inr ⟨_, rfl⟩
  | some q =>
    have := leadRun_lt h
    rw [bitsFrom_length] at this
    exact .inl ⟨q, rfl, by omega⟩

@[simp] theorem keeps_readUnary : Keeps readUnary := by
  intro s
  rcases peekUnary_cases s with ⟨q, h, hq⟩ | ⟨e, h⟩
  · rw [readUnary, bind_ok h]
    exact frame_skip (n := q + 1) (by omega)
  · rw [readUnary, bind_error h]
    exact Frame.refl s

@[simp] theorem keeps_readRice (k : Nat) : Keeps (readRice k) := by
  intro s
  rcases peekUnary_cases s with ⟨q, h, hq⟩ | ⟨e, h⟩
  · rw [readRice, bind_ok h]
    rcases starve_cases (q + 1 + k) s with ⟨hs, h'⟩ | ⟨_, _, h'⟩ | ⟨_, _, h'⟩
    · rw [bind_ok h']
      exact frame_skip hs
    · rw [bind_error h']; exact Frame.refl s
    · rw [bind_error h']; exact Frame.refl s
  · rw [readRice, bind_error h]
    exact Frame.refl s

@[simp] theorem keeps_readAligned : Keeps readAligned := keeps_bind (keeps_look _) fun _ => keeps_check _ _

@[simp] theorem keeps_readBytes (n : Nat) : Keeps (readBytes n) := by
  refine keeps_bind keeps_readAligned fun _ => ?_
  intro s
  rcases starve_cases (8 * n) s with ⟨hs, h'⟩ | ⟨_, _, h'⟩ | ⟨_, _, h'⟩
  · rw [bind_ok h']
    exact frame_skip hs
  · rw [bind_error h']; exact Frame.refl s
  · rw [bind_error h']; exact Frame.refl s

@[simp] theorem keeps_readCodedTail : ∀ n v, Keeps (readCodedTail n v)
  | 0, v => keeps_pure v
  | n + 1, _ => keeps_bind (keeps_readBits 8) fun _ => keeps_bind (keeps_check _ _) fun _ => keeps_readCodedTail n _

@[simp] theorem keeps_readCodedBytes (m : Nat) : Keeps (readCodedBytes m) := by
  refine keeps_bind (keeps_readBits 8) fun b => ?_
  dsimp only
  exact keeps_ite (keeps_pure _) (keeps_bind (keeps_check _ _) fun _ => keeps_readCodedTail _ _)

@[simp] theorem keeps_readCoded (m : Nat) : Keeps (readCoded m) :=
  keeps_bind keeps_readAligned fun _ => keeps_atomically (keeps_readCodedBytes m)

@[simp] theorem keeps_emit (bits : List Bool) : Keeps (emit bits) := fun _ =>
  ⟨rfl, rfl, rfl, rfl, rfl, rfl, fun h => ⟨Nat.le_refl _, h⟩, List.prefix_append _ _, fun _ h => h, fun _ _ => rfl⟩

@[simp] theorem keeps_writeU (n v : Nat) : Keeps (writeU n v) :=
  keeps_ite (keeps_pure _) (keeps_bind (keeps_check _ _) fun _ => keeps_emit _)

@[simp] theorem keeps_writeS (n : Nat) (v : Int) : Keeps (writeS n v) :=
  keeps_ite (keeps_pure _) (keeps_bind (keeps_check _ _) fun _ => keeps_emit _)

@[simp] theorem keeps_writeRice (k : Nat) (r : Int) : Keeps (writeRice k r) :=
  keeps_bind (keeps_check _ _) fun _ => keeps_emit _

@[simp] theorem keeps_writeAligned : Keeps writeAligned := keeps_bind (keeps_look _) fun _ => keeps_check _ _

@[simp] theorem keeps_writeBytes (bs : List Byte) : Keeps (writeBytes bs) :=
  keeps_bind keeps_writeAligned fun _ => keeps_emit _

@[simp] theorem keeps_padOut : Keeps padOut :=
  keeps_bind (keeps_look _) fun _ => keeps_bind (keeps_emit _) fun _ => keeps_pure _

@[simp] theorem keeps_writeCoded (v : Nat) : Keeps (writeCoded v) :=
  keeps_bind keeps_writeAligned fun _ => keeps_bind (keeps_check _ _) fun _ => keeps_emit _

/-! ### Updates: outside the frame's fields, or a flag -/

/-- A state that differs outside the frame's fields. -/
@[simp] theorem frame_of_eq {s t : State} (input : t.input = s.input) (inEof : t.inEof = s.inEof) (mode : t.mode = s.mode)
    (outRd : t.outRd = s.outRd) (cmdq : t.cmdq = s.cmdq) (payload : t.payload = s.payload) (brPos : t.brPos = s.brPos)
    (out : t.out = s.out) (status : t.status = s.status) : Frame s t where
  input := input
  inEof := inEof
  mode := mode
  outRd := outRd
  cmdq := cmdq
  payload := payload
  cursor := fun h => by rw [brPos]; exact ⟨Nat.le_refl _, h⟩
  appended := by rw [out]
  sticky := by rw [status]; exact fun _ h => h
  reserved := by rw [status]; exact fun _ _ => rfl

@[simp] theorem frame_setFlag (s : State) (f : Flag) : Frame s (s.setFlag f) where
  input := rfl
  inEof := rfl
  mode := rfl
  outRd := rfl
  cmdq := rfl
  payload := rfl
  cursor := fun h => ⟨Nat.le_refl _, h⟩
  appended := List.prefix_refl _
  sticky := fun i h => by simp [h]
  reserved := fun i h => by simp [Flag.mask_bit f i h]

@[simp] theorem frame_record (s : State) (e : Exc) (pos : Nat) : Frame s (s.record e pos) :=
  (frame_setFlag s e.flag).trans (frame_of_eq rfl rfl rfl rfl rfl rfl rfl rfl rfl)

@[simp] theorem frame_enterFatal (s : State) (e : Exc) : Frame s (s.enterFatal e) :=
  (frame_setFlag s .partial_).trans (frame_of_eq rfl rfl rfl rfl rfl rfl rfl rfl rfl)

@[simp] theorem frame_ite {s t u : State} {c : Prop} [Decidable c] (h : Frame s t) (k : Frame s u) :
    Frame s (if c then t else u) := by
  split <;> assumption

/-- A look at bits that are there allows skipping them. -/
theorem keeps_peek_bind {n : Nat} {f : Nat → Op α}
    (h : ∀ v s, s.brPos + n ≤ 8 * s.input.length → Frame s (endState (f v s))) : Keeps (peekBits n >>= f) := by
  intro s
  rcases starve_cases n s with ⟨hs, h'⟩ | ⟨_, _, h'⟩ | ⟨_, _, h'⟩
  · have : peekBits n s = .ok (memRead s.input s.brPos n) s := by simp [peekBits, bind_run, h']
    rw [bind_ok this]
    exact h _ s hs
  · have : peekBits n s = .error (.exc .endOfStream) s := by simp [peekBits, bind_run, h']
    rw [bind_error this]
    exact Frame.refl s
  · have : peekBits n s = .error .hold s := by simp [peekBits, bind_run, h']
    rw [bind_error this]
    exact Frame.refl s

end Sys2Proof.Machine
end

