-- ==== Sys2Proof/Laws/FrameUnits.lean ====
section
/-! SUPPORT. The unit operations stay within the frame (`Laws/Frame.lean`), one lemma per operation. -/

namespace Sys2Proof.Machine

variable {α : Type}

/-! ### Operands -/

@[simp] theorem keeps_checkWidth (n : Nat) : Keeps (checkWidth n) := keeps_check _ _
@[simp] theorem keeps_checkRiceParam (k : Nat) : Keeps (checkRiceParam k) := keeps_check _ _
@[simp] theorem keeps_checkByteCount (n : Nat) : Keeps (checkByteCount n) := keeps_check _ _
@[simp] theorem keeps_checkCodedLimit (n : Nat) : Keeps (checkCodedLimit n) := keeps_check _ _
@[simp] theorem keeps_notEncode : Keeps notEncode := by simp [notEncode]
@[simp] theorem keeps_needMode (m : Mode) : Keeps (needMode m) := by simp [needMode]

/-- A function that answers or raises without writing. -/
theorem keeps_reader {m : Op α} (h : ∀ s, endState (m s) = s) : Keeps m := fun s => by rw [h s]; exact Frame.refl s

@[simp] theorem keeps_payloadBytes (n : Nat) : Keeps (payloadBytes n) := keeps_reader fun s => by
  unfold payloadBytes
  cases s.payload <;> simp only [] <;> (try split) <;> rfl

@[simp] theorem keeps_payloadSamples (c n : Nat) : Keeps (payloadSamples c n) := keeps_reader fun s => by
  unfold payloadSamples
  cases s.payload <;> simp only [] <;> (try split) <;> rfl

@[simp] theorem keeps_payloadBlocks (n : Nat) : Keeps (payloadBlocks n) := keeps_reader fun s => by
  unfold payloadBlocks
  cases s.payload <;> simp only [] <;> (try split) <;> rfl

@[simp] theorem keeps_payloadConfig : Keeps payloadConfig := keeps_reader fun s => by
  unfold payloadConfig
  cases s.payload <;> rfl

/-! ### Checksums -/

@[simp] theorem keeps_md5UpdateBytes (bs : List Byte) : Keeps (md5UpdateBytes bs) := by
  simp (maxDischargeDepth := 100) [md5UpdateBytes]

@[simp] theorem keeps_md5Final : Keeps md5Final := by simp (maxDischargeDepth := 100) [md5Final]

@[simp] theorem keeps_hashDepth : Keeps hashDepth := by
  intro s
  unfold hashDepth
  cases s.mode
  · exact Frame.refl s
  · exact (keeps_bind (keeps_readReg _) fun _ => keeps_pure _) s
  · exact (keeps_bind (keeps_readReg _) fun _ => keeps_pure _) s

@[simp] theorem keeps_readSmp (r n : Nat) : Keeps (readSmp r n) := keeps_reader fun s => by
  unfold readSmp
  split <;> rfl

@[simp] theorem keeps_md5UpdatePcm : Keeps md5UpdatePcm := by simp (maxDischargeDepth := 100) [md5UpdatePcm]

/-! ### Frame and metadata model -/

@[simp] theorem keeps_mkRead : Keeps mkRead := by simp (maxDischargeDepth := 100) [mkRead]
@[simp] theorem keeps_mbhRead : Keeps mbhRead := by simp (maxDischargeDepth := 100) [mbhRead]
@[simp] theorem keeps_readStreamInfo : Keeps readStreamInfo := by simp (maxDischargeDepth := 100) [readStreamInfo]
@[simp] theorem keeps_siRead : Keeps siRead := by simp (maxDischargeDepth := 100) [siRead]
@[simp] theorem keeps_siValidate : Keeps siValidate := by simp (maxDischargeDepth := 100) [siValidate]
@[simp] theorem keeps_mbReadBody : Keeps mbReadBody := by simp (maxDischargeDepth := 100) [mbReadBody]

@[simp] theorem keeps_mdseqCheck (bs : List MdEntry) : Keeps (mdseqCheck bs) := by
  unfold mdseqCheck
  cases bs <;> simp (maxDischargeDepth := 100)

@[simp] theorem keeps_fhFixed : Keeps fhFixed := by
  refine keeps_peek_bind fun v s h => ?_
  split
  · exact frame_skip (n := 8) (by unfold Config.syncLen at h; omega)
  · refine (frame_skip h).trans ?_
    have k : Keeps (do
        let r1 ← readU 1
        let var ← readU 1
        let bsc ← readU 4
        let src ← readU 4
        let ca ← readU 4
        let bpc ← readU 3
        let r2 ← readU 1
        check (src ≠ 15) (.sync .headerReserved)
        pure (⟨r1 ||| r2, var, bsc, src, ca, bpc⟩ : FhFixed)) := by
      simp (maxDischargeDepth := 100)
    exact k { s with brPos := s.brPos + Config.syncLen }

@[simp] theorem keeps_fhBlocksize (c : Nat) : Keeps (fhBlocksize c) := by
  simp (maxDischargeDepth := 100) [fhBlocksize]

@[simp] theorem keeps_validStreamInfo : Keeps validStreamInfo := by simp (maxDischargeDepth := 100) [validStreamInfo]

@[simp] theorem keeps_fhSampleRate (c : Nat) : Keeps (fhSampleRate c) := by
  simp (maxDischargeDepth := 100) [fhSampleRate]

@[simp] theorem keeps_headerStart : Keeps headerStart := by simp [headerStart]
@[simp] theorem keeps_fhParse : Keeps fhParse := by simp (maxDischargeDepth := 100) [fhParse]
@[simp] theorem keeps_fhValidate : Keeps fhValidate := by simp (maxDischargeDepth := 100) [fhValidate]
@[simp] theorem keeps_mkWrite : Keeps mkWrite := keeps_writeBytes _
@[simp] theorem keeps_mbhWrite (l b : Nat) : Keeps (mbhWrite l b) := by simp (maxDischargeDepth := 100) [mbhWrite]
@[simp] theorem keeps_siWrite : Keeps siWrite := by simp (maxDischargeDepth := 100) [siWrite]
@[simp] theorem keeps_fhWrite : Keeps fhWrite := by simp (maxDischargeDepth := 100) [fhWrite]

/-! ### Residual coder -/

@[simp] theorem keeps_writeRes (i : Nat) (r : Int) : Keeps (writeRes i r) := by simp [writeRes]
@[simp] theorem keeps_writeEntry (i : Nat) (c : PartChoice) : Keeps (writeEntry i c) := by simp [writeEntry]

@[simp] theorem keeps_escRead (n : Nat) : Keeps (escRead n) := by
  unfold escRead
  refine keeps_ite (keeps_pure _) ?_
  split <;> simp (maxDischargeDepth := 100)

@[simp] theorem keeps_riceRead (k : Nat) : Keeps (riceRead k) := by simp (maxDischargeDepth := 100) [riceRead]

@[simp] theorem keeps_readRun {one : Op Int} (h : Keeps one) : ∀ cnt idx, Keeps (readRun one cnt idx)
  | 0, _ => keeps_pure ()
  | cnt + 1, idx => keeps_bind h fun _ => keeps_bind (keeps_writeRes _ _) fun _ => keeps_readRun h cnt (idx + 1)

@[simp] theorem keeps_readPartition (m i cnt idx : Nat) : Keeps (readPartition m i cnt idx) := by
  simp (maxDischargeDepth := 100) [readPartition]

@[simp] theorem keeps_readPartitions (n o m p : Nat) : ∀ left i idx, Keeps (readPartitions n o m p left i idx)
  | 0, _, _ => keeps_pure ()
  | left + 1, _, _ => keeps_bind (keeps_readPartition _ _ _ _) fun _ => keeps_readPartitions n o m p left _ _

@[simp] theorem keeps_readResHeader (n o : Nat) : Keeps (readResHeader n o) := by
  simp (maxDischargeDepth := 100) [readResHeader]

@[simp] theorem keeps_blockGeometry : Keeps blockGeometry := by simp (maxDischargeDepth := 100) [blockGeometry]
@[simp] theorem keeps_resDecode : Keeps resDecode := by simp (maxDischargeDepth := 100) [resDecode]

@[simp] theorem keeps_entryChoice (e : RcEntry) : Keeps (entryChoice e) := by
  simp (maxDischargeDepth := 100) [entryChoice]

@[simp] theorem keeps_entryChoices : ∀ es, Keeps (entryChoices es)
  | [] => keeps_pure _
  | _ :: rest => keeps_bind (keeps_entryChoice _) fun _ => keeps_bind (keeps_entryChoices rest) fun _ => keeps_pure _

@[simp] theorem keeps_checkChoice (m : Nat) (x : List Int × PartChoice) : Keeps (checkChoice m x) := by
  unfold checkChoice
  split <;> simp

@[simp] theorem keeps_resEncode : Keeps resEncode := by simp (maxDischargeDepth := 100) [resEncode]

/-! ### Predictor -/

@[simp] theorem keeps_writeSmp (c i : Nat) (v : Int) : Keeps (writeSmp c i v) := by simp [writeSmp]
@[simp] theorem keeps_writeRow (c : Nat) (vs : List Int) : Keeps (writeRow c vs) := by simp [writeRow]
@[simp] theorem keeps_readRow (c n : Nat) : Keeps (readRow c n) := by simp (maxDischargeDepth := 100) [readRow]
@[simp] theorem keeps_codedSamples : Keeps codedSamples := by simp (maxDischargeDepth := 100) [codedSamples]

@[simp] theorem keeps_readSamples (c b : Nat) : ∀ cnt i, Keeps (readSamples c b cnt i)
  | 0, _ => keeps_pure ()
  | cnt + 1, _ => keeps_bind (keeps_readS _) fun _ => keeps_bind (keeps_writeSmp _ _ _) fun _ => keeps_readSamples c b cnt _

@[simp] theorem keeps_sfDecConstant : Keeps sfDecConstant := by simp (maxDischargeDepth := 100) [sfDecConstant]
@[simp] theorem keeps_sfDecVerbatim : Keeps sfDecVerbatim := by simp (maxDischargeDepth := 100) [sfDecVerbatim]
@[simp] theorem keeps_fixedRestore : Keeps fixedRestore := by simp (maxDischargeDepth := 100) [fixedRestore]
@[simp] theorem keeps_lpcRestore : Keeps lpcRestore := by simp (maxDischargeDepth := 100) [lpcRestore]
@[simp] theorem keeps_sfDecFixed : Keeps sfDecFixed := by simp (maxDischargeDepth := 100) [sfDecFixed]

@[simp] theorem keeps_readCoefs (p : Nat) : ∀ cnt j, Keeps (readCoefs p cnt j)
  | 0, _ => keeps_pure ()
  | cnt + 1, _ => keeps_bind (keeps_readS _) fun _ => keeps_bind (by simp) fun _ => keeps_readCoefs p cnt _

@[simp] theorem keeps_sfDecLpc : Keeps sfDecLpc := by simp (maxDischargeDepth := 100) [sfDecLpc]

@[simp] theorem keeps_finishSubframe (c n b w : Nat) : Keeps (finishSubframe c n b w) := by
  simp (maxDischargeDepth := 100) [finishSubframe]

@[simp] theorem keeps_readWasted (wf : Nat) : Keeps (readWasted wf) := by simp (maxDischargeDepth := 100) [readWasted]
@[simp] theorem keeps_sfHeader : Keeps sfHeader := by simp (maxDischargeDepth := 100) [sfHeader]

@[simp] theorem keeps_setSfType (t : Nat) : Keeps (setSfType t) := by
  unfold setSfType
  cases sfTypeOf t <;> simp (maxDischargeDepth := 100)

@[simp] theorem keeps_sfBody (t : SfType) : Keeps (sfBody t) := by cases t <;> simp [sfBody]
@[simp] theorem keeps_sfDec (c : Nat) : Keeps (sfDec c) := by simp (maxDischargeDepth := 100) [sfDec]

@[simp] theorem keeps_fixedResidual (o : Nat) : Keeps (fixedResidual o) := by
  simp (maxDischargeDepth := 100) [fixedResidual]

@[simp] theorem keeps_lpcResidual : Keeps lpcResidual := by simp (maxDischargeDepth := 100) [lpcResidual]
@[simp] theorem keeps_writeSamples (b : Nat) (xs : List Int) : Keeps (writeSamples b xs) := by simp [writeSamples]
@[simp] theorem keeps_sfEncConstant : Keeps sfEncConstant := by simp (maxDischargeDepth := 100) [sfEncConstant]
@[simp] theorem keeps_sfEncVerbatim : Keeps sfEncVerbatim := by simp (maxDischargeDepth := 100) [sfEncVerbatim]
@[simp] theorem keeps_checkResidual (n o : Nat) : Keeps (checkResidual n o) := by
  simp (maxDischargeDepth := 100) [checkResidual]
@[simp] theorem keeps_sfEncFixed : Keeps sfEncFixed := by simp (maxDischargeDepth := 100) [sfEncFixed]
@[simp] theorem keeps_sfEncLpc : Keeps sfEncLpc := by simp (maxDischargeDepth := 100) [sfEncLpc]

/-- A failed `SF_DEC` of the host leaves cursor and samples (R251). -/
@[simp] theorem keeps_leaving_cursor {m : Op α} (h : Keeps m) :
    Keeps (leaving (fun s t => { s with brPos := t.brPos, smp := t.smp }) m) :=
  keeps_leaving h fun _ _ f => ⟨rfl, rfl, rfl, rfl, rfl, rfl, f.cursor, List.prefix_refl _, fun _ h => h, fun _ _ => rfl⟩

/-! ### Selection -/

@[simp] theorem keeps_riceParamSelect (k f c : Nat) : Keeps (riceParamSelect k f c) := by
  simp (maxDischargeDepth := 100) [riceParamSelect]

@[simp] theorem keeps_writeTable (param : Nat → Reg Nat → Fin 31) (raw : Nat → Reg Nat → Fin 32) :
    ∀ cs i, Keeps (writeTable param raw cs i)
  | [], _ => keeps_pure ()
  | _ :: rest, _ => keeps_bind (by simp) fun _ => keeps_writeTable param raw rest _

@[simp] theorem keeps_partSelect (sel : Selections) : Keeps (partSelect sel) := by
  simp (maxDischargeDepth := 100) [partSelect]

@[simp] theorem keeps_setPredictor (p : Nat) (r : LpcResult) : Keeps (setPredictor p r) := by simp [setPredictor]

@[simp] theorem keeps_lpcAnalyze (sel : Selections) : Keeps (lpcAnalyze sel) := by
  unfold lpcAnalyze
  refine keeps_bind (keeps_readReg _) fun _ => keeps_bind keeps_codedSamples fun _ => ?_
  split <;> simp (maxDischargeDepth := 100)

@[simp] theorem keeps_sfSelect (sel : Selections) (c : Nat) : Keeps (sfSelect sel c) := by
  unfold sfSelect
  refine keeps_bind (keeps_needMode _) fun _ => keeps_bind (keeps_readReg _) fun _ => keeps_bind (keeps_readReg _) fun _ =>
    keeps_bind (keeps_check _ _) fun _ => keeps_bind (keeps_readReg _) fun _ => keeps_bind (keeps_readReg _) fun _ =>
    keeps_bind (keeps_readRow _ _) fun _ => ?_
  dsimp only
  refine keeps_bind (by simp) fun _ => ?_
  split <;> simp (maxDischargeDepth := 100)

@[simp] theorem keeps_stereoSelect (sel : Selections) : Keeps (stereoSelect sel) := by
  simp (maxDischargeDepth := 100) [stereoSelect]

/-! ### Seek index -/

@[simp] theorem keeps_seekLoad (bs : List Byte) : Keeps (seekLoad bs) := by simp (maxDischargeDepth := 100) [seekLoad]

end Sys2Proof.Machine
end

