-- ==== Sys2Proof/Laws/FrameExec.lean ====
section
/-! SUPPORT. The sequencers, the wire structures and `exec` stay within the frame (`Laws/Frame.lean`): every instruction but
`STREAM_RESET`, `IN_PUSH`, `IN_EOF`, `OUT_PULL` and `DEC_FLUSH`. -/

namespace Sys2Proof.Machine

variable {α : Type}

/-! ### The decoder -/

@[simp] theorem keeps_readSmpAt (c i : Nat) : Keeps (readSmpAt c i) := keeps_readReg _
@[simp] theorem keeps_undoAt (ca i : Nat) : Keeps (undoAt ca i) := by simp (maxDischargeDepth := 100) [undoAt]
@[simp] theorem keeps_checkAt (b i c : Nat) : Keeps (checkAt b i c) := by simp (maxDischargeDepth := 100) [checkAt]

@[simp] theorem keeps_chDecorrInv : Keeps chDecorrInv := by simp (maxDischargeDepth := 100) [chDecorrInv]

@[simp] theorem keeps_readPadding : ∀ k, Keeps (readPadding k)
  | 0 => keeps_pure ()
  | k + 1 => keeps_bind (keeps_readU 1) fun _ => keeps_bind (keeps_check _ _) fun _ => keeps_readPadding k

@[simp] theorem keeps_checkFooter (a b c : Nat) : Keeps (checkFooter a b c) := by
  simp (maxDischargeDepth := 100) [checkFooter]

@[simp] theorem keeps_frameFooter (a : Nat) : Keeps (frameFooter a) := by simp (maxDischargeDepth := 100) [frameFooter]
@[simp] theorem keeps_frameStart : Keeps frameStart := by simp [frameStart]
@[simp] theorem keeps_decFrame : Keeps decFrame := by simp (maxDischargeDepth := 100) [decFrame]

@[simp] theorem keeps_fatal (e : Exc) (p : Nat) : Keeps (fatal e p) := fun s =>
  (frame_record s e p).trans (frame_enterFatal _ e)

@[simp] theorem keeps_recordOnly (e : Exc) (p : Nat) : Keeps (recordOnly e p) := fun s => frame_record s e p

@[simp] theorem keeps_metadataFault (e : Exc) (p : Nat) : Keeps (metadataFault e p) := by simp [metadataFault]

theorem keeps_metadataOp {m : Op α} {next : α → Op Unit} (h : Keeps m) (k : ∀ a, Keeps (next a)) :
    Keeps (metadataOp m next) := by
  refine keeps_bind (keeps_look _) fun _ => keeps_bind (keeps_attempt h) fun r => ?_
  cases r <;> simp [k]

@[simp] theorem keeps_enterResync (sub : SyncSub) (p : Nat) : Keeps (enterResync sub p) := fun s =>
  ((frame_record s _ p).trans (frame_setFlag _ .partial_)).trans (frame_of_eq rfl rfl rfl rfl rfl rfl rfl rfl rfl)

@[simp] theorem keeps_finishDecode : Keeps finishDecode := by
  simp (maxDischargeDepth := 100) [finishDecode, checkTotals, recordVerdict, enterDone]

@[simp] theorem keeps_sequencerWork {m : Op Unit} (h : Keeps m) : Keeps (sequencerWork m) := keeps_asIssued h

@[simp] theorem keeps_stepInit : Keeps stepInit := keeps_metadataOp keeps_mkRead fun _ => by simp

@[simp] theorem keeps_afterBlock (l : Bool) : Keeps (afterBlock l) := fun s => by
  cases l <;> exact frame_of_eq rfl rfl rfl rfl rfl rfl rfl rfl rfl

@[simp] theorem keeps_stepReadStreamInfo : Keeps stepReadStreamInfo := by
  refine keeps_bind (keeps_look _) fun _ => keeps_metadataOp keeps_mbhRead fun h => ?_
  refine keeps_ite (by simp) (keeps_ite (by simp) (keeps_bind (keeps_look _) fun _ => ?_))
  exact keeps_metadataOp keeps_siRead fun _ => keeps_metadataOp keeps_siValidate fun _ => by simp

@[simp] theorem keeps_stepReadMetadata : Keeps stepReadMetadata := by
  refine keeps_bind (keeps_look _) fun _ => keeps_metadataOp keeps_mbhRead fun h => ?_
  exact keeps_ite (by simp) (keeps_metadataOp keeps_mbReadBody fun _ => by simp (maxDischargeDepth := 100))

@[simp] theorem keeps_emitBlock : Keeps emitBlock := by simp (maxDischargeDepth := 100) [emitBlock]

@[simp] theorem keeps_stepSynced : Keeps stepSynced := by
  refine keeps_bind (keeps_look _) fun _ => keeps_bind (keeps_look _) fun _ => keeps_bind (keeps_look _) fun _ => ?_
  refine keeps_ite (by simp (maxDischargeDepth := 100)) ?_
  refine keeps_bind (keeps_attempt keeps_decFrame) fun r => ?_
  split <;> simp (maxDischargeDepth := 100)

/-- Where a sync code is found, it is at or after the place the search began, and inside the bytes (R383). -/
theorem scanSync_range : ∀ {bs : List Byte} {i j : Nat}, scanSync bs i = some j → i ≤ j ∧ j < i + bs.length
  | [], _, _, h => by cases h
  | [_], _, _, h => by cases h
  | a :: b :: rest, i, j, h => by
    rw [scanSync] at h
    split at h
    · cases h
      simp
    · have := scanSync_range h
      simp only [List.length_cons] at this ⊢
      omega

/-- A resynchronisation that ends inside the input, not before the cursor. -/
theorem frame_endResync {s : State} {stop pos : Nat} {how : ResyncHow}
    (h : s.brPos ≤ 8 * s.input.length → s.brPos ≤ pos ∧ pos ≤ 8 * s.input.length) :
    Frame s (endResync stop pos how s) := by
  unfold endResync
  exact frame_ite ⟨rfl, rfl, rfl, rfl, rfl, rfl, h, List.prefix_refl _, fun _ h => h, fun _ _ => rfl⟩
    ⟨rfl, rfl, rfl, rfl, rfl, rfl, h, List.prefix_refl _, fun _ h => h, fun _ _ => rfl⟩

@[simp] theorem keeps_stepResync : Keeps stepResync := by
  intro s
  simp only [stepResync, look_bind]
  cases h : scanSync (s.input.drop ((s.brPos + 7) / 8)) ((s.brPos + 7) / 8) with
  | some j =>
    have r := scanSync_range h
    rw [List.length_drop] at r
    exact (frame_endResync (by omega)).trans (frame_of_eq rfl rfl rfl rfl rfl rfl rfl rfl rfl)
  | none =>
    cases s.inEof with
    | false => exact Frame.refl s
    | true =>
      refine (frame_endResync (s := s) (stop := s.input.length) (pos := 8 * s.input.length) (how := .eof)
        (fun h => ⟨h, Nat.le_refl _⟩)).trans ?_
      have k : Keeps (look State.framesOk >>= fun frames =>
          if frames = 0 then fatal .noAudio (s.brPos / 8) else sequencerWork finishDecode) := by
        simp (maxDischargeDepth := 100)
      exact k _

@[simp] theorem keeps_decStep : Keeps decStep := by
  refine keeps_bind (keeps_needMode _) fun _ => keeps_bind (keeps_look _) fun d => ?_
  cases d <;> simp (maxDischargeDepth := 100)

/-! ### The encoder -/

@[simp] theorem keeps_encoderFails (e : Exc) : Keeps (encoderFails e) := by
  simp (maxDischargeDepth := 100) [encoderFails]

@[simp] theorem keeps_encInit : Keeps encInit := by
  refine keeps_bind (keeps_needMode _) fun _ => keeps_bind (keeps_look _) fun _ => keeps_bind (keeps_check _ _) fun _ =>
    keeps_bind keeps_payloadConfig fun c => ?_
  cases configError c <;> simp (maxDischargeDepth := 100)

@[simp] theorem keeps_chDecorrFwd (ca : Nat) : Keeps (chDecorrFwd ca) := by
  simp (maxDischargeDepth := 100) [chDecorrFwd]

@[simp] theorem keeps_sfEncode (t : SfType) : Keeps (sfEncode t) := by cases t <;> simp [sfEncode]

@[simp] theorem keeps_encodeSubframe (sel : Selections) (c : Nat) : Keeps (encodeSubframe sel c) := by
  simp (maxDischargeDepth := 100) [encodeSubframe]

@[simp] theorem keeps_assembleFrame (sel : Selections) : Keeps (assembleFrame sel) := by
  simp (maxDischargeDepth := 100) [assembleFrame]

theorem frame_countFrame (n len : Nat) (s : State) : Frame s (countFrame n len s) := by
  unfold countFrame
  exact frame_ite (frame_of_eq rfl rfl rfl rfl rfl rfl rfl rfl rfl) (frame_of_eq rfl rfl rfl rfl rfl rfl rfl rfl rfl)

@[simp] theorem keeps_encBlock (sel : Selections) : Keeps (encBlock sel) := by
  refine keeps_bind (keeps_needMode _) fun _ => keeps_bind (keeps_look _) fun _ => keeps_bind (keeps_check _ _) fun _ =>
    keeps_bind (keeps_look _) fun q => ?_
  cases q with
  | nil => simp
  | cons b rest => simp (maxDischargeDepth := 100) [frame_countFrame]

@[simp] theorem keeps_encFinish : Keeps encFinish := by simp (maxDischargeDepth := 100) [encFinish]

/-! ### The wire structures -/

@[simp] theorem keeps_presented (bits : List Bool) {m : Op α} (h : Keeps m) : Keeps (presented bits m) := by
  intro s
  have k := h (s.reading (bitsBytes (bits ++ List.replicate (alignGap bits.length) false)) 0)
  unfold presented
  cases hs : m (s.reading (bitsBytes (bits ++ List.replicate (alignGap bits.length) false)) 0) <;> rw [hs] at k <;>
    exact ⟨rfl, k.inEof, k.mode, k.outRd, k.cmdq, k.payload, fun h => ⟨Nat.le_refl _, h⟩, k.appended, k.sticky, k.reserved⟩

@[simp] theorem keeps_readSubframeByte : Keeps readSubframeByte := by
  simp (maxDischargeDepth := 100) [readSubframeByte]

/-! ### Delivery -/

theorem frame_takeException {s t : State} (h : Frame s t) (side : Side) (e : Exc) : Frame s (s.takeException t side e) := by
  unfold State.takeException
  have k : ∀ b, Frame s b → Frame s ({ b.record e (side.pos s) with reply := some (.fault e) }) := fun b hb =>
    (hb.trans (frame_record b e (side.pos s))).trans (frame_of_eq rfl rfl rfl rfl rfl rfl rfl rfl rfl)
  split
  · exact k s (Frame.refl s)
  · exact k t h

theorem frame_sequencerFailed (s : State) (e : Exc) : Frame s (s.sequencerFailed e) := by
  unfold State.sequencerFailed
  split <;> first | exact frame_enterFatal _ _ | exact frame_of_eq rfl rfl rfl rfl rfl rfl rfl rfl rfl

/-- An operation within the frame is issued within it. -/
theorem frame_issueAlways {side : Side} {op : Op Result} (h : Keeps op) {s t : State}
    (e : issueAlways side op s = .next t) : Frame s t := by
  have k := h s
  unfold issueAlways at e
  cases hs : op s with
  | ok r u =>
    rw [hs] at k e
    cases e
    exact k.trans (frame_of_eq rfl rfl rfl rfl rfl rfl rfl rfl rfl)
  | error x u =>
    rw [hs] at k e
    cases x with
    | hold => cases e; exact frame_of_eq rfl rfl rfl rfl rfl rfl rfl rfl rfl
    | exc x => cases e; exact frame_takeException k side x
    | issued l =>
      cases e
      exact (frame_takeException (Frame.refl s) side _).trans (frame_sequencerFailed _ _)

theorem frame_issue {side : Side} {op : Op Result} (h : Keeps op) {s t : State}
    (e : issue side op s = .next t) : Frame s t := by
  unfold issue at e
  split at e
  · cases e; exact frame_of_eq rfl rfl rfl rfl rfl rfl rfl rfl rfl
  · exact frame_issueAlways h e

/-! ### Every instruction -/

/-- The instructions that change the mode, the input or what the host has pulled. -/
def movesPorts : Instr → Bool
  | .streamReset _ | .inPush _ | .inEof | .outPull | .decFlush => true
  | _ => false

/-- Skipping to the byte boundary stays inside the input (R166). -/
theorem frame_align (s : State) : Frame s { s with brPos := s.brPos + alignGap s.brPos } :=
  ⟨rfl, rfl, rfl, rfl, rfl, rfl, fun h => ⟨Nat.le_add_right _ _, by unfold alignGap; dsimp only; omega⟩,
    List.prefix_refl _, fun _ h => h, fun _ _ => rfl⟩

/-- Every other instruction stays within the frame. -/
theorem exec_frame {i : Instr} {s t : State} (h : movesPorts i = false) (e : exec i s = .next t) : Frame s t := by
  cases i <;> first
    | (cases h; done)
    | (refine frame_issue ?_ e; simp (maxDischargeDepth := 100); done)
    | (refine frame_issueAlways ?_ e; simp (maxDischargeDepth := 100))
    | (refine frame_issue ?_ e; exact fun s => frame_align s)

end Sys2Proof.Machine
end

