-- ==== Sys2Proof/Laws/PerInstr.lean ====
section
/-! SUPPORT. A statement about every instruction, one lemma per constructor: what the encoder answers for a well-formed
instruction fits its format. -/

namespace Sys2Proof.Laws.EncodeFits

set_option Elab.async false

/-- The code of a well-formed instruction fits the width of its format. -/
def Statement (i : Instr) : Prop := i.WellFormed → (encode i).bits < 2 ^ (encode i).form.width

/-- A command without operands. -/
theorem bare (c : Cmd) : (cmd c 0 0).bits < 2 ^ (cmd c 0 0).form.width := cmd_fits (Nat.two_pow_pos 8) (Nat.two_pow_pos 64)

/-- A command with operand `a` alone. -/
theorem onlyA_fits {c : Cmd} {a : Nat} (h : a < 2 ^ 8) : (cmd c a 0).bits < 2 ^ (cmd c a 0).form.width :=
  cmd_fits h (Nat.two_pow_pos 64)

/-- A command with operand `b` alone. -/
theorem onlyB_fits {c : Cmd} {b : Nat} (h : b < 2 ^ 64) : (cmd c 0 b).bits < 2 ^ (cmd c 0 b).form.width :=
  cmd_fits (Nat.two_pow_pos 8) h

theorem tc64_lt (v : Int) : tc64 v < 2 ^ 64 := by
  unfold tc64
  omega

theorem streamReset (mode : Nat) : Statement (.streamReset mode) := onlyA_fits
theorem inPush (count : Nat) : Statement (.inPush count) := onlyB_fits
theorem inEof : Statement .inEof := fun _ => bare _
theorem outPull : Statement .outPull := fun _ => bare _
theorem pcmPop : Statement .pcmPop := fun _ => bare _
theorem mdPop : Statement .mdPop := fun _ => bare _
theorem reportPop : Statement .reportPop := fun _ => bare _
theorem pcmPush (blocksize : Nat) : Statement (.pcmPush blocksize) := onlyB_fits
theorem siPop : Statement .siPop := fun _ => bare _
theorem brReadU (n : Nat) : Statement (.brReadU n) := onlyA_fits
theorem brReadS (n : Nat) : Statement (.brReadS n) := onlyA_fits
theorem brReadUnary : Statement .brReadUnary := fun _ => bare _
theorem brReadRice (k : Nat) : Statement (.brReadRice k) := onlyA_fits
theorem brAlign : Statement .brAlign := fun _ => bare _
theorem brReadBytes (count : Nat) : Statement (.brReadBytes count) := onlyB_fits
theorem brReadCoded (maxBytes : Nat) : Statement (.brReadCoded maxBytes) := onlyA_fits
theorem bwWriteU (n : Nat) (v : Nat) : Statement (.bwWriteU n v) := fun h => cmd_fits h.1 h.2
theorem bwWriteS (n : Nat) (v : Int) : Statement (.bwWriteS n v) := fun h => cmd_fits h.1 (tc64_lt _)
theorem bwWriteUnary (q : Nat) : Statement (.bwWriteUnary q) := onlyB_fits
theorem bwWriteRice (k : Nat) (r : Int) : Statement (.bwWriteRice k r) := fun h => cmd_fits h.1 (tc64_lt _)
theorem bwAlign : Statement .bwAlign := fun _ => bare _
theorem bwWriteBytes (count : Nat) : Statement (.bwWriteBytes count) := onlyB_fits
theorem bwWriteCoded (v : Nat) : Statement (.bwWriteCoded v) := onlyB_fits
theorem crc8Reset : Statement .crc8Reset := fun _ => bare _
theorem crc8Update (count : Nat) : Statement (.crc8Update count) := onlyB_fits
theorem crc16Reset : Statement .crc16Reset := fun _ => bare _
theorem crc16Update (count : Nat) : Statement (.crc16Update count) := onlyB_fits
theorem md5Reset : Statement .md5Reset := fun _ => bare _
theorem md5Update (count : Nat) : Statement (.md5Update count) := onlyB_fits
theorem md5UpdatePcm : Statement .md5UpdatePcm := fun _ => bare _
theorem md5Final : Statement .md5Final := fun _ => bare _
theorem mkRead : Statement .mkRead := fun _ => bare _
theorem mbhRead : Statement .mbhRead := fun _ => bare _
theorem siRead : Statement .siRead := fun _ => bare _
theorem siValidate : Statement .siValidate := fun _ => bare _
theorem mbReadBody : Statement .mbReadBody := fun _ => bare _
theorem fhParse : Statement .fhParse := fun _ => bare _
theorem fhValidate : Statement .fhValidate := fun _ => bare _
theorem mdseqCheck (count : Nat) : Statement (.mdseqCheck count) := onlyB_fits
theorem mkWrite : Statement .mkWrite := fun _ => bare _
theorem mbhWrite (last : Nat) (b : Nat) : Statement (.mbhWrite last b) := fun h => cmd_fits h.1 h.2
theorem siWrite : Statement .siWrite := fun _ => bare _
theorem fhWrite : Statement .fhWrite := fun _ => bare _
theorem sfDec (c : Nat) : Statement (.sfDec c) := onlyA_fits
theorem sfDecConstant : Statement .sfDecConstant := fun _ => bare _
theorem sfDecVerbatim : Statement .sfDecVerbatim := fun _ => bare _
theorem sfDecFixed : Statement .sfDecFixed := fun _ => bare _
theorem sfDecLpc : Statement .sfDecLpc := fun _ => bare _
theorem fixedRestore : Statement .fixedRestore := fun _ => bare _
theorem lpcRestore : Statement .lpcRestore := fun _ => bare _
theorem fixedResidual (order : Nat) : Statement (.fixedResidual order) := onlyA_fits
theorem lpcResidual : Statement .lpcResidual := fun _ => bare _
theorem lpcAnalyze : Statement .lpcAnalyze := fun _ => bare _
theorem sfEncConstant : Statement .sfEncConstant := fun _ => bare _
theorem sfEncVerbatim : Statement .sfEncVerbatim := fun _ => bare _
theorem sfEncFixed : Statement .sfEncFixed := fun _ => bare _
theorem sfEncLpc : Statement .sfEncLpc := fun _ => bare _
theorem sfSelect (c : Nat) : Statement (.sfSelect c) := onlyA_fits
theorem resDecode : Statement .resDecode := fun _ => bare _
theorem resEncode : Statement .resEncode := fun _ => bare _
theorem riceParamSelect (kmax : Nat) (first : Nat) (count : Nat) : Statement (.riceParamSelect kmax first count) := fun h => cmd_fits h.1 (by have := h.2; omega)
theorem partSelect : Statement .partSelect := fun _ => bare _
theorem decStep : Statement .decStep := fun _ => bare _
theorem decFrame : Statement .decFrame := fun _ => bare _
theorem chDecorrInv : Statement .chDecorrInv := fun _ => bare _
theorem decFlush : Statement .decFlush := fun _ => bare _
theorem encInit (b : Nat) : Statement (.encInit b) := onlyB_fits
theorem encBlock : Statement .encBlock := fun _ => bare _
theorem encFinish : Statement .encFinish := fun _ => bare _
theorem chDecorrFwd (ca : Nat) : Statement (.chDecorrFwd ca) := onlyA_fits
theorem stereoSelect : Statement .stereoSelect := fun _ => bare _
theorem seekLoad (len : Nat) : Statement (.seekLoad len) := onlyB_fits
theorem seekLookup (target : Nat) : Statement (.seekLookup target) := onlyB_fits
theorem wireMbHeader (last : Nat) (type : Nat) (length : Nat) : Statement (.wireMbHeader last type length) := by
  simp only [Statement, Instr.WellFormed, encode, Form.width]
  omega
theorem wireStreamInfo (minBs : Nat) (maxBs : Nat) (minFs : Nat) (maxFs : Nat) (rate : Nat) (ch : Nat) (bps : Nat) (total : Nat) (md5 : Nat) : Statement (.wireStreamInfo minBs maxBs minFs maxFs rate ch bps total md5) := by
  simp only [Statement, Instr.WellFormed, encode, Form.width]
  omega
theorem wireFrameHeader (r : Nat) (v : Nat) (b : Nat) (s : Nat) (c : Nat) (d : Nat) : Statement (.wireFrameHeader r v b s c d) := by
  intro h
  simp only [Instr.WellFormed] at h
  simp only [encode, Form.width, Config.syncCode, Config.syncLen]
  omega
theorem wireSfConstant (w : Nat) : Statement (.wireSfConstant w) := by
  simp only [Statement, Instr.WellFormed, encode, Form.width]
  omega
theorem wireSfVerbatim (w : Nat) : Statement (.wireSfVerbatim w) := by
  simp only [Statement, Instr.WellFormed, encode, Form.width]
  omega
theorem wireSfFixed (o : Nat) (w : Nat) : Statement (.wireSfFixed o w) := by
  simp only [Statement, Instr.WellFormed, encode, Form.width]
  omega
theorem wireSfLpc (o : Nat) (w : Nat) : Statement (.wireSfLpc o w) := by
  simp only [Statement, Instr.WellFormed, encode, Form.width]
  omega
theorem wireResHeader (m : Nat) (p : Nat) : Statement (.wireResHeader m p) := by
  simp only [Statement, Instr.WellFormed, encode, Form.width]
  omega
theorem wireSeekpoint (s : Nat) (o : Nat) (n : Nat) : Statement (.wireSeekpoint s o n) := by
  simp only [Statement, Instr.WellFormed, encode, Form.width]
  omega
theorem wireFrameFooter (c : Nat) : Statement (.wireFrameFooter c) := by
  simp only [Statement, Instr.WellFormed, encode, Form.width]
  omega

end Sys2Proof.Laws.EncodeFits
end

