-- ==== Sys2Proof/Tests/Slice0.lean ====
section
/-! SUPPORT. Tests: ill-formed terms, words written out bit by bit, single steps against the vectors of 95_test_vectors.md
(cited V-...), and for every statement a state and operands that meet its hypotheses. -/

namespace Sys2Proof.Tests

open Sys2Proof Sys2Proof.Machine

set_option Elab.async false

/-! ### Ill-formed terms, one for each check of `WellFormed` -/

theorem test_wf_a : ¬ (Instr.brReadU 256).WellFormed := by decide
theorem test_wf_b : ¬ (Instr.inPush (2 ^ 64)).WellFormed := by decide
theorem test_wf_writeU_width : ¬ (Instr.bwWriteU 256 0).WellFormed := by decide
theorem test_wf_writeU_value : ¬ (Instr.bwWriteU 0 (2 ^ 64)).WellFormed := by decide
theorem test_wf_writeS_high : ¬ (Instr.bwWriteS 32 (2 ^ 63)).WellFormed := by decide
theorem test_wf_writeS_low : ¬ (Instr.bwWriteS 32 (-(2 ^ 63) - 1)).WellFormed := by decide
theorem test_wf_rice_kmax : ¬ (Instr.riceParamSelect 256 0 0).WellFormed := by decide
theorem test_wf_rice_first : ¬ (Instr.riceParamSelect 0 (2 ^ 32) 0).WellFormed := by decide
theorem test_wf_rice_count : ¬ (Instr.riceParamSelect 0 0 (2 ^ 32)).WellFormed := by decide
theorem test_wf_mbHeader :
    ¬ (Instr.wireMbHeader 2 0 0).WellFormed ∧ ¬ (Instr.wireMbHeader 0 128 0).WellFormed ∧
      ¬ (Instr.wireMbHeader 0 0 (2 ^ 24)).WellFormed := by decide
theorem test_wf_streamInfo_minBs : ¬ (Instr.wireStreamInfo (2 ^ 16) 0 0 0 0 0 0 0 0).WellFormed := by decide
theorem test_wf_streamInfo_maxBs : ¬ (Instr.wireStreamInfo 0 (2 ^ 16) 0 0 0 0 0 0 0).WellFormed := by decide
theorem test_wf_streamInfo_minFs : ¬ (Instr.wireStreamInfo 0 0 (2 ^ 24) 0 0 0 0 0 0).WellFormed := by decide
theorem test_wf_streamInfo_maxFs : ¬ (Instr.wireStreamInfo 0 0 0 (2 ^ 24) 0 0 0 0 0).WellFormed := by decide
theorem test_wf_streamInfo_rate : ¬ (Instr.wireStreamInfo 0 0 0 0 (2 ^ 20) 0 0 0 0).WellFormed := by decide
theorem test_wf_streamInfo_ch : ¬ (Instr.wireStreamInfo 0 0 0 0 0 8 0 0 0).WellFormed := by decide
theorem test_wf_streamInfo_bps : ¬ (Instr.wireStreamInfo 0 0 0 0 0 0 32 0 0).WellFormed := by decide
theorem test_wf_streamInfo_total : ¬ (Instr.wireStreamInfo 0 0 0 0 0 0 0 (2 ^ 36) 0).WellFormed := by decide
theorem test_wf_streamInfo_md5 : ¬ (Instr.wireStreamInfo 0 0 0 0 0 0 0 0 (2 ^ 128)).WellFormed := by decide
theorem test_wf_frameHeader :
    ¬ (Instr.wireFrameHeader 2 0 0 0 0 0).WellFormed ∧ ¬ (Instr.wireFrameHeader 0 2 0 0 0 0).WellFormed ∧
      ¬ (Instr.wireFrameHeader 0 0 16 0 0 0).WellFormed ∧ ¬ (Instr.wireFrameHeader 0 0 0 16 0 0).WellFormed ∧
      ¬ (Instr.wireFrameHeader 0 0 0 0 16 0).WellFormed ∧ ¬ (Instr.wireFrameHeader 0 0 0 0 0 8).WellFormed := by decide
theorem test_wf_subframe :
    ¬ (Instr.wireSfConstant 2).WellFormed ∧ ¬ (Instr.wireSfVerbatim 2).WellFormed ∧ ¬ (Instr.wireSfFixed 8 0).WellFormed ∧
      ¬ (Instr.wireSfFixed 0 2).WellFormed ∧ ¬ (Instr.wireSfLpc 32 0).WellFormed ∧ ¬ (Instr.wireSfLpc 0 2).WellFormed := by decide
theorem test_wf_rest :
    ¬ (Instr.wireResHeader 4 0).WellFormed ∧ ¬ (Instr.wireResHeader 0 16).WellFormed ∧
      ¬ (Instr.wireSeekpoint (2 ^ 64) 0 0).WellFormed ∧ ¬ (Instr.wireSeekpoint 0 (2 ^ 64) 0).WellFormed ∧
      ¬ (Instr.wireSeekpoint 0 0 (2 ^ 16)).WellFormed ∧ ¬ (Instr.wireFrameFooter (2 ^ 16)).WellFormed := by decide

/-! ### Decoding: words written out from R100 (op, a, b) and from the wire layouts -/

theorem test_decode_session :
    decodeTableWord 80 0x00020000000000000000 = some (.streamReset 2) ∧
    decodeTableWord 80 0x02000000000000000000 = some .inEof ∧ decodeTableWord 80 0x03000000000000000000 = some .outPull ∧
    decodeTableWord 80 0x04000000000000000000 = some .pcmPop ∧ decodeTableWord 80 0x05000000000000000000 = some .mdPop ∧
    decodeTableWord 80 0x06000000000000000000 = some .reportPop ∧
    decodeTableWord 80 0x07000000000000001000 = some (.pcmPush 4096) ∧
    decodeTableWord 80 0x08000000000000000000 = some .siPop := by decide
theorem test_decode_reader :
    decodeTableWord 80 0x11050000000000000000 = some (.brReadS 5) ∧
    decodeTableWord 80 0x12000000000000000000 = some .brReadUnary ∧
    decodeTableWord 80 0x13020000000000000000 = some (.brReadRice 2) ∧
    decodeTableWord 80 0x14000000000000000000 = some .brAlign ∧
    decodeTableWord 80 0x15000000000000000010 = some (.brReadBytes 16) ∧
    decodeTableWord 80 0x16060000000000000000 = some (.brReadCoded 6) := by decide
theorem test_decode_writer :
    decodeTableWord 80 0x2020FFFFFFFFFFFFFFFF = some (.bwWriteU 32 0xFFFFFFFFFFFFFFFF) ∧
    decodeTableWord 80 0x21048000000000000000 = some (.bwWriteS 4 (-9223372036854775808)) ∧
    decodeTableWord 80 0x22000000000000000003 = some (.bwWriteUnary 3) ∧
    decodeTableWord 80 0x2302FFFFFFFFFFFFFFFB = some (.bwWriteRice 2 (-5)) ∧
    decodeTableWord 80 0x24000000000000000000 = some .bwAlign ∧
    decodeTableWord 80 0x25000000000000000002 = some (.bwWriteBytes 2) ∧
    decodeTableWord 80 0x26000000000000012345 = some (.bwWriteCoded 0x12345) := by decide
theorem test_decode_hash :
    decodeTableWord 80 0x30000000000000000000 = some .crc8Reset ∧
    decodeTableWord 80 0x31000000000000000006 = some (.crc8Update 6) ∧
    decodeTableWord 80 0x33000000000000000006 = some (.crc16Update 6) ∧
    decodeTableWord 80 0x34000000000000000000 = some .md5Reset ∧
    decodeTableWord 80 0x35000000000000000001 = some (.md5Update 1) ∧
    decodeTableWord 80 0x36000000000000000000 = some .md5UpdatePcm ∧
    decodeTableWord 80 0x37000000000000000000 = some .md5Final := by decide
theorem test_decode_frame :
    decodeTableWord 80 0x40000000000000000000 = some .mkRead ∧ decodeTableWord 80 0x41000000000000000000 = some .mbhRead ∧
    decodeTableWord 80 0x42000000000000000000 = some .siRead ∧ decodeTableWord 80 0x43000000000000000000 = some .siValidate ∧
    decodeTableWord 80 0x44000000000000000000 = some .mbReadBody ∧ decodeTableWord 80 0x45000000000000000000 = some .fhParse ∧
    decodeTableWord 80 0x46000000000000000000 = some .fhValidate ∧
    decodeTableWord 80 0x47000000000000000003 = some (.mdseqCheck 3) ∧
    decodeTableWord 80 0x48000000000000000000 = some .mkWrite ∧ decodeTableWord 80 0x4A000000000000000000 = some .siWrite ∧
    decodeTableWord 80 0x4B000000000000000000 = some .fhWrite := by decide
theorem test_decode_predictor :
    decodeTableWord 80 0x50010000000000000000 = some (.sfDec 1) ∧
    decodeTableWord 80 0x51000000000000000000 = some .sfDecConstant ∧
    decodeTableWord 80 0x52000000000000000000 = some .sfDecVerbatim ∧
    decodeTableWord 80 0x53000000000000000000 = some .sfDecFixed ∧ decodeTableWord 80 0x54000000000000000000 = some .sfDecLpc ∧
    decodeTableWord 80 0x55000000000000000000 = some .fixedRestore ∧
    decodeTableWord 80 0x56000000000000000000 = some .lpcRestore ∧
    decodeTableWord 80 0x58000000000000000000 = some .lpcResidual ∧
    decodeTableWord 80 0x59000000000000000000 = some .lpcAnalyze ∧
    decodeTableWord 80 0x5A000000000000000000 = some .sfEncConstant ∧
    decodeTableWord 80 0x5B000000000000000000 = some .sfEncVerbatim ∧
    decodeTableWord 80 0x5C000000000000000000 = some .sfEncFixed ∧ decodeTableWord 80 0x5D000000000000000000 = some .sfEncLpc ∧
    decodeTableWord 80 0x5E010000000000000000 = some (.sfSelect 1) := by decide
theorem test_decode_coder_and_sequencers :
    decodeTableWord 80 0x60000000000000000000 = some .resDecode ∧ decodeTableWord 80 0x61000000000000000000 = some .resEncode ∧
    decodeTableWord 80 0x63000000000000000000 = some .partSelect ∧ decodeTableWord 80 0x71000000000000000000 = some .decFrame ∧
    decodeTableWord 80 0x72000000000000000000 = some .chDecorrInv ∧ decodeTableWord 80 0x73000000000000000000 = some .decFlush ∧
    decodeTableWord 80 0x78000000000000000000 = some (.encInit 0) ∧ decodeTableWord 80 0x79000000000000000000 = some .encBlock ∧
    decodeTableWord 80 0x7A000000000000000000 = some .encFinish ∧
    decodeTableWord 80 0x7C000000000000000000 = some .stereoSelect ∧
    decodeTableWord 80 0x7E000000000000000024 = some (.seekLoad 36) := by decide
/-- V-MD-2's body, V-SEEK-1's second point; the subframe bytes of V-SF-1, V-SF-2. -/
theorem test_decode_wire :
    decodeTableWord 272 0x00080008000012000012_0AC440F000000010_00000000000000000000000000000001 =
      some (.wireStreamInfo 8 8 18 18 44100 0 15 16 1) ∧
    decodeTableWord 144 0x000000000000000800000000000000120008 = some (.wireSeekpoint 8 18 8) ∧
    decodeTableWord 8 0x00 = some (.wireSfConstant 0) ∧ decodeTableWord 8 0x03 = some (.wireSfVerbatim 1) ∧
    decodeTableWord 32 0xFFF9C918 = some (.wireFrameHeader 0 1 12 9 1 4) ∧
    decodeTableWord 32 0xFFF8C919 = some (.wireMbHeader 1 127 0xF8C919) := by decide
/-- R100: an opcode not in the table; an unused field that is not zero; too wide. R121: a reserved type. -/
theorem test_decode_rejects :
    decode ⟨.cmd80, 0x7D * 2 ^ 72⟩ = .error (.unknownOpcode 0x7D) ∧ decode ⟨.cmd80, 0x0200000000000000000001⟩ = .error .tooWide ∧
    decode ⟨.cmd80, 0x02000000000000000001⟩ = .error (.unusedNotZero .inEof) ∧
    decode ⟨.cmd80, 0x01010000000000000000⟩ = .error (.unusedNotZero .inPush) ∧
    decode ⟨.subframeHeader, 0x04⟩ = .error .otherStructure ∧ decode ⟨.frameHeader, 0xFFF0C918⟩ = .error .otherStructure := by
  decide

/-! ### Small states -/

/-- A live session in mode `m` with these input bytes. -/
def live (m : Mode) (bs : List Byte) : State := { State.reset with mode := m, input := bs }

/-- The same, input ended. -/
def ended (m : Mode) (bs : List Byte) : State := { live m bs with inEof := true }

/-- What `f` reads of the state after `i`. -/
def after {α : Type} (i : Instr) (s : State) (f : State → α) : Option α :=
  match exec i s with
  | .next t => some (f t)
  | .fault _ | .refused _ => none

/-- The reply of `i`. -/
def reply (i : Instr) (s : State) : Option Reply := (after i s State.reply).join

/-- The StreamInfo of the final stream of program A but for the hash. -/
def infoA : StreamInfo := ⟨4, 4, 12, 12, 44100, 1, 16, 4, 0⟩

/-- The configuration of program A. -/
def cfgA : EncConfig :=
  { channels := 1, bps := 16, sampleRate := 44100, blocksize := 4, minBlocksize := 4, maxBlocksize := 4, totalSamples := 4
    stereoTrial := false, maxLpcOrder := 0, qlpPrec := 12, maxPorder := 0, method := 0, siLast := true }

/-- The frame of program A. -/
def frameA : List Byte :=
  [0xFF#8, 0xF8#8, 0x69#8, 0x08#8, 0x00#8, 0x03#8, 0x14#8, 0x00#8, 0x00#8, 0x64#8, 0x95#8, 0xF4#8]

/-- A decoder that has read program A's metadata and stands at these bytes. -/
def atFrame (bs : List Byte) : State :=
  { live .decode bs with dstate := .synced, si := some infoA, siValid := true }

/-- An encoder that `ENC_INIT` has started with program A's configuration. -/
def ready : State :=
  { live .encode [] with estate := .ready, cfg := some cfgA, si := some (provisionalInfo cfgA), siValid := true }

/-- A subframe in hand: `SMP[0]` holds `xs`, with these registers. -/
def inHand (m : Mode) (xs : List Int) (type : SfType) (order bps : Nat) : State :=
  { live m [] with
    smp := xs :: State.reset.smp.tail
    fh := { FhRegs.reset with
      blocksize := some xs.length, channels := some 1, bps := some bps, chanAssign := some 0, valid := true }
    sf := ⟨some type, some order, some 0, some bps, some 0⟩ }

/-! ### Single steps: the bit reader and the bit writer -/

/-- V-BIT-1, the bytes read back: each field at its place. -/
theorem test_read_fields :
    let s := live .idle [0xBD#8, 0xA5#8, 0x12#8, 0x80#8]
    reply (.brReadU 3) s = some (.ok (.nat 5)) ∧ reply (.brReadS 5) { s with brPos := 3 } = some (.ok (.int (-3))) ∧
    reply .brReadUnary { s with brPos := 16 } = some (.ok (.nat 3)) ∧
    reply (.brReadRice 2) { s with brPos := 20 } = some (.ok (.int (-5))) ∧
    after .brAlign { s with brPos := 25 } State.brPos = some 32 := by decide +kernel
/-- V-BIT-5. -/
theorem test_read_starvation :
    reply (.brReadU 9) (live .idle [0xA5#8]) = some .hold ∧
    after (.brReadU 9) (ended .idle [0xA5#8]) (fun t => (t.reply, t.brPos, t.status)) =
      some (some (.fault .endOfStream), 0, 0x0001#16) ∧
    reply .brReadUnary (ended .idle [0x00#8, 0x00#8]) = some (.fault .endOfStream) := by decide +kernel
theorem test_read_bytes :
    after (.brReadBytes 2) { live .idle [0x01#8, 0x02#8, 0x03#8] with brPos := 8 } (fun t => (t.reply, t.brPos)) =
      some (some (.ok (.bytes [0x02#8, 0x03#8])), 24) ∧
    reply (.brReadBytes 1) { live .idle [0x01#8] with brPos := 1 } = some (.fault (.logic .notAligned)) := by decide +kernel
/-- V-BIT-8: `F0 92 8D 85`, `FE BF ...`, and the faults below the table. -/
theorem test_read_coded :
    reply (.brReadCoded 6) (live .idle [0xF0#8, 0x92#8, 0x8D#8, 0x85#8]) = some (.ok (.nat 0x12345)) ∧
    reply (.brReadCoded 7) (live .idle [0xFE#8, 0xBF#8, 0xBF#8, 0xBF#8, 0xBF#8, 0xBF#8, 0xBF#8]) =
      some (.ok (.nat 0xFFFFFFFFF)) ∧
    reply (.brReadCoded 6) (live .idle [0xFE#8]) = some (.fault (.sync .badCodedNumber)) ∧
    after (.brReadCoded 6) (live .idle [0xC2#8, 0x00#8]) (fun t => (t.reply, t.brPos)) =
      some (some (.fault (.sync .badCodedNumber)), 0) := by decide +kernel
/-- V-BIT-1, V-BIT-3, V-BIT-7: the bits appended. -/
theorem test_write_fields :
    after (.bwWriteU 3 5) State.reset State.out = some [true, false, true] ∧
    after (.bwWriteS 5 (-3)) State.reset State.out = some [true, true, true, false, true] ∧
    after (.bwWriteS 4 (-8)) State.reset State.out = some [true, false, false, false] ∧
    after (.bwWriteUnary 3) State.reset State.out = some [false, false, false, true] ∧
    after (.bwWriteRice 2 (-5)) State.reset State.out = some [false, false, true, false, true] ∧
    after (.bwWriteRice 3 (-9)) State.reset State.out = some [false, false, true, false, false, true] ∧
    after .bwAlign { State.reset with out := [true] } (fun t => (t.reply, t.out.length)) = some (some (.ok (.nat 7)), 8) := by
  decide +kernel
/-- V-BIT-6, V-EXC-1: nothing written, the session dead, one report entry; what is still accepted. -/
theorem test_write_refused :
    after (.bwWriteU 3 8) State.reset (fun t => (t.reply, t.out, t.status, t.report.length)) =
      some (some (.fault (.logic .valueOutOfRange)), [], 0x0002#16, 1) ∧
    reply (.bwWriteU 33 0) State.reset = some (.fault (.logic .widthOutOfRange)) ∧
    reply (.bwWriteU 3 1) { State.reset with status := 0x0002#16 } = some (.fault (.logic .faulted)) ∧
    reply .reportPop { State.reset with status := 0x0002#16 } = some (.ok (.report none)) ∧
    after (.streamReset 0) { State.reset with status := 0x0002#16, out := [true] } (fun t => (t.status, t.out)) =
      some (0x0000#16, []) := by decide +kernel
theorem test_write_bytes_and_coded :
    after (.bwWriteBytes 2) { State.reset with payload := .bytes [0xDE#8, 0xAD#8] } (fun t => bitsBytes t.out) =
      some [0xDE#8, 0xAD#8] ∧
    after (.bwWriteCoded 0x4000000) State.reset (fun t => bitsBytes t.out) =
      some [0xFC#8, 0x84#8, 0x80#8, 0x80#8, 0x80#8, 0x80#8] ∧
    after (.bwWriteCoded 0x80000000) State.reset (fun t => bitsBytes t.out) =
      some [0xFE#8, 0x82#8, 0x80#8, 0x80#8, 0x80#8, 0x80#8, 0x80#8] := by decide +kernel

/-! ### Host ports -/

theorem test_ports :
    after (.inPush 2) { live .decode [0x01#8] with payload := .bytes [0x02#8, 0x03#8] } State.input =
      some [0x01#8, 0x02#8, 0x03#8] ∧
    reply (.inPush 0) (ended .decode []) = some (.fault (.logic .badOperand)) ∧
    after .inEof (live .decode []) State.inEof = some true ∧
    after .outPull { State.reset with out := bytesBits [0x11#8, 0x22#8, 0x33#8] ++ [true], outRd := 1 }
      (fun t => (t.reply, t.outRd)) = some (some (.ok (.bytes [0x22#8, 0x33#8])), 3) ∧
    after (.pcmPush 2) { ready with payload := .samples [[7, -8]] } State.pcmIn = some [⟨2, [[7, -8]]⟩] ∧
    reply (.pcmPush 2) { ready with payload := .samples [[7]] } = some (.fault (.logic .badOperand)) := by decide +kernel
theorem test_pops :
    after .siPop { State.reset with siOut := [[0x01#8], [0x02#8]] } (fun t => (t.reply, t.siOut)) =
      some (some (.ok (.siBody (some [0x01#8]))), [[0x02#8]]) ∧
    reply .pcmPop State.reset = some (.ok (.block none)) ∧ reply .mdPop State.reset = some (.ok (.metadata none)) := by decide +kernel

/-! ### Checksums and hash -/

/-- V-CRC-1, V-CRC-2. -/
theorem test_crc :
    reply (.crc8Update 4) { State.reset with payload := .bytes [0xFF#8, 0xF8#8, 0x69#8, 0x08#8] } = some (.ok (.nat 0x9C)) ∧
    reply (.crc8Update 2) { State.reset with crc8 := 0x9C#8, payload := .bytes [0x00#8, 0x03#8] } = some (.ok (.nat 0x14)) ∧
    reply (.crc16Update 4) { State.reset with payload := .bytes [0xFF#8, 0xF8#8, 0x69#8, 0x08#8] } =
      some (.ok (.nat 0xF67D)) ∧
    reply (.crc16Update 2) { State.reset with crc16 := 0xF67D#16, payload := .bytes [0x00#8, 0x03#8] } =
      some (.ok (.nat 0xB50B)) ∧
    after .crc16Reset { State.reset with crc16 := 0xFFFF#16 } State.crc16 = some 0#16 := by decide +kernel
/-- V-MD5-1: the empty message and `abc`. -/
theorem test_md5 :
    (after .md5Final State.reset fun t => t.md5.digest) = some (some 0xd41d8cd98f00b204e9800998ecf8427e#128) ∧
    (after .md5Final { State.reset with md5 := md5Absorb Md5Regs.reset [0x61#8, 0x62#8, 0x63#8] } fun t => t.md5.digest) =
      some (some 0x900150983cd24fb0d6963f7d28e17f72#128) := by decide +kernel
/-- V-MD5-2: the bytes that are fed, first and second row. -/
theorem test_md5_pcm :
    (after .md5UpdatePcm
      { live .decode [] with
        si := some { infoA with channels := 2 }, smp := [[1, 2], [-1, -2], [], [], [], [], [], []]
        fh := { FhRegs.reset with blocksize := some 2, channels := some 2, valid := true } } fun t => t.md5.buf) =
      some [0x01#8, 0x00#8, 0xFF#8, 0xFF#8, 0x02#8, 0x00#8, 0xFE#8, 0xFF#8] ∧
    (after .md5UpdatePcm
      { live .decode [] with
        si := some { infoA with channels := 2, bps := 20 }, smp := [[-2], [100000], [], [], [], [], [], []]
        fh := { FhRegs.reset with blocksize := some 1, channels := some 2, valid := true } } fun t => t.md5.buf) =
      some [0xFE#8, 0xFF#8, 0xFF#8, 0xA0#8, 0x86#8, 0x01#8] := by decide +kernel

/-! ### Marker, metadata, frame header -/

theorem test_marker :
    after .mkRead (live .decode Config.streamMarker) (fun t => (t.reply, t.brPos)) = some (some (.ok .none), 32) ∧
    reply .mkRead (live .decode [0x66#8, 0x4C#8, 0x61#8, 0x44#8]) = some (.fault (.structural .badMarker)) ∧
    after .mkWrite State.reset (fun t => bitsBytes t.out) = some [0x66#8, 0x4C#8, 0x61#8, 0x43#8] := by decide +kernel
/-- V-MD-1. -/
theorem test_block_header :
    after .mbhRead (live .decode [0x03#8, 0x00#8, 0x00#8, 0x24#8]) (fun t => (t.mb, t.mbCount)) =
      some (some ⟨false, 3, 36⟩, 1) ∧
    after (.mbhWrite 1 (1 * 2 ^ 24 + 2)) State.reset (fun t => bitsBytes t.out) = some [0x81#8, 0x00#8, 0x00#8, 0x02#8] := by
  decide +kernel
/-- V-MD-2. -/
theorem test_stream_info :
    after .siRead (live .decode ([0x00#8, 0x08#8, 0x00#8, 0x08#8, 0x00#8, 0x00#8, 0x12#8, 0x00#8, 0x00#8, 0x12#8, 0x0A#8, 0xC4#8,
        0x40#8, 0xF0#8, 0x00#8, 0x00#8, 0x00#8, 0x10#8] ++ List.replicate 16 0x5A#8)) State.si =
      some (some ⟨8, 8, 18, 18, 44100, 1, 16, 16, 0x5A5A5A5A5A5A5A5A5A5A5A5A5A5A5A5A#128⟩) ∧
    after .siWrite { State.reset with siValid := true, si := some ⟨8, 8, 18, 18, 44100, 1, 16, 16, 0⟩ }
      (fun t => bitsBytes t.out) =
      some ([0x00#8, 0x08#8, 0x00#8, 0x08#8, 0x00#8, 0x00#8, 0x12#8, 0x00#8, 0x00#8, 0x12#8, 0x0A#8, 0xC4#8, 0x40#8, 0xF0#8,
        0x00#8, 0x00#8, 0x00#8, 0x10#8] ++ List.replicate 16 0x00#8) := by decide +kernel
/-- V-MD-3. -/
theorem test_validate :
    reply .siValidate { State.reset with si := some { infoA with minFramesize := 0, maxFramesize := 0, totalSamples := 0 } } =
      some (.ok .none) ∧
    reply .siValidate { State.reset with si := some { infoA with minFramesize := 19, maxFramesize := 18 } } =
      some (.fault (.structural .inconsistentStreamInfo)) := by decide +kernel
/-- R224: in a session that `ENC_INIT` started, `SI_READ` has not run. -/
theorem test_validate_encode :
    reply .siValidate { State.reset with mode := .encode, si := some infoA, siValid := true } =
      some (.fault (.logic .unwrittenState)) := by decide +kernel
/-- V-MD-4. -/
theorem test_sequence :
    reply (.mdseqCheck 3) { State.reset with payload := .blocks [⟨0, false, 34⟩, ⟨4, false, 9⟩, ⟨1, true, 2⟩] } =
      some (.ok .none) ∧
    reply (.mdseqCheck 2) { State.reset with payload := .blocks [⟨0, true, 34⟩, ⟨1, true, 2⟩] } =
      some (.fault (.structural .multipleLast)) := by decide +kernel
theorem test_block_body :
    after .mbReadBody { live .decode [0xAA#8, 0xBB#8] with mb := some ⟨true, 1, 2⟩ } (fun t => (t.mdOut, t.brPos)) =
      some ([⟨1, true, 2, [0xAA#8, 0xBB#8]⟩], 16) := by decide +kernel
/-- V-FH-1, second row, read; V-FH-2: the sample-rate code 15 and the CRC-8 fault. -/
theorem test_frame_header_read :
    after .fhParse (live .decode [0xFF#8, 0xF8#8, 0x78#8, 0x0C#8, 0xC4#8, 0xAC#8, 0x03#8, 0xE7#8, 0x42#8])
      (fun t => (t.reply, t.fh.number, t.fh.blocksize, t.fh.sampleRate)) =
      some (some (.ok .none), some 300, some 1000, some 32000) ∧
    after .fhParse (live .decode [0xFF#8, 0xF8#8, 0x6F#8, 0x08#8]) (fun t => (t.reply, t.brPos)) =
      some (some (.fault (.sync .headerReserved)), 32) ∧
    after .fhParse (live .decode [0xFF#8, 0xF8#8, 0x69#8, 0x08#8, 0x00#8, 0x03#8, 0x00#8])
      (fun t => (t.reply, t.brPos, t.status)) = some (some (.fault (.sync .headerCrc8)), 56, 0x0014#16) := by decide +kernel
/-- V-FH-2: assignment 11, depth code 3, another depth. -/
theorem test_frame_header_validate :
    let s := { atFrame [] with fh := { FhRegs.reset with
      reserved := some 0, bsCode := some 6, blocksize := some 4, chanAssign := some 0, bpsCode := some 4, sampleRate := some 44100
      variable_ := some 0, number := some 3 } }
    after .fhValidate s (fun t => (t.reply, t.fh.firstSample, t.fh.valid)) = some (some (.ok .none), some 12, true) ∧
    reply .fhValidate { s with fh := { s.fh with chanAssign := some 11 } } = some (.fault (.unsupported .channelAssignment)) ∧
    reply .fhValidate { s with fh := { s.fh with bpsCode := some 3 } } = some (.fault (.unsupported .bitDepthCode)) ∧
    reply .fhValidate { s with fh := { s.fh with bpsCode := some 1 } } = some (.fault (.sync .headerMismatch)) := by decide +kernel
/-- V-FH-1, third row. -/
theorem test_frame_header_write :
    after .fhWrite { State.reset with fh := { FhRegs.reset with
        variable_ := some 1, number := some 0x12345, blocksize := some 4608, sampleRate := some 50000, chanAssign := some 10
        bps := some 8 } } (fun t => bitsBytes t.out) =
      some [0xFF#8, 0xF9#8, 0x5C#8, 0xA2#8, 0xF0#8, 0x92#8, 0x8D#8, 0x85#8, 0x32#8, 0xB2#8] := by decide +kernel

/-! ### Subframes and prediction -/

/-- V-LPC-1, and V-LPC-2's shift toward minus infinity. -/
theorem test_lpc :
    let s := { inHand .idle [10, 20, 31, 43, 56, 70, 85] .lpc 2 16 with qlp := [7, -3], qlpShift := some 2 }
    after .lpcResidual s State.res = some [4, 4, 4, 5, 5] ∧
    (after .lpcRestore { s with res := [4, 4, 4, 5, 5], smp := [10, 20, 0, 0, 0, 0, 0] :: s.smp.tail } fun t => t.row 0) =
      some [10, 20, 31, 43, 56, 70, 85] ∧
    after .lpcResidual { inHand .idle [0, -1, -2, -3] .lpc 1 16 with qlp := [5], qlpShift := some 3 } State.res =
      some [-1, -1, -1] := by decide +kernel
/-- V-FIX-1, V-FIX-2. -/
theorem test_fixed :
    after (.fixedResidual 2) (inHand .idle [3, 5, 8, 12, 17, 23, 30] .fixed 0 16) (fun t => (t.res, t.sf.order)) =
      some ([1, 1, 1, 1, 1], some 2) ∧
    after (.fixedResidual 4) (inHand .idle [-32768, 32767, -32768, 32767, -32768] .fixed 0 16) (fun t => (t.reply, t.res)) =
      some (some (.ok (.nat 524280)), [-524280]) ∧
    (after .fixedRestore { inHand .idle [3, 5, 8, 0, 0, 0, 0] .fixed 3 16 with res := [0, 0, 0, 0] } fun t => t.row 0) =
      some [3, 5, 8, 12, 17, 23, 30] := by decide +kernel
/-- V-SF-1, V-SF-2, V-SF-5: the bytes written. -/
theorem test_subframe_write :
    after .sfEncConstant (inHand .idle [100, 100, 100, 100] .constant 0 16) (fun t => bitsBytes t.out) =
      some [0x00#8, 0x00#8, 0x64#8] ∧
    after .sfEncVerbatim (inHand .idle [1, -1, 2, -2] .verbatim 0 8) (fun t => bitsBytes t.out) =
      some [0x02#8, 0x01#8, 0xFF#8, 0x02#8, 0xFE#8] ∧
    reply .sfEncConstant (inHand .idle [100, 101] .constant 0 16) = some (.fault (.logic .badOperand)) := by decide +kernel
/-- V-SF-3: 68 bits, then padding. -/
theorem test_fixed_subframe :
    after .sfEncFixed { inHand .idle [0, 1, 3, 6, 10, 15, 21, 28] .fixed 2 16 with
        rc := ⟨some 0, some 0, [⟨false, some 0, none⟩]⟩ } (fun t => (t.out.length, bitsBytes t.out)) =
      some (68, [0x14#8, 0x00#8, 0x00#8, 0x00#8, 0x01#8, 0x00#8, 0x09#8, 0x24#8]) := by decide +kernel
/-- V-SF-5 read by `SF_DEC`; V-SF-6: a reserved type. -/
theorem test_subframe_read :
    let s := { inHand .decode [0, 0, 0, 0] .constant 0 16 with
      input := [0x03#8, 0x40#8, 0x01#8, 0x00#8, 0x0B#8, 0xFF#8, 0xD0#8, 0x01#8, 0x00#8] }
    after (.sfDec 0) s (fun t => (t.reply, t.brPos, t.row 0)) = some (some (.ok .none), 66, [4, 8, -12, 16]) ∧
    reply (.sfDec 0) { s with input := [0x04#8] } = some (.fault (.sync .subframeReserved)) := by decide +kernel
/-- Program A's frame against a StreamInfo of another rate: what the failed frame leaves (R424, R433). -/
theorem test_failed_frame :
    after .decFrame { atFrame frameA with si := some { infoA with sampleRate := 48000 }, crc16 := 0x1234#16 }
      (fun t => (t.reply, t.fh.channels, t.fh.bps, t.crc8, t.crc16)) =
      some (some (.fault (.sync .headerMismatch)), some 1, some 16, 0x14#8, 0x0000#16) := by decide +kernel
/-- V-LPC-FRAME. -/
theorem test_lpc_frame :
    after .decFrame { atFrame [0xFF#8, 0xF9#8, 0x6A#8, 0x08#8, 0x05#8, 0x0F#8, 0x29#8, 0x42#8, 0x00#8, 0x0A#8, 0x00#8, 0x14#8,
        0x41#8, 0x1F#8, 0xA8#8, 0x88#8, 0x84#8, 0x21#8, 0x8C#8, 0x6F#8, 0x92#8, 0xB3#8, 0x33#8, 0x3B#8, 0xB8#8, 0xC9#8, 0xFF#8] with
        si := some { infoA with maxBlocksize := 16, sampleRate := 48000 } }
      (fun t => (t.reply, t.row 0, t.fh.firstSample, t.brPos)) =
      some (some (.ok .none), [10, 20, 31, 43, 56, 70, 85, 101, 118, 136, 155, 175, 196, 218, 241, 265], some 5, 216) := by decide +kernel

/-! ### Residual coder and selections -/

/-- V-RES-2, V-RES-1. -/
theorem test_residual_write :
    let s := { inHand .idle [0, 0, 0, 0, 0, 0, 0, 0] .fixed 0 16 with
      res := [0, -1, 3, -4, 10, 2, -7, 1], rc := ⟨some 0, some 0, [⟨false, some 2, none⟩]⟩ }
    after .resEncode s (fun t => (t.reply, bitsBytes t.out)) =
      some (some (.ok (.nat 45)), [0x00#8, 0xA5#8, 0x67#8, 0x04#8, 0x41#8]) ∧
    reply (.riceParamSelect 14 0 8) s = some (.ok (.riceParam 2 35)) ∧
    reply (.riceParamSelect 14 4 4) s = some (.ok (.riceParam 3 19)) := by decide +kernel
/-- V-RES-4 read: the escape of width 0; V-RES-7: method 2. -/
theorem test_residual_read :
    let s := { inHand .decode [0, 0, 0, 0, 0, 0, 0, 0] .fixed 0 16 with input := [0x03#8, 0xC0#8] }
    after .resDecode s (fun t => (t.brPos, t.res)) = some (15, [0, 0, 0, 0, 0, 0, 0, 0]) ∧
    reply .resDecode { s with input := [0x80#8] } = some (.fault (.sync .badResidual)) := by decide +kernel
/-- V-RES-4, V-RES-5 under the reference function; V-SEL-1, fourth row. -/
theorem test_reference_selections :
    tableSize 8 0 (List.replicate 8 0) (refPartitioning cfgA 8 0 (List.replicate 8 0)) = 15 ∧
    tableSize 4 0 [1000, -1000, 1000, -1000] (refPartitioning cfgA 4 0 [1000, -1000, 1000, -1000]) = 58 ∧
    refSubframe Selections.reference cfgA 16 [1, 2, 3, 4] = .fixed 0 0 ∧
    refSubframe Selections.reference cfgA 16 [100, 100, 100, 100] = .constant 0 ∧
    refStereo Selections.reference { cfgA with channels := 2 } [1, 2, 3, 4] [1, 2, 3, 4] = 10 := by decide +kernel

/-! ### Decoder, encoder, seek index -/

/-- V-DECORR-1, rows 1 and 5. -/
theorem test_decorrelation :
    let s := { State.reset with
      smp := [[0, -32768], [-3, 32767], [], [], [], [], [], []]
      fh := { FhRegs.reset with channels := some 2, blocksize := some 2, bps := some 16 } }
    (after (.chDecorrFwd 10) s fun t => (t.row 0, t.row 1)) = some ([-2, -1], [3, -65535]) ∧
    (after .chDecorrInv { s with
        smp := [[-2, -1], [3, -65535], [], [], [], [], [], []], fh := { s.fh with chanAssign := some 10 } }
      fun t => (t.row 0, t.row 1)) = some ([0, -32768], [-3, 32767]) := by decide +kernel
/-- Program A: the frame step. -/
theorem test_decode_step :
    after .decStep (atFrame frameA) (fun t => (t.reply, t.pcmOut, t.framesOk, t.samplesOk, t.brPos)) =
      some (some (.ok (.dstate .synced)), [⟨0, 4, 1, 16, 44100, [[100, 100, 100, 100]]⟩], 1, 4, 96) := by decide +kernel
/-- V-EXC-4; and R372's byte index where the body of a metadata block is cut: the byte behind the block's header. -/
theorem test_bad_marker :
    after .decStep (live .decode [0x66#8, 0x4C#8, 0x61#8, 0x44#8])
      (fun t => (t.dstate, t.fatalCode, t.fatalSub, t.verdict, t.report)) =
      some (.fatalError, 4, 1, .notVerified, [.exception 4 1 0, .final .notVerified 0 0 0]) ∧
    after .decStep { ended .decode [0x01#8, 0x00#8, 0x00#8, 0x02#8, 0xAA#8] with dstate := .readMetadata } State.report =
      some [.exception 1 0 4, .exception 4 5 4, .final .notVerified 0 0 0] := by decide +kernel
/-- A damaged body bit: CRC-16 (program C's variant C-2 on program A's frame); and the flush. -/
theorem test_resync :
    after .decStep (atFrame (frameA.set 9 0x65#8)) (fun t => (t.dstate, t.skipStart, t.status, t.report, t.pcmOut)) =
      some (.resync, 0, 0x0038#16, [.exception 5 10 0], []) := by decide +kernel
theorem test_flush_and_scan :
    after .decFlush (atFrame frameA) (fun t => (t.dstate, t.input, t.status)) = some (.resync, [], 0x0020#16) ∧
    after .decStep { ended .decode [0x00#8, 0xFF#8, 0xF9#8, 0x00#8] with dstate := .resync } (fun t => (t.dstate, t.brPos)) =
      some (.synced, 8) := by decide +kernel
/-- Program A: `ENC_INIT`; V-EXC-3. -/
theorem test_enc_init :
    after (.encInit 0) { live .encode [] with payload := .config cfgA } (fun t => (t.estate, (bitsBytes t.out).take 18)) =
      some (.ready, [0x66#8, 0x4C#8, 0x61#8, 0x43#8, 0x80#8, 0x00#8, 0x00#8, 0x22#8, 0x00#8, 0x04#8, 0x00#8, 0x04#8, 0x00#8,
        0x00#8, 0x00#8, 0x00#8, 0x00#8, 0x00#8]) ∧
    after (.encInit 0) { live .encode [] with payload := .config { cfgA with blocksize := 5 } }
      (fun t => (t.reply, t.estate, t.out, t.status)) =
      some (some (.fault (.config .blockSize)), .failed, [], 0x0100#16) ∧
    reply (.encInit 1) { live .encode [] with payload := .config cfgA } = some (.fault (.logic .badOperand)) := by decide +kernel
/-- Program A: the frame, under the reference functions. -/
theorem test_enc_block :
    (match encBlock Selections.reference { ready with pcmIn := [⟨4, [[100, 100, 100, 100]]⟩] } with
      | .ok len t => some (len, bitsBytes t.out)
      | .error _ _ => none) = some (12, frameA) := by decide +kernel
theorem test_enc_finish :
    (after .encFinish { ready with encFrameNo := 1, encSamples := 4, encMinFs := 12, encMaxFs := 12 }
      fun t => (t.estate, t.siOut.map (·.take 10))) =
      some (.finished, [[0x00#8, 0x04#8, 0x00#8, 0x04#8, 0x00#8, 0x00#8, 0x0C#8, 0x00#8, 0x00#8, 0x0C#8]]) := by decide +kernel
/-- V-SEEK-1, V-SEEK-2, V-SEEK-3. -/
theorem test_seek :
    after (.seekLoad 18) { State.reset with
        payload := .bytes (List.replicate 7 0x00#8 ++ [0x08#8] ++ List.replicate 7 0x00#8 ++ [0x12#8, 0x00#8, 0x08#8]) }
      (fun t => (t.reply, t.seek)) = some (some (.ok (.nat 1)), [⟨8, 18, 8⟩]) ∧
    reply (.seekLookup 50000) { State.reset with seek := [⟨0, 0, 4096⟩, ⟨40960, 30000, 4096⟩, ⟨81920, 61000, 4096⟩] } =
      some (.ok (.offset (some 30000))) ∧
    reply (.seekLookup 100) { State.reset with seek := [⟨4096, 5000, 4096⟩] } = some (.ok (.offset none)) := by decide +kernel

/-! ### For every statement with hypotheses: a state and operands that meet them, at the ends of their ranges -/

theorem witness_PowerOnAndStreamReset :
    ((2 = 0 ∧ Mode.encode = .idle) ∨ (2 = 1 ∧ Mode.encode = .decode) ∨ (2 = 2 ∧ Mode.encode = .encode)) ∧ 3 ≤ 3 := by decide

theorem witness_StepRunsTheIssuedOperation :
    let s := { State.reset with cmdq := [⟨⟨.cmd80, 0x10030000000000000000⟩, .none⟩] }
    let t := { State.reset with cmdq := [⟨⟨.cmd80, 0x7D000000000000000000⟩, .none⟩] }
    s.cmdq = ⟨⟨.cmd80, 0x10030000000000000000⟩, .none⟩ :: [] ∧ decode ⟨.cmd80, 0x10030000000000000000⟩ = .ok (.brReadU 3) ∧
    t.faulted = false ∧ t.cmdq = ⟨⟨.cmd80, 0x7D000000000000000000⟩, .none⟩ :: [] ∧
    decode ⟨.cmd80, 0x7D000000000000000000⟩ = .error (.unknownOpcode 0x7D) ∧ State.reset.cmdq = [] := by decide +kernel

theorem witness_DecodeOfEncodeIsTheInstruction :
    (Instr.bwWriteS 255 (-(2 ^ 63))).WellFormed ∧ (Instr.riceParamSelect 255 (2 ^ 32 - 1) (2 ^ 32 - 1)).WellFormed ∧
    (Instr.wireFrameHeader 1 1 15 15 15 7).WellFormed := by decide

theorem witness_EncodeOfDecodeIsTheWord : decode ⟨.cmd80, 0x21FF8000000000000000⟩ = .ok (.bwWriteS 255 (-(2 ^ 63))) := by
  decide +kernel

theorem witness_PushAndEndOfInput :
    let s := { live .decode [0x01#8] with payload := .bytes [0x02#8] }
    (s.faulted = false ∧ s.inEof = false ∧ Carries s [0x02#8] ∧ [0x02#8].length = 1 ∧ s.input.length + 1 < 2 ^ 61) ∧
    (Carries State.reset [] ∧ ([] : List Byte).length = 0) ∧ (ended .decode []).inEof = true := by decide +kernel

theorem witness_HostQueues :
    let s := { ready with payload := .samples [[-8]] }
    (s.faulted = false ∧ s.cfg = some cfgA ∧ s.mode = .encode ∧ s.estate = .ready ∧ s.payload = .samples [[-8]] ∧
      [[(-8 : Int)]].length = cfgA.channels ∧ ∀ row ∈ [[(-8 : Int)]], row.length = 1) ∧
    (live .decode []).mode ≠ .encode ∧ (live .decode []).cfg = none ∧ (live .encode []).estate ≠ .ready ∧ 65535 < 65536 := by
  decide +kernel

theorem witness_ReadUnsignedAndSigned :
    let s := live .idle [0xFF#8, 0xFF#8, 0xFF#8, 0xFF#8]
    (s.faulted = false ∧ AtCursor s (natBits 1 1) ∧ AtCursor s (natBits 32 0xFFFFFFFF)) ∧
    (AtCursor s (natBits 1 (tc 1 (-1))) ∧ (-(2 ^ (1 - 1)) ≤ (-1 : Int))) ∧
    (AtCursor (live .idle [0x80#8, 0x00#8, 0x00#8, 0x00#8]) (natBits 32 (tc 32 (-(2 ^ 31))))) ∧
    ¬ (1 ≤ 0 ∧ 0 ≤ 32) ∧ ¬ (1 ≤ 33 ∧ 33 ≤ 32) ∧ Lacks (live .idle []) 1 := by decide +kernel

theorem witness_ReadUnaryAndRice :
    (AtCursor (live .idle [0x80#8]) (List.replicate 0 false ++ [true])) ∧
    (AtCursor (live .idle [0x00#8, 0x01#8]) (List.replicate 15 false ++ [true])) ∧
    (AtCursor (live .idle [0xFF#8, 0xFF#8, 0xFF#8, 0xFF#8])
      (List.replicate (zz (-536870912) / 2 ^ 30) false ++ [true] ++ natBits 30 (zz (-536870912)))) ∧
    (AtCursor (live .idle [0x40#8]) (List.replicate (zz (-1) / 2 ^ 0) false ++ [true] ++ natBits 0 (zz (-1)))) ∧
    (∀ b ∈ bitsFrom (live .idle [0x00#8]).input 0, b = false) ∧
    (bitsFrom (live .idle [0x40#8]).input 0 = List.replicate 1 false ++ true :: List.replicate 6 false ∧
      (List.replicate 6 false).length < 7) ∧ 30 < 31 := by decide +kernel

theorem witness_AlignAndReadBytes :
    let s := live .idle [0x01#8, 0x02#8]
    (s.faulted = false ∧ (s.brPos ≤ 8 * s.input.length ∧ 8 * s.outRd ≤ s.out.length) ∧ 2 < 2 ^ 24 ∧ s.brPos % 8 = 0 ∧
      AtCursor s (bytesBits [0x01#8, 0x02#8])) ∧
    AtCursor s (bytesBits []) ∧ { s with brPos := 1 }.brPos % 8 ≠ 0 ∧ Lacks s (8 * 3) ∧ 2 ^ 24 ≤ 2 ^ 24 := by decide +kernel

theorem witness_ReadCodedNumber :
    AtCursor (live .idle [0x7F#8]) (bytesBits [0x7F#8]) ∧
    (0 < 2 ^ (7 - 7) ∧ (0xFE#8).toNat = 256 - 2 ^ (8 - 7) + 0 ∧
      AtCursor (live .idle (0xFE#8 :: List.replicate 6 0xBF#8)) (bytesBits (0xFE#8 :: List.replicate 6 0xBF#8)) ∧
      ∀ x ∈ List.replicate 6 0xBF#8, x.toNat / 64 = 2) ∧
    ((0xC2#8).toNat = 256 - 2 ^ (8 - 2) + 2 ∧ 2 < 2 ^ (7 - 2) ∧ (0x00#8).toNat / 64 ≠ 2 ∧
      AtCursor (live .idle [0xC2#8, 0x00#8]) (bytesBits (0xC2#8 :: [] ++ [0x00#8]))) ∧
    (bitsFrom (live .idle [0xC2#8]).input 0 = bytesBits (0xC2#8 :: []) ∧ ([] : List Byte).length + 1 < 2) ∧
    (AtCursor (live .idle [0xBF#8]) (bytesBits [0xBF#8]) ∧ 0x80 ≤ (0xBF#8).toNat ∧ (0xBF#8).toNat < 0xC0) ∧
    Lacks (live .idle []) 8 ∧ { live .idle [] with brPos := 7 }.brPos % 8 ≠ 0 ∧ 8 ≠ 6 ∧ 8 ≠ 7 := by decide +kernel

theorem witness_WriteFields :
    State.reset.faulted = false ∧ 2 ^ 32 - 1 < 2 ^ 32 ∧ 2 ^ 1 ≤ 2 ∧ (-(2 ^ (32 - 1)) ≤ (-(2 ^ 31) : Int)) ∧
    ¬ (-(2 ^ (1 - 1)) ≤ (1 : Int) ∧ (1 : Int) < 2 ^ (1 - 1)) ∧ ¬ (1 ≤ 33 ∧ 33 ≤ 32) ∧
    (-(2 ^ 31) < (-(2 ^ 31) + 1 : Int)) ∧ ¬ (-(2 ^ 31) < (-(2 ^ 31) : Int) ∧ (-(2 ^ 31) : Int) < 2 ^ 31) ∧ 30 < 31 := by
  decide +kernel

theorem witness_WriteBytesPaddingAndCoded :
    let s := { State.reset with payload := .bytes [0x02#8] }
    (s.out.length % 8 = 0 ∧ Carries s [0x02#8] ∧ [0x02#8].length = 1) ∧ (∀ xs, Carries s xs → xs.length ≠ 2) ∧
    { s with out := [true] }.out.length % 8 ≠ 0 ∧ 2 ^ 36 - 1 < 2 ^ 36 := by
  refine ⟨by decide +kernel, ?_, by decide +kernel, by decide⟩
  rintro xs (h | ⟨-, h⟩) <;> cases h
  decide

theorem witness_ReadsReturnWhatWasWritten :
    (State.reset.faulted = false ∧ State.reset.out = [] ∧
      ∀ f ∈ [BitField.unsigned 32 (2 ^ 32 - 1), .signed 1 (-1), .unary 0, .rice 30 (-(2 ^ 31) + 1)], f.Writable) ∧
    AtCursor (live .idle (codedBytes (2 ^ 36 - 1))) (bytesBits (codedBytes (2 ^ 36 - 1))) ∧
    AtCursor (live .idle (codedBytes (2 ^ 31 - 1))) (bytesBits (codedBytes (2 ^ 31 - 1))) := by
  refine ⟨⟨by decide, by decide, by simp [BitField.Writable]⟩, by decide +kernel, by decide +kernel⟩

theorem witness_CrcOperations :
    let s := { State.reset with payload := .bytes [0x02#8] }
    s.faulted = false ∧ Carries s [0x02#8] ∧ [0x02#8].length = 1 ∧ ∀ xs, Carries s xs → xs.length ≠ 2 := by
  refine ⟨by decide, by decide, by decide, ?_⟩
  rintro xs (h | ⟨-, h⟩) <;> cases h
  decide

theorem witness_CrcDetectsEverySingleBit : [0x00#8, 0xFF#8][1]? = some 0xFF#8 := by decide

theorem witness_Md5Operations :
    let s := { State.reset with payload := .bytes [0x02#8] }
    (s.faulted = false ∧ s.md5.done = false ∧ Carries s [0x02#8] ∧ [0x02#8].length = 1) ∧
    { s with md5 := { s.md5 with done := true, digest := some 5#128 } }.md5.done = true ∧
    { s with md5 := { s.md5 with done := true, digest := some 5#128 } }.md5.digest = some 5#128 := by decide

theorem witness_Md5AbsorbsInAnySplit :
    Md5Regs.reset.buf.length = Md5Regs.reset.len % 64 ∧
    { Md5Regs.reset with len := 127, buf := List.replicate 63 0x61#8 }.buf.length = 127 % 64 := by decide +kernel

theorem witness_HashOfTheBlock :
    let s := { inHand .decode [32767, -32768] .verbatim 0 16 with si := some infoA }
    (s.faulted = false ∧ s.fh.channels = some 1 ∧ s.fh.blocksize = some 2 ∧ s.mode = .decode ∧ s.si = some infoA ∧
      infoA.bps = 16 ∧ 1 ≤ s.smp.length ∧ (∀ c, c < 1 → 2 ≤ (s.row c).length) ∧ s.fh.valid = true ∧ s.md5.done = false ∧
      ∀ c, c < 1 → ∀ i, i < 2 → fitsS (sampleAt (s.row c) i) 16) ∧
    { s with fh := { s.fh with valid := false } }.fh.valid = false ∧ ¬ fitsS 32768 16 ∧
    (ready.mode = .encode ∧ ready.cfg = some cfgA ∧ cfgA.bps = 16) := by
  refine ⟨⟨by decide, by decide, by decide, by decide, by decide, by decide, by decide, ?_, by decide, by decide, ?_⟩,
    by decide, by decide, by decide⟩ <;> decide +kernel

theorem witness_MarkerAndBlockHeader :
    let s := live .decode [0x66#8, 0x4C#8, 0x61#8, 0x43#8]
    (s.faulted = false ∧ s.mode ≠ .encode ∧ s.brPos % 8 = 0 ∧ AtCursor s (bytesBits [0x66#8, 0x4C#8, 0x61#8, 0x43#8])) ∧
    (AtCursor (live .decode [0x66#8, 0x4C#8, 0x61#8, 0x44#8]) (bytesBits [0x66#8, 0x4C#8, 0x61#8, 0x44#8]) ∧
      [0x66#8, 0x4C#8, 0x61#8, 0x44#8] ≠ [0x66#8, 0x4C#8, 0x61#8, 0x43#8]) ∧
    (s.mbCount + 1 < 2 ^ 32 ∧
      AtCursor (live .decode (List.replicate 4 0xFF#8)) (natBits 1 1 ++ natBits 7 (2 ^ 7 - 1) ++ natBits 24 (2 ^ 24 - 1))) ∧
    Lacks (live .decode (List.replicate 3 0x66#8)) 32 ∧ { s with brPos := 1 }.brPos % 8 ≠ 0 ∧ (live .encode []).mode = .encode := by
  decide +kernel

theorem witness_StreamInfoReadAndValidated :
    let s := live .decode (bitsBytes infoA.bits)
    (s.faulted = false ∧ s.mode ≠ .encode ∧ s.brPos % 8 = 0 ∧ s.siValid = false ∧ AtCursor s infoA.bits) ∧
    (atFrame []).siValid = true ∧ Lacks (live .decode []) 272 ∧ (atFrame []).si = some infoA ∧
    (atFrame []).mode ≠ .encode ∧ { infoA with bps := 3 }.bps < 4 ∧ State.reset.si = none ∧ (live .encode []).mode = .encode ∧
    ¬ (infoA.sampleRate = 0 ∨ infoA.bps < 4 ∨ infoA.minBlocksize = 0 ∨ infoA.maxBlocksize < infoA.minBlocksize ∨
      (infoA.maxFramesize ≠ 0 ∧ infoA.maxFramesize < infoA.minFramesize)) := by decide +kernel

theorem infoA_inWidth : infoA.InWidth := by unfold StreamInfo.InWidth; decide

theorem witness_MetadataBodyAndSequence :
    let s := { live .decode [0xAA#8, 0xBB#8] with mb := some ⟨true, 1, 2⟩ }
    (s.faulted = false ∧ (s.brPos ≤ 8 * s.input.length ∧ 8 * s.outRd ≤ s.out.length) ∧ s.mode ≠ .encode ∧
      s.mb = some ⟨true, 1, 2⟩ ∧ s.brPos % 8 = 0 ∧ AtCursor s (bytesBits [0xAA#8, 0xBB#8])) ∧
    Lacks { live .decode [0xAA#8] with mb := some ⟨true, 1, 2⟩ } (8 * 2) ∧ { s with brPos := 4 }.brPos % 8 ≠ 0 ∧
    State.reset.mb = none ∧ (∀ b ∈ [MdEntry.mk 0 true 34], b.type < 2 ^ 7 ∧ b.length < 2 ^ 24) ∧
    (∃ b, [MdEntry.mk 0 true 33].head? = some b ∧ b.length ≠ 34) ∧ (∃ b ∈ [MdEntry.mk 0 false 34, ⟨0, true, 34⟩].tail, b.type = 0) ∧
    (∀ b, ([] : List MdEntry).head? = some b → b.type ≠ 0) ∧
    (∃ front b, [MdEntry.mk 0 true 34] = front ++ [b] ∧ b.last = true ∧ ∀ x ∈ front, x.last = false) := by
  refine ⟨by decide +kernel, by decide, by decide, by decide, by decide, ⟨_, rfl, by decide⟩, by decide, ?_, ⟨[], _, rfl, rfl, ?_⟩⟩
  · intro b h; cases h
  · intro x h; cases h

/-- The header of program A's frame. -/
def headA : FrameHead := ⟨0, 0, 4, 44100, 0, 16⟩

theorem witness_FrameHeaderReadAsWritten :
    let s := { ready with fh := { FhRegs.reset with
      variable_ := some 0, number := some 0, blocksize := some 4, sampleRate := some 44100, chanAssign := some 0, bps := some 16 } }
    (s.faulted = false ∧ headA.Writable ∧ HeadIs s headA ∧ s.out.length % 8 = 0) ∧ { s with out := [true] }.out.length % 8 ≠ 0 ∧
    (⟨1, 2 ^ 36 - 1, 65535, 2 ^ 20 - 1, 10, 32⟩ : FrameHead).Writable ∧
    ((atFrame frameA).mode ≠ .encode ∧ (atFrame frameA).brPos % 8 = 0 ∧
      AtCursor (atFrame frameA) (bytesBits (headA.body ++ [0x14#8])) ∧ 0x14#8 = crc8Of headA.body ∧
      (srCodeFor headA.sampleRate).code ≠ 0) ∧
    (0xFF#8 ≠ crc8Of headA.body ∧ AtCursor (atFrame (headA.body ++ [0xFF#8])) (bytesBits (headA.body ++ [0xFF#8]))) ∧
    AtCursor (live .decode [0xFF#8, 0xF0#8]) (natBits 14 0x3FFC) ∧ { atFrame [] with brPos := 1 }.brPos % 8 ≠ 0 ∧
    AtCursor (atFrame [0xFF#8, 0xFB#8, 0xFF#8, 0xFF#8]) (fixedHeadBits 1 1 15 15 15 7 1) ∧
    (AtCursor (atFrame [0xFF#8, 0xF8#8, 0x69#8, 0x08#8, 0xFE#8])
        (fixedHeadBits 0 0 6 9 0 4 0 ++ bytesBits [0xFE#8]) ∧ (0xFE#8).toNat = 0xFE ∧ 9 ≠ 15) ∧
    (AtCursor (atFrame [0xFF#8, 0xF8#8, 0x69#8, 0x08#8, 0xC2#8, 0x00#8])
        (fixedHeadBits 0 0 6 9 0 4 0 ++ bytesBits [0xC2#8, 0x00#8]) ∧ 0xC0 ≤ (0xC2#8).toNat ∧ (0xC2#8).toNat < 0xFE ∧
      (0x00#8).toNat / 64 ≠ 2) ∧
    (bitsFrom (atFrame [0xFF#8, 0xF8#8, 0x69#8, 0x08#8]).input 0 = fixedHeadBits 0 0 6 9 0 4 0 ∧
      Lacks (atFrame [0xFF#8]) 14) := by
  and_intros <;> decide +kernel

theorem witness_FrameHeaderValidated :
    let s := { atFrame [] with fh := { FhRegs.reset with
      reserved := some 0, bsCode := some 6, blocksize := some 4, chanAssign := some 0, bpsCode := some 4, sampleRate := some 44100
      variable_ := some 0, number := some 3 } }
    (s.faulted = false ∧ s.siValid = true ∧ s.si = some infoA ∧ s.fh.reserved = some 0 ∧ s.fh.bsCode = some 6 ∧
      s.fh.blocksize = some 4 ∧ s.fh.chanAssign = some 0 ∧ s.fh.bpsCode = some 4) ∧
    (s.fh.sampleRate = some 44100 ∧ s.fh.variable_ = some 0 ∧ s.fh.number = some 3) ∧
    (4, 16) ∈ [(0, infoA.bps), (1, 8), (2, 12), (3, 0), (4, 16), (5, 20), (6, 24), (7, 32)] ∧
    ¬ (0 = 1 ∨ 6 = 0 ∨ 4 = 65536) ∧ ¬ (0 + 1 ≠ infoA.channels ∨ 16 ≠ infoA.bps ∨ 44100 ≠ infoA.sampleRate ∨
      infoA.maxBlocksize < 4) ∧ 11 ≤ 11 ∧ infoA.maxBlocksize < 5 := by
  and_intros <;> decide +kernel

theorem witness_StreamHeadWritten :
    (State.reset.faulted = false ∧ State.reset.out.length % 8 = 0 ∧ 1 < 2 ∧ 2 ^ 7 - 1 < 2 ^ 7 ∧ 2 ^ 24 - 1 < 2 ^ 24) ∧
    (ready.siValid = true ∧ ready.si = some (provisionalInfo cfgA)) ∧ State.reset.siValid = false ∧
    { State.reset with out := [true] }.out.length % 8 ≠ 0 ∧ (provisionalInfo cfgA).InWidth := by
  refine ⟨by decide, by decide, by decide, by decide, ?_⟩
  unfold StreamInfo.InWidth; decide

/-- The bits as input bytes, zero-filled to a whole byte. -/
def asBytes (bits : List Bool) : List Byte := bitsBytes (bits ++ List.replicate (alignGap bits.length) false)

theorem witness_ConstantAndVerbatimBodies :
    let s := inHand .decode [0, 0] .constant 0 33
    (s.faulted = false ∧ s.mode ≠ .encode ∧ s.fh.blocksize = some 2 ∧ s.sf.ch = some 0 ∧ s.sf.bps = some 33) ∧
    (fitsS (-(2 ^ 32)) 33 ∧
      AtCursor { s with input := asBytes (natBits 33 (tc 33 (-(2 ^ 32)))) } (natBits 33 (tc 33 (-(2 ^ 32))))) ∧
    (Lacks (inHand .decode [0, 0] .constant 0 1) 1 ∧
      Lacks { inHand .decode [0, 0] .verbatim 0 33 with input := List.replicate 8 0x80#8 } (2 * 33)) ∧
    ((∀ x ∈ [(0 : Int), -1], fitsS x 1) ∧
      AtCursor { inHand .decode [0, 0] .verbatim 0 1 with input := asBytes (sampleBits 1 [0, -1]) } (sampleBits 1 [0, -1])) := by
  and_intros <;> decide +kernel

/-- A block of the fixed predictor of order 4, and one of a predictor of order 1 with the largest precision and shift. -/
def xs4 : List Int := [0, 1, 3, 6, 10, 15, 21, 29]
def bits4 : List Bool := sectionBits 8 4 (residualOf (fixedPredict 4) 4 xs4) ⟨1, 1, [.rice 30, .esc 31]⟩
def bits1 : List Bool := sectionBits 8 1 (residualOf (lpcPredict [-16384] 15) 1 xs4) ⟨0, 0, [.rice 0]⟩

theorem witness_FixedAndLpcBodies :
    let s := inHand .decode [0, 0, 0, 0, 0, 0, 0, 0] .fixed 4 16
    let r := inHand .decode [0, 0, 0, 0, 0, 0, 0, 0] .lpc 1 16
    (s.faulted = false ∧ s.mode ≠ .encode ∧ s.fh.blocksize = some 8 ∧ s.sf.ch = some 0 ∧ s.sf.bps = some 16 ∧
      s.sf.order = some 4 ∧ 0 < s.smp.length ∧ s.sf.type = some .fixed) ∧
    (xs4.length = 8 ∧ (∀ x ∈ xs4.take 4, fitsS x 16)) ∧
    TableFits 8 4 (residualOf (fixedPredict 4) 4 xs4) ⟨1, 1, [.rice 30, .esc 31]⟩ ∧
    AtCursor { s with input := asBytes (sampleBits 16 (xs4.take 4) ++ bits4) } (sampleBits 16 (xs4.take 4) ++ bits4) ∧
    (r.sf.type = some .lpc ∧ fitsS (-16384) 15) ∧
    TableFits 8 1 (residualOf (lpcPredict [-16384] 15) 1 xs4) ⟨0, 0, [.rice 0]⟩ ∧
    AtCursor { r with input := asBytes (sampleBits 16 (xs4.take 1) ++ natBits 4 (15 - 1) ++ natBits 5 15 ++
        sampleBits 15 [-16384] ++ bits1) }
      (sampleBits 16 (xs4.take 1) ++ natBits 4 (15 - 1) ++ natBits 5 15 ++ sampleBits 15 [-16384] ++ bits1) ∧
    ((inHand .decode [0, 0, 0] .fixed 4 16).fh.blocksize = some 3 ∧ 3 < 4) ∧
    AtCursor { r with input := asBytes (sampleBits 16 [5] ++ natBits 4 15) } (sampleBits 16 [5] ++ natBits 4 15) ∧
    AtCursor { r with input := asBytes (sampleBits 16 [5] ++ natBits 4 14 ++ natBits 5 16) }
      (sampleBits 16 [5] ++ natBits 4 14 ++ natBits 5 16) := by
  and_intros <;> decide +kernel

theorem witness_RestoreFollowsTheRecurrence :
    let s := { inHand .decode [3, 5, 8, 12, 0] .fixed 4 16 with res := [7] }
    let r := { inHand .decode [3, 0] .lpc 1 16 with res := [7], qlp := [-5], qlpShift := some 15 }
    (s.faulted = false ∧ s.fh.blocksize = some 5 ∧ s.sf.ch = some 0 ∧ s.sf.order = some 4 ∧ 0 < s.smp.length ∧
      s.sf.type = some .fixed ∧ 4 ≤ (s.row 0).length ∧ 5 - 4 ≤ s.res.length) ∧
    (r.sf.type = some .lpc ∧ r.qlpShift = some 15 ∧ 1 ≤ r.qlp.length ∧ 1 ≤ (r.row 0).length ∧ 2 - 1 ≤ r.res.length) ∧
    (r.sf.type = some .lpc ∧ SfType.lpc ≠ .fixed ∧ s.sf.type = some .fixed ∧ SfType.fixed ≠ .lpc) ∧
    { s with res := [] }.res.length < 5 - 4 ∧ (1 < 2 ∧ { r with qlpShift := none }.qlpShift = none ∧ { r with qlp := [] }.qlp.length < 1) := by
  and_intros <;> decide +kernel

theorem witness_ResidualIsSampleMinusPrediction :
    let s := { inHand .idle [4, 8, -12, 16] .lpc 4 16 with qlp := [1, 2, 3, 4], qlpShift := some 0 }
    let t := { s with sf := { s.sf with wasted := some 2 } }
    (t.faulted = false ∧ t.fh.blocksize = some 4 ∧ t.sf.ch = some 0 ∧ t.sf.wasted = some 2 ∧ 4 ≤ (t.row 0).length ∧
      [(1 : Int), 2, -3, 4] = ((t.row 0).take 4).map (· / 2 ^ 2)) ∧
    (t.sf.order = some 4 ∧ t.qlpShift = some 0 ∧ 4 ≤ t.qlp.length) ∧ (4 < 5 ∨ 4 < 5) ∧ 3 < 4 ∧
    { t with sf := { t.sf with order := some 0 } }.sf.order = some 0 := by
  and_intros <;> decide +kernel

theorem witness_PredictionIsLossless :
    let s := { inHand .idle [4, 8, -12, 16] .lpc 4 16 with qlp := [1, 2, 3, 4], qlpShift := some 15 }
    let f := inHand .idle [4, 8, -12, 16] .fixed 4 16
    (s.faulted = false ∧ s.fh.blocksize = some 4 ∧ s.sf.ch = some 0 ∧ s.sf.wasted = some 0 ∧ 0 < s.smp.length ∧
      4 ≤ (s.row 0).length ∧ [(9 : Int)].length = (s.row 0).length - 3) ∧
    (s.sf.type = some .lpc ∧ s.sf.order = some 4 ∧ s.qlpShift = some 15 ∧ 4 ≤ s.qlp.length) ∧ f.sf.type = some .fixed := by
  and_intros <;> decide +kernel

theorem witness_SubframesWritten :
    let s := inHand .idle xs4 .fixed 4 16
    let t := { s with rc := ⟨some 1, some 1, [⟨false, some 30, none⟩, ⟨true, none, some 31⟩]⟩ }
    let r := { inHand .idle xs4 .lpc 1 16 with
      rc := ⟨some 0, some 0, [⟨false, some 0, none⟩]⟩, qlp := [-16384], qlpPrec := some 15, qlpShift := some 15 }
    (t.faulted = false ∧ t.fh.blocksize = some 8 ∧ t.sf.ch = some 0 ∧ t.sf.wasted = some 0 ∧ t.sf.bps = some 16 ∧
      8 ≤ (t.row 0).length ∧ xs4 = ((t.row 0).take 8).map (· / 2 ^ 0)) ∧
    (TableIs t ⟨1, 1, [.rice 30, .esc 31]⟩ ∧ TableFits 8 4 (residualOf (fixedPredict 4) 4 xs4) ⟨1, 1, [.rice 30, .esc 31]⟩) ∧
    (TableIs r ⟨0, 0, [.rice 0]⟩ ∧ TableFits 8 1 (residualOf (lpcPredict [-16384] 15) 1 xs4) ⟨0, 0, [.rice 0]⟩ ∧
      fitsS (-16384) 15) ∧
    ((∀ x ∈ [(5 : Int), 5], x = 5) ∧ fitsS 5 4) ∧ (∃ x ∈ [(5 : Int), 6], x ≠ 5) ∧ (∃ x ∈ [(0 : Int), 1], ¬ fitsS x 1) ∧
    ∀ x ∈ xs4, fitsS x 6 := by
  and_intros <;> decide +kernel

/-- V-SF-1 as the subframe, in a block of the highest depth's side channel: the reader expects a side channel of 33 bits. -/
theorem witness_SubframeDecodesToItsSamples :
    let s := inHand .idle [-4294967296, -4294967296] .constant 0 33
    let r := { inHand .decode [0, 0] .constant 0 32 with
      smp := [[], [], [], [], [], [], [], []], input := [0x00#8, 0x80#8, 0x00#8, 0x00#8, 0x00#8, 0x00#8] }
    let d := { r with fh := { r.fh with channels := some 2, chanAssign := some 9 } }
    (s.faulted = false ∧ s.fh.blocksize = some 2 ∧ s.sf.ch = some 0 ∧ s.sf.wasted = some 0 ∧ s.sf.bps = some 33 ∧
      2 ≤ (s.row 0).length ∧ ∀ x ∈ (s.row 0).take 2, x % 2 ^ 0 = 0 ∧ fitsS (x / 2 ^ 0) 33) ∧
    (answerOf .sfEncConstant s).map (fun x => (x.1, x.2.out)) = some (.none, natBits 41 (2 ^ 32)) ∧
    (d.faulted = false ∧ d.mode ≠ .encode ∧ d.fh.valid = true ∧ d.fh.channels = some 2 ∧ 0 < d.smp.length ∧
      d.fh.blocksize = some 2 ∧ d.fh.bps = some 32 ∧ d.fh.chanAssign = some 9) ∧
    33 = 32 + sideBit 9 0 ∧ AtCursor d (natBits 41 (2 ^ 32)) ∧
    (inHand .idle [-4294967296, -4294967296] .constant 0 33).qlp.length ≤ 32 ∧
    (let f := SubframeForm.fixed 4 ⟨1, 1, [.rice 30, .esc 31]⟩
     let q := SubframeForm.lpc [-16384] 15 15 ⟨0, 0, [.rice 0]⟩
     let e := inHand .decode xs4 .constant 0 16
     (f.Carries 6 xs4 ∧ (∀ x ∈ xs4, fitsS x 6) ∧ AtCursor { e with input := asBytes (f.bits 6 10 xs4) } (f.bits 6 10 xs4)) ∧
     (f.Carries 5 xs4 ∧ (∃ x ∈ xs4, ¬ fitsS x 5) ∧ AtCursor { e with input := asBytes (f.bits 5 11 xs4) } (f.bits 5 11 xs4)) ∧
     (q.Carries 16 xs4 ∧ AtCursor { e with input := asBytes (q.bits 16 0 xs4) } (q.bits 16 0 xs4)) ∧
     (SubframeForm.constant.Carries 16 [5, 5] ∧ SubframeForm.verbatim.Carries 16 xs4) ∧
     (e.fh.valid = true ∧ e.fh.channels = some 1 ∧ e.fh.blocksize = some 8 ∧ e.fh.bps = some 16 ∧ e.fh.chanAssign = some 0)) ∧
    AtCursor { d with input := [0x80#8] } [true] ∧
    (AtCursor { d with input := [0x3F#8, 0x80#8] } (sfHeaderBits 31 1) ∧ (13 ≤ 31 ∧ 31 ≤ 31)) ∧
    AtCursor { d with input := [0x01#8, 0x00#8, 0x00#8, 0x00#8, 0x00#8, 0x80#8] } (sfHeaderBits 0 33) ∧
    Lacks { d with input := [] } 1 := by
  and_intros <;> decide +kernel

theorem witness_ResidualSectionWritten :
    let s := { inHand .idle xs4 .fixed 4 16 with
      rc := ⟨some 1, some 1, [⟨false, some 30, none⟩, ⟨true, none, some 31⟩]⟩, res := residualOf (fixedPredict 4) 4 xs4 }
    (s.faulted = false ∧ s.fh.blocksize = some 8 ∧ s.sf.order = some 4 ∧ TableIs s ⟨1, 1, [.rice 30, .esc 31]⟩ ∧
      8 - 4 ≤ s.res.length) ∧ TableFits 8 4 (s.res.take (8 - 4)) ⟨1, 1, [.rice 30, .esc 31]⟩ ∧
    (8 % 2 ^ 2 = 0 ∧ 8 / 2 ^ 2 < 4) ∧ (14 + 16 * 0 < 15 ∧ [PartChoice.rice 15].head? = some (.rice 15)) ∧
    (TableIs { s with rc := ⟨some 0, some 9, []⟩ } ⟨0, 9, []⟩ ∧ 8 < 9) ∧
    (∃ r ∈ [(-2147483648 : Int)], ¬ (-(2 ^ 31) < r ∧ r < 2 ^ 31)) := by
  and_intros <;> decide +kernel

theorem witness_ResidualSectionIsExact :
    let s := inHand .decode [0, 0, 0, 0, 0, 0, 0, 0] .fixed 4 16
    (s.faulted = false ∧ s.mode ≠ .encode ∧ s.fh.blocksize = some 8 ∧ s.sf.order = some 4) ∧
    (TableFits 8 4 (residualOf (fixedPredict 4) 4 xs4) ⟨1, 1, [.rice 30, .esc 31]⟩ ∧
      AtCursor { s with input := asBytes bits4 } bits4) ∧
    AtCursor { s with input := [0x80#8] } (natBits 2 2) ∧
    (8 / 2 ^ 2 < 4 ∧ AtCursor { s with input := [0x08#8] } (natBits 2 0 ++ natBits 4 2)) ∧
    AtCursor { s with input := [0x24#8] } (natBits 2 0 ++ natBits 4 9) := by
  and_intros <;> decide +kernel

theorem witness_RiceParameterIsLeastOfLeastCost :
    let s := { inHand .idle [0, 0, 0, 0] .fixed 1 16 with res := [5, -5, 100] }
    (s.faulted = false ∧ s.fh.blocksize = some 4 ∧ s.sf.order = some 1) ∧
    (30 ≤ 30 ∧ 1 + 2 + 1 ≤ 4 ∧ 1 + 2 ≤ s.res.length) ∧ 4 < 2 + 2 + 1 ∧ 30 < 31 ∧
    { s with res := [5] }.res.length < 1 + 2 := by decide +kernel

theorem witness_PartitioningKeepsTheBound :
    let s := { inHand .encode [0, 0, 0, 0] .fixed 1 16 with res := [5, -5, 100], cfg := some cfgA }
    (s.faulted = false ∧ s.mode = .encode ∧ s.cfg = some cfgA ∧ cfgA.method ≤ 1 ∧ s.fh.blocksize = some 4 ∧ s.sf.order = some 1) ∧
    (1 ≤ 4 ∧ 4 - 1 ≤ s.res.length) ∧
    ((inHand .encode [0] .fixed 2 16).fh.blocksize = some 1 ∧ (inHand .encode [0] .fixed 2 16).sf.order = some 2 ∧ 1 < 2) := by
  decide +kernel

theorem witness_SelectionsStayInsideTheirContracts :
    let s := { inHand .encode [4, 8, -12, 16] .lpc 4 16 with cfg := some cfgA }
    (s.faulted = false ∧ s.cfg = some cfgA ∧ s.fh.blocksize = some 4 ∧ s.sf.ch = some 0 ∧ s.sf.wasted = some 0 ∧
      4 ≤ (s.row 0).length) ∧ (s.mode = .encode ∧ s.fh.channels = some 1 ∧ 0 < 1 ∧ s.fh.chanAssign = some 0) ∧
    (let t := { s with smp := [[1, 2, 3, 4], [1, 2, 3, 4], [], [], [], [], [], []], fh := { s.fh with channels := some 2 } }
     4 ≤ (t.row 0).length ∧ 4 ≤ (t.row 1).length ∧ t.fh.channels = some 2) := by decide +kernel

theorem witness_StereoTransformsAreInverse :
    let s := { State.reset with
      smp := [[0, -32768], [-3, 32767], [], [], [], [], [], []]
      fh := { FhRegs.reset with channels := some 2, blocksize := some 2, bps := some 16 } }
    (s.faulted = false ∧ s.fh.blocksize = some 2 ∧ s.fh.channels = some 2 ∧ 2 ≤ s.smp.length ∧
      ∀ c, c < 2 → 2 ≤ (s.row c).length) ∧
    (s.fh.bps = some 16 ∧ ∀ c, c < 2 → ∀ i, i < 2 → fitsS (sampleAt (s.row c) i) 16) ∧
    (reply (.chDecorrFwd 10) s = some (.ok .none) ∧ reply (.chDecorrFwd 1) s = some (.ok .none)) ∧
    (7 + 1 ≠ 2 ∧ 10 < 11 ∧ 8 ≤ 8 ∧ 1 ≠ 2) ∧
    ({ s with fh := { s.fh with chanAssign := some 8 } }.fh.chanAssign = some 8 ∧
      ¬ fitsS (sampleAt (s.row 0) 1 - sampleAt (s.row 1) 1) 16) ∧
    (let r := { s with fh := { s.fh with chanAssign := some 9 } }
     r.faulted = false ∧ r.fh.bps = some 16 ∧ r.fh.chanAssign = some 9 ∧
     ∀ i, i < 2 → fitsS (sampleAt (r.row 0) i + sampleAt (r.row 1) i) 16 ∧ fitsS (sampleAt (r.row 1) i) 16) ∧
    (let r := { s with fh := { s.fh with chanAssign := some 1 } }
     r.fh.chanAssign = some 1 ∧ ∀ c, c < 2 → ∀ i, i < 2 → fitsS (sampleAt (r.row c) i) 16) := by
  and_intros <;> decide +kernel

theorem witness_FlushEntersResync :
    (atFrame []).faulted = false ∧ (atFrame []).mode = .decode ∧ (atFrame []).dstate = .synced ∧
    { atFrame [] with dstate := .resync }.dstate = .resync ∧ (live .idle []).mode ≠ .decode ∧
    (live .decode []).dstate ≠ .synced ∧ (live .decode []).dstate ≠ .resync := by decide

/-- A decoder that has read the marker, at these bytes. -/
def atInfo (bs : List Byte) : State := { live .decode bs with dstate := .readStreamInfo }

theorem witness_MetadataSteps :
    ((live .decode []).faulted = false ∧ (live .decode []).mode = .decode ∧ (live .decode []).dstate = .init ∧
      (live .decode []).brPos % 8 = 0 ∧ { live .decode [] with dstate := .done }.dstate = .done) ∧
    (AtCursor (live .decode [0x66#8, 0x4C#8, 0x61#8, 0x43#8]) (bytesBits [0x66#8, 0x4C#8, 0x61#8, 0x43#8]) ∧
      AtCursor (live .decode [0x66#8, 0x4C#8, 0x61#8, 0x44#8]) (bytesBits [0x66#8, 0x4C#8, 0x61#8, 0x44#8])) ∧
    Lacks (ended .decode [0x66#8, 0x4C#8, 0x61#8]) 32 ∧
    ((atInfo []).dstate = .readStreamInfo ∧ (atInfo []).mbCount + 1 < 2 ^ 32 ∧ (atInfo []).siValid = false ∧
      bytesBits (bitsBytes infoA.bits) = infoA.bits) ∧
    AtCursor (atInfo ([0x80#8, 0x00#8, 0x00#8, 0x22#8] ++ bitsBytes infoA.bits))
      (natBits 1 1 ++ natBits 7 0 ++ natBits 24 34 ++ infoA.bits) ∧
    (infoA.Consistent ∧ ¬ { infoA with sampleRate := 0 }.Consistent) ∧
    (AtCursor (atInfo [0xFF#8, 0xFF#8, 0xFF#8, 0xFF#8]) (natBits 1 1 ++ natBits 7 (2 ^ 7 - 1) ++ natBits 24 (2 ^ 24 - 1)) ∧
      AtCursor (atInfo [0x00#8, 0x00#8, 0x00#8, 0x23#8]) (natBits 1 0 ++ natBits 7 0 ++ natBits 24 35) ∧
      Lacks (atInfo [0x00#8, 0x00#8, 0x00#8, 0x22#8]) (32 + 8 * 34)) ∧
    (let m := { atInfo [0x81#8, 0x00#8, 0x00#8, 0x01#8, 0xAA#8] with dstate := .readMetadata }
     m.dstate = .readMetadata ∧ AtCursor m (natBits 1 1 ++ natBits 7 1 ++ natBits 24 1 ++ bytesBits [0xAA#8])) := by
  and_intros <;> decide +kernel

theorem witness_SyncedStepActsOnTheFrame :
    ((atFrame frameA).faulted = false ∧ (atFrame frameA).mode = .decode ∧ (atFrame frameA).dstate = .synced ∧
      (atFrame frameA).brPos ≠ 8 * (atFrame frameA).input.length) ∧
    (after .decFrame (atFrame frameA) fun t => (t.reply, t.fh.blocksize, t.fh.channels, t.fh.bps)) =
      some (some (.ok .none), some 4, some 1, some 16) ∧
    ((atFrame frameA).md5.done = false ∧ (atFrame frameA).framesOk + 1 < 2 ^ 64 ∧ (atFrame frameA).samplesOk + 4 < 2 ^ 64) ∧
    reply .decFrame (atFrame (frameA.set 6 0x15#8)) = some (.fault (.sync .headerCrc8)) ∧
    reply .decFrame { atFrame [0xFF#8] with inEof := true } = some (.fault .endOfStream) ∧
    reply .decFrame (atFrame [0xFF#8, 0xF8#8, 0x69#8, 0x06#8, 0x00#8, 0x03#8, 0x38#8]) =
      some (.fault (.unsupported .bitDepthCode)) ∧
    reply .decFrame (atFrame [0xFF#8]) = some .hold := by
  and_intros <;> decide +kernel

theorem witness_ResyncScansToTheNextSyncCode :
    let s := { ended .decode [0x00#8, 0xFF#8, 0xF9#8] with dstate := .resync }
    let r := { ended .decode [0xFF#8] with dstate := .resync, si := some infoA, framesOk := 1, status := 0x0020#16 }
    (s.faulted = false ∧ s.mode = .decode ∧ s.dstate = .resync ∧ s.resyncs + 1 < 2 ^ 32) ∧
    (s.brPos ≤ 8 * 1 ∧ s.input[1]? = some 0xFF#8 ∧ s.input[2]? = some 0xF9#8 ∧ (0xF9#8).toNat / 4 = 0x3E ∧
      s.input[0]? = some 0x00#8) ∧
    (r.faulted = false ∧ r.input[1]? = none ∧ r.inEof = true ∧ r.framesOk ≠ 0 ∧ r.si = some infoA ∧ r.md5.done = false ∧
      r.flag .partial_ = true) := by
  and_intros <;> decide +kernel

theorem witness_DoneGivesTheVerdict :
    let s := { ended .decode [] with dstate := .synced, si := some { infoA with md5 := 1 }, siValid := true, samplesOk := 4 }
    (s.faulted = false ∧ s.mode = .decode ∧ s.dstate = .synced ∧ s.brPos = 8 * s.input.length ∧ s.inEof = true ∧
      s.si = some { infoA with md5 := 1 } ∧ s.md5.done = false) ∧
    ¬ (s.flag .partial_ = true ∨ (infoA.totalSamples ≠ 0 ∧ s.samplesOk ≠ infoA.totalSamples)) ∧
    { s with samplesOk := 3 }.samplesOk ≠ infoA.totalSamples ∧ infoA.md5 = 0#128 := by decide +kernel

theorem witness_EncoderInit :
    let s := { live .encode [] with payload := .config cfgA }
    (s.faulted = false ∧ s.mode = .encode ∧ s.estate = .idle ∧ s.payload = .config cfgA ∧ s.out.length % 8 = 0 ∧
      configError cfgA = none) ∧
    (configError { cfgA with channels := 9 } = some .channels ∧ configError { cfgA with bps := 3 } = some .bitDepth ∧
      configError { cfgA with sampleRate := 1048576 } = some .sampleRate) ∧
    (configError { cfgA with blocksize := 5 } = some .blockSize ∧ configError { cfgA with maxPorder := 9 } = some .parameter) ∧
    ready.estate ≠ .idle ∧ (1 : Nat) ≠ 0 := by
  and_intros <;> decide +kernel

/-- Program A's block, ready to be encoded. -/
def readyA : State := { ready with pcmIn := [⟨4, [[100, 100, 100, 100]]⟩] }

theorem readyA_acceptable : BlockAcceptable readyA cfgA ⟨4, [[100, 100, 100, 100]]⟩ [] := by
  refine ⟨by decide, by decide, by decide, by decide, by decide +kernel, by decide, by decide, by decide, by decide, by decide,
    by decide, ?_, by decide, by decide, by decide⟩
  decide +kernel

theorem witness_EncodingNeverFailsOnSampleContent :
    BlockAcceptable readyA cfgA ⟨4, [[100, 100, 100, 100]]⟩ [] := readyA_acceptable

theorem byteBits_of_bits : ∀ b7 b6 b5 b4 b3 b2 b1 b0 : Bool,
    byteBits (BitVec.ofNat 8 (bitsNat (inBitOrder [b7, b6, b5, b4, b3, b2, b1, b0]))) = [b7, b6, b5, b4, b3, b2, b1, b0] := by
  decide +kernel

/-- Whole bytes of bits come back from their bytes. -/
theorem bits_of_bytes (bits : List Bool) : bits.length % 8 = 0 → bytesBits (bitsBytes bits) = bits := by
  induction bits using bitsBytes.induct with
  | case1 b7 b6 b5 b4 b3 b2 b1 b0 rest ih =>
    intro h
    have k := ih (by simp only [List.length_cons] at h; omega)
    simp only [bytesBits] at k ⊢
    rw [bitsBytes, List.flatMap_cons, byteBits_of_bits, k]
    rfl
  | case2 bits short =>
    intro h
    obtain rfl : bits = [] := by
      rcases bits with _ | ⟨a, _ | ⟨b, _ | ⟨c, _ | ⟨d, _ | ⟨e, _ | ⟨f, _ | ⟨g, _ | ⟨i, rest⟩⟩⟩⟩⟩⟩⟩⟩
      · rfl
      all_goals first
        | exact absurd rfl (short a b c d e f g i rest)
        | simp at h
    rfl

theorem asBytes_atCursor (bits : List Bool) : bits <+: bitsFrom (asBytes bits) 0 := by
  have h : bytesBits (asBytes bits) = bits ++ List.replicate (alignGap bits.length) false := by
    apply bits_of_bytes
    simp only [List.length_append, List.length_replicate, alignGap]
    omega
  simp [bitsFrom, h]

theorem witness_EncodedFrameDecodesToItsBlock :
    ∃ t d, BlockAcceptable readyA cfgA ⟨4, [[100, 100, 100, 100]]⟩ [] ∧ exec .encBlock readyA = .next t ∧
      d.faulted = false ∧ d.mode = .decode ∧ d.brPos % 8 = 0 ∧ d.siValid = true ∧ d.si = some infoA ∧ d.smp.length = 8 ∧
      infoA.channels = cfgA.channels ∧ infoA.bps = cfgA.bps ∧ infoA.sampleRate = cfgA.sampleRate ∧
      infoA.maxBlocksize = cfgA.maxBlocksize ∧ AtCursor d (t.out.drop readyA.out.length) := by
  obtain ⟨t, ht⟩ : ∃ t, exec .encBlock readyA = .next t := by
    simp only [exec, execEncBlock]
    exact issue_next _ _ _
  exact ⟨t, atFrame (asBytes (t.out.drop readyA.out.length)), readyA_acceptable, ht, by simp [State.faulted, State.flag, atFrame, live, State.reset],
    rfl, rfl, rfl, rfl, rfl, rfl, rfl, rfl, rfl, asBytes_atCursor _⟩

theorem witness_FramesDecodeOrAreRefused :
    let k : CodedChannel := ⟨0, [100, 100, 100, 100], .constant⟩
    let stereo : FrameHead := ⟨1, 0, 1, 44100, 8, 16⟩
    let two : StreamInfo := { infoA with channels := 2 }
    (ReadyFor (atFrame frameA) infoA headA ∧ [k].length = channelsOf headA.chanAssign ∧ ChannelOk headA 0 k ∧
      alignGap (channelBits headA 0 [k]).length = 0) ∧
    (AtCursor (atFrame frameA) (bytesBits (frameBody headA [k] []) ++ natBits 16 0x95F4) ∧
      0x95F4 = (crc16Of (frameBody headA [k] [])).toNat ∧ ∀ row ∈ decodedBlock 0 [k], ∀ v ∈ row, fitsS v 16) ∧
    (AtCursor (atFrame (frameA.set 11 0xF5#8)) (bytesBits (frameBody headA [k] []) ++ natBits 16 0x95F5)) ∧
    (let ks : List CodedChannel := [⟨0, [-32768], .constant⟩, ⟨0, [1], .constant⟩]
     let d := { atFrame (stereo.bytes ++ asBytes (channelBits stereo 0 ks)) with si := some two }
     ReadyFor d two stereo ∧ ks.length = channelsOf stereo.chanAssign ∧ ChannelOk stereo 0 ks[0] ∧ ChannelOk stereo 1 ks[1] ∧
       alignGap (channelBits stereo 0 ks).length = 7 ∧
       ∃ row ∈ decodedBlock 8 ks, ∃ v ∈ row, ¬ fitsS v 16) ∧
    (let ks : List CodedChannel := [⟨0, [-32768], .constant⟩, ⟨0, [1], .constant⟩]
     let pad := List.replicate 6 false ++ [true]
     AtCursor { atFrame (frameBody stereo ks pad) with si := some two } (bytesBits (frameBody stereo ks pad))) ∧
    ((live .idle []).mode ≠ .decode ∧ { atFrame [] with brPos := 1 }.brPos % 8 ≠ 0) := by
  and_intros <;> decide +kernel

theorem witness_BlockRefusals :
    (ready.faulted = false ∧ ready.cfg = some cfgA ∧ ready.mode = .encode ∧ ready.estate = .ready ∧ ready.pcmIn = []) ∧
    (readyA.pcmIn = ⟨4, [[100, 100, 100, 100]]⟩ :: [] ∧ ¬ (cfgA.minBlocksize ≤ 3 ∧ 3 ≤ cfgA.maxBlocksize)) ∧
    ¬ ({ readyA with encFrameNo := 2 ^ 31 }.encSamples + 4 < 2 ^ 36 ∧ { readyA with encFrameNo := 2 ^ 31 }.encFrameNo < 2 ^ 31) ∧
    (∃ row ∈ [[(32768 : Int), 0, 0, 0]], ∃ v ∈ row, ¬ fitsS v cfgA.bps) ∧ (live .encode []).estate ≠ .ready ∧
    (live .encode []).cfg = none ∧ State.reset.mode ≠ .encode := by
  and_intros <;> decide +kernel

theorem witness_FinishGivesTheFinalStreamInfo :
    (ready.faulted = false ∧ ready.mode = .encode ∧ ready.estate = .ready ∧ ready.si = some (provisionalInfo cfgA) ∧
      ready.md5.done = false ∧ ready.encSamples < 2 ^ 36 ∧ ready.encMinFs < 2 ^ 24 ∧ ready.encMaxFs < 2 ^ 24) ∧
    (provisionalInfo cfgA).InWidth := by
  refine ⟨by decide +kernel, ?_⟩
  unfold StreamInfo.InWidth; decide

theorem witness_SeekIndexLaws :
    (State.reset.faulted = false ∧ 2 ^ 24 ≤ 2 ^ 24 ∧ (List.replicate 35 0x00#8).length < 2 ^ 24) ∧
    let s := { State.reset with payload := .bytes ((SeekPoint.mk 8 18 8).bytes ++ (SeekPoint.mk (2 ^ 64 - 1) 0 0).bytes) }
    (s.faulted = false ∧ s.payload = .bytes ([SeekPoint.mk 8 18 8, ⟨2 ^ 64 - 1, 0, 0⟩].flatMap SeekPoint.bytes)) ∧
    (List.replicate 35 0x00#8).length % 18 ≠ 0 ∧
    (let t := { State.reset with seek := [⟨0, 0, 4096⟩, ⟨40960, 30000, 4096⟩] }
     t.seek.Pairwise (fun p q => p.sample < q.sample) ∧ (∃ p ∈ t.seek, p.sample ≤ 40959 ∧ ∀ q ∈ t.seek, q.sample ≤ 40959 →
       q.sample ≤ p.sample)) ∧
    (∀ p ∈ [SeekPoint.mk 4096 5000 4096], 100 < p.sample) := by
  and_intros <;> decide +kernel

theorem witness_WireStructures :
    State.reset.faulted = false ∧ State.reset.mode ≠ .encode ∧ State.reset.mbCount + 1 < 2 ^ 32 ∧ State.reset.siValid = false ∧
    (atFrame []).siValid = true ∧ (live .encode []).mode = .encode ∧
    reply (.wireMbHeader 1 127 (2 ^ 24 - 1)) State.reset = some (.ok .none) ∧
    (after (.wireStreamInfo 4 4 12 12 44100 0 15 4 0) State.reset State.si) = some (some infoA) ∧
    (after (.wireSeekpoint 8 18 8) State.reset State.seek) = some [⟨8, 18, 8⟩] := by decide +kernel

theorem witness_WireStructures_frame :
    let s := { inHand .decode [0, 0, 0, 0] .fixed 1 16 with input := frameA, brPos := 80 }
    let t := { s with fh := { s.fh with start := some 0 } }
    (s.faulted = false ∧ s.mode ≠ .encode ∧ s.fh.blocksize = some 4 ∧ s.sf.order = some 1) ∧
    reply (.wireFrameHeader 1 1 15 15 15 7) s = some (.fault (.sync .headerReserved)) ∧
    (after (.wireFrameHeader 0 0 12 9 1 4) s fun u => (u.fh.bsCode, u.fh.srCode, u.fh.chanAssign, u.fh.bpsCode)) =
      some (some 12, some 9, some 1, some 4) ∧
    (after (.wireSfLpc 31 0) s fun u => (u.sf.type, u.sf.order)) = some (some .lpc, some 32) ∧
    reply (.wireSfFixed 5 0) s = some (.fault (.sync .subframeReserved)) ∧
    reply (.wireResHeader 1 2) s = some (.ok .none) ∧ reply (.wireResHeader 1 3) s = some (.fault (.sync .badResidual)) ∧
    (t.fh.start = some 0 ∧ crc16Of ((t.input.drop 0).take (t.brPos / 8 - 0)) = 0x95F4#16) ∧
    reply (.wireFrameFooter 0x95F4) t = some (.ok .none) ∧ reply (.wireFrameFooter 0) t = some (.fault (.sync .frameCrc16)) := by
  and_intros <;> decide +kernel

/-- In each wrong mode: the first, a middle and the last instruction of each clause. -/
theorem witness_OperationsRefuseTheWrongMode :
    let e := live .encode []
    let d := live .decode []
    (e.faulted = false ∧ e.mode = .encode ∧ d.faulted = false ∧ d.mode ≠ .encode ∧ State.reset.mode ≠ .decode) ∧
    (ReadsTheInput .mkRead ∧ ReadsTheInput (.sfDec 7) ∧ ReadsTheInput (.wireFrameFooter 0)) ∧
    (∀ i ∈ [Instr.mkRead, .siRead, .mbReadBody, .fhParse, .sfDec 7, .sfDecLpc, .resDecode, .wireStreamInfo 0 0 0 0 0 0 0 0 0,
        .wireFrameHeader 0 0 0 0 0 0, .wireSfLpc 0 0, .wireResHeader 0 0, .wireFrameFooter 0, .decStep, .decFlush],
      reply i e = some (.fault (.logic .badMode))) ∧
    (∀ i ∈ [Instr.encInit 0, .encFinish, .sfSelect 0, .partSelect, .stereoSelect, .pcmPush 0],
      reply i d = some (.fault (.logic .badMode))) ∧ reply .decFrame State.reset = some (.fault (.logic .badMode)) := by
  refine ⟨by decide +kernel, ⟨.inl (by decide), ?_, ?_⟩, by decide +kernel, by decide +kernel, by decide +kernel⟩
  · exact .inr (.inl ⟨7, rfl⟩)
  · exact .inr (.inr (.inr (.inr (.inr (.inr (.inr ⟨0, rfl⟩))))))

/-- A decode state that holds something in every group of the invariant, at the ends of the ranges. -/
def busy : State :=
  { atFrame frameA with
    mb := some ⟨true, 127, 2 ^ 24 - 1⟩, qlp := [-16384], qlpPrec := some 15, qlpShift := some 15
    rc := ⟨some 1, some 8, [⟨false, some 30, some 31⟩]⟩, cfg := some cfgA
    fh := ⟨some 1, some 15, some 14, some 10, some 7, some (2 ^ 36 - 1), some 65535, some (2 ^ 20 - 1), some 8, some 32, some 0xFF#8,
      some 1, some 0, some (2 ^ 64 - 1), false⟩
    sf := ⟨some .lpc, some 32, some 32, some 33, some 7⟩
    status := 0x07FD#16, cmdq := [⟨encode .decStep, .none⟩] }

theorem busy_reservedClear : busy.ReservedClear := by
  intro i hi
  have h : ∀ j, 11 ≤ j → j < 16 → (0x07FD#16).getLsbD j = false := by decide
  rcases Nat.lt_or_ge i 16 with h16 | h16
  · exact h i hi h16
  · exact BitVec.getLsbD_of_ge _ _ h16

theorem busy_inv : busy.Inv where
  left := by unfold State.InputInSpec; decide
  right := by
    refine ⟨by unfold State.CursorsInside; decide, busy_reservedClear, by unfold State.RowsWhole; decide, ?_, ?_, ?_, ?_, ?_⟩
    · refine ⟨?_, ?_, by decide⟩
      · intro si h; cases h; exact infoA_inWidth
      · intro h e; cases e; decide
    · simp [FhRegs.InWidth, busy]
    · simp [SfRegs.InRange, busy]
    · simp only [State.CodingInRange, RcRegs.InWidth, busy, List.forall_mem_singleton, below_some]
      decide
    · intro c h; cases h; decide +kernel

theorem busy_steps : step busy = exec .decStep { busy with cmdq := [] } := by
  have d : decode (encode .decStep) = .ok .decStep := by decide +kernel
  simp only [step, busy, takeIssue, d]
  rfl

theorem witness_StateInvariantKept : busy.Inv ∧ ∃ t, step busy = .next t := by
  refine ⟨busy_inv, ?_⟩
  rw [busy_steps]
  simp only [exec, execDecStep]
  exact issue_next _ _ _

theorem witness_FaultDiscipline :
    { State.reset with status := 0x0002#16 }.faulted = true ∧ State.reset.faulted = false ∧
    reply (.bwWriteU 3 8) State.reset = some (.fault (.logic .valueOutOfRange)) ∧
    reply (.brReadU 1) (ended .decode []) = some (.fault .endOfStream) ∧ reply (.brReadU 1) (live .decode []) = some .hold := by
  decide +kernel

theorem witness_OnlyResetTakesBack :
    (∃ t, exec .decStep busy = .next t) ∧ busy.flag .eos = true ∧ busy.siValid = true ∧ busy.mode ≠ .encode ∧
    { busy with dstate := .done }.dstate = .done ∧ { ready with estate := .finished }.estate = .finished ∧
    ready.estate ≠ .idle := by
  refine ⟨?_, by decide +kernel, by decide, by decide, by decide, by decide, by decide⟩
  simp only [exec, execDecStep]
  exact issue_next _ _ _

theorem witness_LaterPushesDoNotMatter :
    (atFrame frameA).faulted = false ∧ (atFrame frameA).mode = .decode ∧ (atFrame frameA).CursorsInside ∧
    (atFrame frameA).inEof = false ∧ reply .decStep (atFrame frameA) = some (.ok (.dstate .synced)) := by
  refine ⟨by decide, by decide, by unfold State.CursorsInside; decide, by decide, by decide +kernel⟩

theorem witness_DecodeTerminates :
    let s := ended .decode [0x66#8, 0x4C#8]
    s.faulted = false ∧ s.mode = .decode ∧ s.CursorsInside ∧ s.inEof = true := by
  refine ⟨by decide, by decide, by unfold State.CursorsInside; decide, by decide⟩

end Sys2Proof.Tests
end

/-! PROOFS. Fields at the read cursor: the bits of a field stand for its value, and a bit-reader operation that finds
them reads it back (30_encoding.md R140, 41_bitstream_io.md R162 to R165). -/

namespace Sys2Proof.Machine

variable {α β : Type}

/-! ### Bit strings and the numbers they stand for -/

@[simp] theorem natBits_length (n v : Nat) : (natBits n v).length = n := by
  induction n with
  | zero => rfl
  | succ n ih => simp [natBits, ih]

theorem foldl_natBits (n v acc : Nat) :
    (natBits n v).foldl (fun acc b => 2 * acc + b.toNat) acc = acc * 2 ^ n + v % 2 ^ n := by
  induction n generalizing acc with
  | zero => simp [natBits, Nat.mod_one]
  | succ n ih =>
    rw [natBits, List.foldl_cons, ih, Nat.toNat_testBit, Nat.pow_succ, Nat.mod_mul]
    ring

/-- The bits of a number stand for its low part. -/
theorem bitsNat_natBits (n v : Nat) : bitsNat (natBits n v) = v % 2 ^ n := by
  rw [bitsNat, foldl_natBits, Nat.zero_mul, Nat.zero_add]

/-- A field is its high part followed by its low part. -/
theorem natBits_add (m n v : Nat) : natBits (m + n) v = natBits m (v / 2 ^ n) ++ natBits n v := by
  induction m with
  | zero => simp [natBits]
  | succ m ih =>
    rw [Nat.add_right_comm, natBits, ih, natBits, Nat.testBit_div_two_pow, List.cons_append]

/-- Two's complement undone (00_scope.md R13). -/
theorem sext_tc {n : Nat} {v : Int} (h : fitsS v n) : sext n (tc n v) = v := by
  obtain ⟨h0, h1, h2⟩ := h
  obtain ⟨m, rfl⟩ : ∃ m, n = m + 1 := ⟨n - 1, by omega⟩
  simp only [Nat.add_sub_cancel] at h1 h2
  have hp : (2 : Int) ^ (m + 1) = 2 * 2 ^ m := by ring
  have cast : ((2 ^ m : Nat) : Int) = 2 ^ m := by norm_cast
  unfold sext tc
  rw [hp, Nat.add_sub_cancel]
  generalize (2 : Int) ^ m = P at *
  generalize 2 ^ m = Q at *
  rcases Int.lt_or_le v 0 with neg | pos
  · have : v % (2 * P) = v + 2 * P := by
      rw [← Int.add_emod_right, Int.emod_eq_of_lt] <;> omega
    rw [this]
    split <;> omega
  · rw [Int.emod_eq_of_lt pos (by omega)]
    split <;> omega

theorem tc_lt (n : Nat) (v : Int) : tc n v < 2 ^ n := by
  have hp : (0 : Int) < 2 ^ n := by positivity
  have := Int.emod_lt_of_pos v hp
  have := Int.emod_nonneg v hp.ne'
  have cast : ((2 ^ n : Nat) : Int) = 2 ^ n := by norm_cast
  unfold tc
  omega

/-- A signed number of more than 32 bits from its two parts (30_encoding.md R140). -/
theorem sext_split {m : Nat} {v : Int} (h0 : 0 < m) (h : fitsS v (m + 32)) :
    sext m (tc (m + 32) v / 2 ^ 32) * 2 ^ 32 + ((tc (m + 32) v % 2 ^ 32 : Nat) : Int) = v := by
  have e := sext_tc h
  obtain ⟨k, rfl⟩ : ∃ k, m = k + 1 := ⟨m - 1, by omega⟩
  have p1 : (2 : Nat) ^ (k + 32) = 2 ^ k * 4294967296 := by rw [Nat.pow_add]
  have p2 : (2 : Int) ^ (k + 1 + 32) = 2 ^ (k + 1) * 4294967296 := by rw [Int.pow_add]; norm_num
  unfold sext at e ⊢
  rw [show k + 1 + 32 - 1 = k + 32 by omega, p1, p2] at e
  rw [Nat.add_sub_cancel]
  generalize (2 : Int) ^ (k + 1) = P at *
  generalize (2 : Nat) ^ k = Q at *
  generalize tc (k + 1 + 32) v = u at *
  split at e <;> split <;> omega

/-- The zig-zag map undone (00_scope.md R13). -/
theorem unzz_zz (r : Int) : unzz (zz r) = r := by
  unfold unzz zz
  split <;> split <;> omega

/-! ### The bits at the cursor -/

theorem bytesBits_drop (bs : List Byte) (k : Nat) : bytesBits (bs.drop k) = (bytesBits bs).drop (8 * k) := by
  induction k generalizing bs with
  | zero => rfl
  | succ k ih =>
    cases bs with
    | nil => simp [bytesBits]
    | cons b rest =>
      have len : (byteBits b).length = 8 := by simp [byteBits, inBitOrder, Config.bitOrder]
      rw [List.drop_succ_cons, ih, bytesBits, bytesBits, List.flatMap_cons, Nat.mul_succ, Nat.add_comm, ← List.drop_drop,
        ← len, List.drop_left]

/-- Bit position `p` is the `p`-th bit of the whole string (R11). -/
theorem bitsFrom_eq (bs : List Byte) (p : Nat) : bitsFrom bs p = (bytesBits bs).drop p := by
  rw [bitsFrom, bytesBits_drop, List.drop_drop]
  congr 1
  omega

variable {s : State} {a b : List Bool}

/-- The bits in front, of those at the cursor. -/
theorem AtCursor.head (h : AtCursor s (a ++ b)) : AtCursor s a := (List.prefix_append a b).trans h

/-- The bits behind, once those in front are consumed. -/
theorem AtCursor.tail (h : AtCursor s (a ++ b)) : AtCursor { s with brPos := s.brPos + a.length } b := by
  obtain ⟨rest, e⟩ := h
  refine ⟨rest, ?_⟩
  rw [bitsFrom_eq] at e ⊢
  rw [← List.drop_drop, ← e, List.append_assoc, List.drop_left]

/-- The bits behind a field, once it is consumed. -/
theorem AtCursor.behind {n v : Nat} (h : AtCursor s (natBits n v ++ b)) : AtCursor { s with brPos := s.brPos + n } b := by
  have rest := h.tail
  rwa [natBits_length] at rest

/-- The bits at the cursor are inside the input. -/
theorem AtCursor.inside (h : AtCursor s a) (ne : a ≠ []) : s.brPos + a.length ≤ 8 * s.input.length := by
  have len := h.length_le
  rw [bitsFrom_length] at len
  have := List.length_pos_iff.2 ne
  omega

theorem AtCursor.memRead (h : AtCursor s a) : memRead s.input s.brPos a.length = bitsNat a := by
  rw [Machine.memRead, ← List.prefix_iff_eq_take.1 h]

/-! ### Reading back what stands at the cursor -/

/-- A field of up to 32 bits (R162). -/
theorem readBits_atCursor {n v : Nat} (h1 : 1 ≤ n) (h : AtCursor s (natBits n v)) :
    readBits n s = .ok (v % 2 ^ n) { s with brPos := s.brPos + n } := by
  have ne : natBits n v ≠ [] := List.ne_nil_of_length_pos (by simp; omega)
  have inside := h.inside ne
  have value := h.memRead
  rw [natBits_length] at inside value
  rw [readBits_ok inside, value, bitsNat_natBits]

/-- A field of more than 32 bits is read in two parts (R140). -/
theorem readBits_pair_atCursor {m v : Nat} (f : Nat → Nat → Op α) (h0 : 1 ≤ m) (h : AtCursor s (natBits (m + 32) v)) :
    (readBits m >>= fun hi => readBits 32 >>= f hi) s =
      f (v / 2 ^ 32 % 2 ^ m) (v % 2 ^ 32) { s with brPos := s.brPos + (m + 32) } := by
  rw [natBits_add] at h
  have low := h.behind
  rw [bind_ok (readBits_atCursor h0 h.head), bind_ok (readBits_atCursor (by omega) low)]
  simp only [Nat.add_assoc]

/-- An unsigned field (R140). -/
theorem readU_atCursor {n v : Nat} (fits : v < 2 ^ n) (h : AtCursor s (natBits n v)) :
    readU n s = .ok v { s with brPos := s.brPos + n } := by
  unfold readU
  split
  next n0 => subst n0; simp_all
  next n0 =>
    split
    next => rw [readBits_atCursor (by omega) h, Nat.mod_eq_of_lt fits]
    next big =>
      obtain ⟨m, rfl⟩ : ∃ m, n = m + 32 := ⟨n - 32, by omega⟩
      have high : v / 2 ^ 32 < 2 ^ m := Nat.div_lt_of_lt_mul (by rwa [Nat.mul_comm, ← Nat.pow_add])
      rw [Nat.add_sub_cancel, readBits_pair_atCursor _ (by omega) h, Nat.mod_eq_of_lt high, Nat.div_add_mod']
      rfl

/-- A signed field (R140). -/
theorem readS_atCursor {n : Nat} {v : Int} (fits : fitsS v n) (h : AtCursor s (natBits n (tc n v))) :
    readS n s = .ok v { s with brPos := s.brPos + n } := by
  have n0 : n ≠ 0 := by have := fits.1; omega
  rw [readS, if_neg n0]
  split
  next =>
    rw [bind_ok (readBits_atCursor (by omega) h), Nat.mod_eq_of_lt (tc_lt n v), sext_tc fits]
    rfl
  next big =>
    obtain ⟨m, rfl⟩ : ∃ m, n = m + 32 := ⟨n - 32, by omega⟩
    have high : tc (m + 32) v / 2 ^ 32 < 2 ^ m :=
      Nat.div_lt_of_lt_mul (by rw [Nat.mul_comm, ← Nat.pow_add]; exact tc_lt _ v)
    rw [Nat.add_sub_cancel, readBits_pair_atCursor _ (by omega) h, Nat.mod_eq_of_lt high, sext_split (by omega) fits]
    rfl

theorem leadRun_unaryBits (q : Nat) (rest : List Bool) : leadRun (unaryBits q ++ rest) = some q := by
  induction q with
  | zero => simp [unaryBits, leadRun]
  | succ q ih =>
    simp only [unaryBits, List.replicate_succ, List.cons_append, leadRun] at ih ⊢
    rw [ih]
    simp

@[simp] theorem unaryBits_length (q : Nat) : (unaryBits q).length = q + 1 := by simp [unaryBits]

/-- A unary number is seen, not consumed (R164). -/
theorem peekUnary_atCursor {q : Nat} (h : AtCursor s (unaryBits q)) : peekUnary s = .ok q s := by
  obtain ⟨rest, e⟩ := h
  simp only [peekUnary, ← e, leadRun_unaryBits]

/-- A unary number (R164). -/
theorem readUnary_atCursor {q : Nat} (h : AtCursor s (unaryBits q)) :
    readUnary s = .ok q { s with brPos := s.brPos + (q + 1) } := by
  rw [readUnary, bind_ok (peekUnary_atCursor h)]
  rfl

@[simp] theorem riceBits_length (k : Nat) (r : Int) : (riceBits k r).length = riceSize k r := by
  simp [riceBits, riceSize]

/-- A Rice code word (R165). -/
theorem readRice_atCursor {k : Nat} {r : Int} (h : AtCursor s (riceBits k r)) :
    readRice k s = .ok r { s with brPos := s.brPos + riceSize k r } := by
  have inside := h.inside (by simp [riceBits, unaryBits])
  have low := h.tail.memRead
  rw [riceBits_length, riceSize] at inside
  rw [unaryBits_length, natBits_length, bitsNat_natBits, ← Nat.add_assoc] at low
  rw [readRice, bind_ok (peekUnary_atCursor h.head), bind_ok (starve_ok inside), look_bind, low, Nat.div_add_mod', unzz_zz]
  rfl

end Sys2Proof.Machine

/-! PROOFS. Want of input, runs of samples, and the constant and verbatim bodies (44_predictor.md R252, R253). -/

namespace Sys2Proof.Machine

variable {α β : Type}
variable {s : State}

/-- A register that is written. -/
theorem readReg_some {f : State → Reg α} {v : α} (h : f s = some v) : readReg f s = .ok v s := by
  rw [readReg_run, h, written_some]

/-! ### Want of input -/

/-- How an operation ends that lacks input (R161). -/
def State.want (s : State) : Stop := if s.inEof then .exc .endOfStream else .hold

theorem readBits_lacks {n : Nat} (h : Lacks s n) : readBits n s = .error s.want s := by
  cases e : s.inEof with
  | false => simp [readBits_hold h e, State.want, e]
  | true => simp [readBits_eos h e, State.want, e]

/-- A signed field that is not all there: a part of it may be consumed. -/
theorem readS_lacks {n : Nat} (h1 : 1 ≤ n) (h : Lacks s n) : ∃ t, readS n s = .error s.want t := by
  rw [readS, if_neg (by omega)]
  split
  next => exact ⟨s, bind_error (readBits_lacks h)⟩
  next =>
    rcases Nat.lt_or_ge (8 * s.input.length) (s.brPos + (n - 32)) with cut | there
    · exact ⟨s, bind_error (readBits_lacks cut)⟩
    · rw [bind_ok (readBits_ok there)]
      exact ⟨_, bind_error (readBits_lacks (by dsimp only [Lacks]; omega))⟩

/-- A signed field that is there. -/
theorem readS_ok {n : Nat} (h1 : 1 ≤ n) (h : s.brPos + n ≤ 8 * s.input.length) :
    ∃ v, readS n s = .ok v { s with brPos := s.brPos + n } := by
  rw [readS, if_neg (by omega)]
  split
  next => exact ⟨_, bind_ok (readBits_ok h)⟩
  next big =>
    rw [bind_ok (readBits_ok (by omega)), bind_ok (readBits_ok (by dsimp only; omega))]
    refine ⟨_, congrArg (EStateM.Result.ok _) ?_⟩
    rw [show s.brPos + n = s.brPos + (n - 32) + 32 by omega]

/-- Outside mode Encode the input may be read (R21). -/
theorem notEncode_ok (mode : s.mode ≠ .encode) : notEncode s = .ok () s := by simp [notEncode, mode]

/-- An operation that takes effect wholly or not at all, and lacks input, starves. -/
theorem starves_of_lacks {m : Op Unit} {t : State} (live : s.faulted = false) (mode : s.mode ≠ .encode)
    (h : m s = .error s.want t) :
    Starves (issue .read (do notEncode; atomically m; pure .none) s) s := by
  have run : (do notEncode; atomically m; pure .none : Op Result) s = .error s.want s := by
    rw [bind_ok (notEncode_ok mode)]
    exact bind_error (by rw [atomically, h])
  constructor <;> intro e <;> rw [State.want, e] at run
  · exact issue_hold live run
  · exact issue_exc live run

/-- An operation that takes effect wholly or not at all, and answers. -/
theorem answers_of_ok {m : Op Unit} {t : State} (live : s.faulted = false) (mode : s.mode ≠ .encode)
    (h : m s = .ok () t) :
    Answers (issue .read (do notEncode; atomically m; pure .none) s) t .none := by
  refine issue_ok live ?_
  rw [bind_ok (notEncode_ok mode)]
  exact bind_ok (by rw [atomically, h])

/-! ### Runs of samples -/

/-- `vs` in place of the entries from `i` on. -/
def splice {α : Type} (l : List α) (i : Nat) (vs : List α) : List α := l.take i ++ vs ++ l.drop (i + vs.length)

@[simp] theorem splice_nil (l : List α) (i : Nat) : splice l i [] = l := by simp [splice]

theorem splice_zero (l vs : List α) : splice l 0 vs = overwrite l vs := by simp [splice, overwrite]

/-- One entry, then the others. -/
theorem splice_setAt (l : List α) (i : Nat) (v : α) (vs : List α) :
    splice (setAt l i v) (i + 1) vs = splice l i (v :: vs) := by
  rcases Nat.lt_or_ge l.length i with short | long
  · simp only [splice, setAt, List.take_of_length_le short.le, List.length_cons]
    rw [List.drop_eq_nil_of_le (by omega), List.take_of_length_le (by simp; omega), List.drop_eq_nil_of_le (by simp; omega),
      List.drop_eq_nil_of_le (by omega)]
    simp
  · have len : (l.take i ++ [v]).length = i + 1 := by simp [long]
    have cons : setAt l i v = (l.take i ++ [v]) ++ l.drop (i + 1) := by simp [setAt]
    rw [splice, cons, ← len, List.take_left, ← List.drop_drop, List.drop_left, List.drop_drop, splice, len,
      List.length_cons, Nat.add_assoc, Nat.add_comm 1, List.append_assoc (l.take i), List.singleton_append]

@[simp] theorem modify_same (rows : List α) (c : Nat) : (rows.modify c fun row => row) = rows := List.modify_id c rows

@[simp] theorem sampleBits_length (b : Nat) (xs : List Int) : (sampleBits b xs).length = xs.length * b := by
  simp [sampleBits, List.length_flatMap]

@[simp] theorem sampleBits_cons (b : Nat) (x : Int) (xs : List Int) :
    sampleBits b (x :: xs) = natBits b (tc b x) ++ sampleBits b xs := rfl

/-- Samples that stand at the cursor (R253). -/
theorem readSamples_atCursor (c b : Nat) : ∀ (xs : List Int) (i : Nat) (s : State),
    (∀ x ∈ xs, fitsS x b) → AtCursor s (sampleBits b xs) →
    readSamples c b xs.length i s =
      .ok () { s with brPos := s.brPos + xs.length * b, smp := s.smp.modify c fun row => splice row i xs }
  | [], i, s, _, _ => by simp [readSamples]
  | x :: xs, i, s, fits, h => by
    rw [sampleBits_cons] at h
    have rest := h.behind
    rw [List.length_cons, readSamples, bind_ok (readS_atCursor (fits x (by simp)) h.head), writeSmp, update_bind]
    refine (readSamples_atCursor c b xs (i + 1) _ (fun y hy => fits y (by simp [hy])) (by exact rest)).trans ?_
    simp only [List.modify_modify_eq, Function.comp_def, splice_setAt, Nat.add_mul, Nat.one_mul, Nat.add_assoc, Nat.add_comm b]

/-- Samples that are not all there. -/
theorem readSamples_lacks (c b : Nat) (b1 : 1 ≤ b) : ∀ (n i : Nat) (s : State),
    Lacks s ((n + 1) * b) → ∃ t, readSamples c b (n + 1) i s = .error s.want t := by
  intro n
  induction n with
  | zero =>
    intro i s h
    obtain ⟨t, ht⟩ := readS_lacks b1 (by simpa using h)
    exact ⟨t, bind_error ht⟩
  | succ n ih =>
    intro i s h
    rw [readSamples]
    rcases Nat.lt_or_ge (8 * s.input.length) (s.brPos + b) with cut | there
    · obtain ⟨t, ht⟩ := readS_lacks b1 cut
      exact ⟨t, bind_error ht⟩
    · obtain ⟨v, hv⟩ := readS_ok b1 there
      rw [bind_ok hv, writeSmp, update_bind]
      have split : (n + 1 + 1) * b = b + (n + 1) * b := by rw [Nat.succ_mul (n + 1), Nat.add_comm]
      rw [Lacks, split, ← Nat.add_assoc] at h
      exact ih (i + 1) _ h

/-! ### Constant and verbatim bodies -/

variable {n c b : Nat}

/-- `SF_DEC_CONSTANT` (R252). -/
theorem sfDecConstant_atCursor {v : Int} (hn : s.fh.blocksize = some n) (hc : s.sf.ch = some c) (hb : s.sf.bps = some b)
    (fits : fitsS v b) (h : AtCursor s (natBits b (tc b v))) :
    sfDecConstant s =
      .ok () { s with brPos := s.brPos + b, smp := s.smp.modify c fun row => overwrite row (List.replicate n v) } := by
  rw [sfDecConstant]
  simp only [readReg_bind, hn, hc, hb, written_some_bind]
  rw [bind_ok (readS_atCursor fits h)]
  rfl

theorem sfDecConstant_lacks (hn : s.fh.blocksize = some n) (hc : s.sf.ch = some c) (hb : s.sf.bps = some b)
    (b1 : 1 ≤ b) (h : Lacks s b) : ∃ t, sfDecConstant s = .error s.want t := by
  obtain ⟨t, ht⟩ := readS_lacks b1 h
  refine ⟨t, ?_⟩
  rw [sfDecConstant]
  simp only [readReg_bind, hn, hc, hb, written_some_bind]
  exact bind_error ht

/-- `SF_DEC_VERBATIM` (R253) reads its samples. -/
theorem sfDecVerbatim_run (hn : s.fh.blocksize = some n) (hc : s.sf.ch = some c) (hb : s.sf.bps = some b) :
    sfDecVerbatim s = readSamples c b n 0 s := by
  rw [sfDecVerbatim]
  simp only [readReg_bind, hn, hc, hb, written_some_bind]

/-- Settles O28: the bodies read what stands at the cursor; a cut body starves at the first field that is not all there. -/
theorem constantAndVerbatimBodies : Obligations.ConstantAndVerbatimBodies := by
  unfold Obligations.ConstantAndVerbatimBodies
  intro s n c b live mode hn hc hb b1 _
  refine ⟨fun v fits h => ?_, fun h => ?_, fun n1 h => ?_, fun xs len fits h => ?_⟩
  · have run := answers_of_ok live mode (sfDecConstant_atCursor hn hc hb fits h)
    simp only [overwrite, List.length_replicate] at run
    exact run
  · obtain ⟨t, ht⟩ := sfDecConstant_lacks hn hc hb b1 h
    exact starves_of_lacks live mode ht
  · obtain ⟨m, rfl⟩ : ∃ m, n = m + 1 := ⟨n - 1, by omega⟩
    obtain ⟨t, ht⟩ := readSamples_lacks c b b1 m 0 s h
    exact starves_of_lacks live mode ((sfDecVerbatim_run hn hc hb).trans ht)
  · subst len
    have run := answers_of_ok live mode ((sfDecVerbatim_run hn hc hb).trans (readSamples_atCursor c b xs 0 s fits h))
    simp only [splice_zero, overwrite] at run
    exact run

end Sys2Proof.Machine

/-! PROOFS. The checks of `FH_VALIDATE` (43_frame_model.md R231, R232) and what `ENC_BLOCK` and `ENC_FINISH` refuse
(47_encoder.md R343). -/

namespace Sys2Proof.Machine

variable {s : State}

/-! ### The frame-header validator -/

theorem validStreamInfo_ok {si : StreamInfo} (valid : s.siValid = true) (hsi : s.si = some si) :
    validStreamInfo s = .ok si s := by
  simp [validStreamInfo, bind_run, valid, hsi]

/-- The depth that a code stands for (30_encoding.md R115). -/
theorem bpsOfCode_of_mem {bpc d siBps : Nat}
    (h : (bpc, d) ∈ [(0, siBps), (1, 8), (2, 12), (3, 0), (4, 16), (5, 20), (6, 24), (7, 32)]) (not3 : bpc ≠ 3) :
    bpsOfCode bpc siBps = some d := by
  simp only [List.mem_cons, Prod.mk.injEq, List.not_mem_nil, or_false] at h
  rcases h with ⟨rfl, rfl⟩ | ⟨rfl, rfl⟩ | ⟨rfl, rfl⟩ | ⟨rfl, rfl⟩ | ⟨rfl, rfl⟩ | ⟨rfl, rfl⟩ | ⟨rfl, rfl⟩ | ⟨rfl, rfl⟩
  case inr.inr.inr.inl => exact absurd rfl not3
  all_goals rfl

/-- `FH_VALIDATE` behind the reserved values, for block size `bs` and channel assignment `ca` (R231, R232). -/
def validateFormat (si : StreamInfo) (bs ca : Nat) : Op Unit := do
  check (ca < 11) (.unsupported .channelAssignment)
  let bpc ← readReg fun s => s.fh.bpsCode
  check (bpc ≠ 3) (.unsupported .bitDepthCode)
  let bps ← written (bpsOfCode bpc si.bps)
  update fun s => { s with fh := { s.fh with channels := some (channelsOf ca), bps := some bps } }
  let sr ← readReg fun s => s.fh.sampleRate
  check (channelsOf ca = si.channels ∧ bps = si.bps ∧ sr = si.sampleRate ∧ bs ≤ si.maxBlocksize) (.sync .headerMismatch)
  let var ← readReg fun s => s.fh.variable_
  let num ← readReg fun s => s.fh.number
  update fun s =>
    { s with fh := { s.fh with
        firstSample := some (if var = 1 then num else num * si.maxBlocksize)
        valid := true } }

/-- An operation that takes effect wholly or not at all, and raises, has no other effect (R78). -/
theorem raises_of_exc {m : Op Unit} {t : State} {side : Side} {e : Exc} (live : s.faulted = false)
    (h : m s = .error (.exc e) t) : Raises (issue side (do atomically m; pure .none) s) s side e :=
  issue_exc live (bind_error (by rw [atomically, h]))

section
variable {si : StreamInfo} {res bsc bs ca bpc d sr var num : Nat} (valid : s.siValid = true) (hsi : s.si = some si)
  (hres : s.fh.reserved = some res) (hbsc : s.fh.bsCode = some bsc) (hbs : bsc ≠ 0 → s.fh.blocksize = some bs)
include valid hsi hres hbsc hbs

/-- A reserved bit or block size (R231). -/
theorem fhValidate_reserved (h : res = 1 ∨ bsc = 0 ∨ bs = 65536) :
    fhValidate s = .error (.exc (.sync .headerReserved)) s := by
  rw [fhValidate, bind_ok (validStreamInfo_ok valid hsi), bind_ok (readReg_some hres)]
  by_cases r1 : res = 1
  · exact check_bind_false _ _ _ (not_not.2 r1)
  rw [check_bind_true _ _ _ r1, bind_ok (readReg_some hbsc)]
  by_cases b0 : bsc = 0
  · exact check_bind_false _ _ _ (not_not.2 b0)
  rw [check_bind_true _ _ _ b0, bind_ok (readReg_some (hbs b0))]
  exact check_bind_false _ _ _ (by omega)

variable (free : ¬ (res = 1 ∨ bsc = 0 ∨ bs = 65536)) (hca : s.fh.chanAssign = some ca) (hbpc : s.fh.bpsCode = some bpc)
include free hca

/-- With no reserved value the channel assignment and the depth code are looked at next (R231). -/
theorem fhValidate_unreserved : fhValidate s = validateFormat si bs ca s := by
  obtain ⟨r1, b0, big⟩ : res ≠ 1 ∧ bsc ≠ 0 ∧ bs ≠ 65536 := by omega
  rw [fhValidate, bind_ok (validStreamInfo_ok valid hsi), bind_ok (readReg_some hres), check_bind_true _ _ _ r1,
    bind_ok (readReg_some hbsc), check_bind_true _ _ _ b0, bind_ok (readReg_some (hbs b0)), check_bind_true _ _ _ big,
    bind_ok (readReg_some hca)]
  rfl

theorem fhValidate_assignment (h : 11 ≤ ca) : fhValidate s = .error (.exc (.unsupported .channelAssignment)) s := by
  rw [fhValidate_unreserved valid hsi hres hbsc hbs free hca, validateFormat]
  exact check_bind_false _ _ _ (by omega)

variable (h11 : ca < 11)
include hbpc h11

theorem fhValidate_depthCode (h : bpc = 3) : fhValidate s = .error (.exc (.unsupported .bitDepthCode)) s := by
  rw [fhValidate_unreserved valid hsi hres hbsc hbs free hca, validateFormat, check_bind_true _ _ _ h11,
    bind_ok (readReg_some hbpc)]
  exact check_bind_false _ _ _ (not_not.2 h)

variable (h3 : bpc ≠ 3) (hd : bpsOfCode bpc si.bps = some d) (hsr : s.fh.sampleRate = some sr)
include h3 hd hsr

theorem fhValidate_mismatch
    (h : channelsOf ca ≠ si.channels ∨ d ≠ si.bps ∨ sr ≠ si.sampleRate ∨ si.maxBlocksize < bs) :
    ∃ t, fhValidate s = .error (.exc (.sync .headerMismatch)) t := by
  rw [fhValidate_unreserved valid hsi hres hbsc hbs free hca, validateFormat, check_bind_true _ _ _ h11,
    bind_ok (readReg_some hbpc),
    check_bind_true _ _ _ h3, hd, written_some_bind, update_bind, readReg_bind, hsr, written_some_bind]
  exact ⟨_, check_bind_false _ _ _ (by omega)⟩

theorem fhValidate_ok (h : ¬ (channelsOf ca ≠ si.channels ∨ d ≠ si.bps ∨ sr ≠ si.sampleRate ∨ si.maxBlocksize < bs))
    (hvar : s.fh.variable_ = some var) (hnum : s.fh.number = some num) :
    fhValidate s = .ok () { s with fh := { s.fh with
      channels := some (channelsOf ca)
      bps := some d
      firstSample := some (if var = 1 then num else num * si.maxBlocksize)
      valid := true } } := by
  rw [fhValidate_unreserved valid hsi hres hbsc hbs free hca, validateFormat, check_bind_true _ _ _ h11,
    bind_ok (readReg_some hbpc),
    check_bind_true _ _ _ h3, hd, written_some_bind, update_bind, readReg_bind, hsr, written_some_bind,
    check_bind_true _ _ _ (by omega), readReg_bind, hvar, written_some_bind, readReg_bind, hnum, written_some_bind, update_run]

end

/-! ### What `ENC_BLOCK` refuses -/

theorem needMode_ok {m : Mode} (h : s.mode = m) : needMode m s = .ok () s := by simp [needMode, h]

theorem needMode_refused {m : Mode} (h : s.mode ≠ m) : needMode m s = .error (.exc (.logic .badMode)) s := by
  simp [needMode, h]

/-- The encoder's operations need mode Encode and a ready session (R343, R347). -/
theorem needReady_refused {α : Type} (rest : Op α) (h : s.mode ≠ .encode ∨ s.estate ≠ .ready) :
    (do needMode .encode; let e ← look State.estate; check (e = EState.ready) (.logic .badMode); rest) s =
      .error (.exc (.logic .badMode)) s := by
  by_cases mode : s.mode = .encode
  · rw [bind_ok (needMode_ok mode), look_bind]
    exact check_bind_false _ _ _ (h.resolve_left (not_not.2 mode))
  · exact bind_error (needMode_refused mode)

theorem needReady_ok {α : Type} (rest : Op α) (mode : s.mode = .encode) (ready : s.estate = .ready) :
    (do needMode .encode; let e ← look State.estate; check (e = EState.ready) (.logic .badMode); rest) s = rest s := by
  rw [bind_ok (needMode_ok mode), look_bind, check_bind_true _ _ _ ready]

/-- The session has failed (R343); nothing else is changed. -/
def State.sessionFailed (s : State) : State := { s with estate := .failed }

theorem encoderFails_run (e : Exc) (s : State) : encoderFails e s = .error (.exc e) s.sessionFailed := rfl

section
variable (sel : Selections)

theorem encBlock_refused (h : s.mode ≠ .encode ∨ s.estate ≠ .ready) :
    encBlock sel s = .error (.exc (.logic .badMode)) s := needReady_refused _ h

theorem encFinish_refused (h : s.mode ≠ .encode ∨ s.estate ≠ .ready) :
    encFinish s = .error (.exc (.logic .badMode)) s := needReady_refused _ h

variable (mode : s.mode = .encode) (ready : s.estate = .ready)
include mode ready

theorem encBlock_empty (h : s.pcmIn = []) : encBlock sel s = .ok 0 s := by
  rw [encBlock, needReady_ok _ mode ready, look_bind, h]
  rfl

variable {cfg : EncConfig} {blk : PcmIn} {rest : List PcmIn} (hcfg : s.cfg = some cfg) (hq : s.pcmIn = blk :: rest)
include hcfg hq

theorem encBlock_blockSize (h : ¬ (cfg.minBlocksize ≤ blk.blocksize ∧ blk.blocksize ≤ cfg.maxBlocksize)) :
    encBlock sel s = .error (.exc (.config .blockSize)) s.sessionFailed := by
  have bad : blk.blocksize < cfg.minBlocksize ∨ cfg.maxBlocksize < blk.blocksize := by omega
  rw [encBlock, needReady_ok _ mode ready, look_bind, hq]
  simp only [readReg_bind, hcfg, written_some_bind, if_pos bad]
  exact bind_error (encoderFails_run _ s)

variable (sized : cfg.minBlocksize ≤ blk.blocksize ∧ blk.blocksize ≤ cfg.maxBlocksize)
include sized

theorem encBlock_streamTooLong (h : ¬ (s.encSamples + blk.blocksize < 2 ^ 36 ∧ s.encFrameNo < 2 ^ 31)) :
    encBlock sel s = .error (.exc (.config .streamTooLong)) s.sessionFailed := by
  have fine : ¬ (blk.blocksize < cfg.minBlocksize ∨ cfg.maxBlocksize < blk.blocksize) := by omega
  have bad : 2 ^ 36 ≤ s.encSamples + blk.blocksize ∨ 2 ^ 31 ≤ s.encFrameNo := by omega
  rw [encBlock, needReady_ok _ mode ready, look_bind, hq]
  simp only [readReg_bind, hcfg, written_some_bind, if_neg fine, look_bind, if_pos bad]
  exact bind_error (encoderFails_run _ s)

theorem encBlock_sample (numbered : s.encSamples + blk.blocksize < 2 ^ 36 ∧ s.encFrameNo < 2 ^ 31)
    (h : ∃ row ∈ blk.samples, ∃ v ∈ row, ¬ fitsS v cfg.bps) :
    encBlock sel s = .error (.exc (.logic .valueOutOfRange)) s := by
  have fine : ¬ (blk.blocksize < cfg.minBlocksize ∨ cfg.maxBlocksize < blk.blocksize) := by omega
  have fine2 : ¬ (2 ^ 36 ≤ s.encSamples + blk.blocksize ∨ 2 ^ 31 ≤ s.encFrameNo) := by omega
  obtain ⟨row, hrow, v, hv, bad⟩ := h
  rw [encBlock, needReady_ok _ mode ready, look_bind, hq]
  simp only [readReg_bind, hcfg, written_some_bind, if_neg fine, if_neg fine2, look_bind]
  exact check_bind_false _ _ _ fun all => bad (all row hrow v hv)

end
/-- Settles O26: the checks of `FH_VALIDATE` one after another; what it wrote before a failing one is undone. -/
theorem frameHeaderValidated : Obligations.FrameHeaderValidated := by
  unfold Obligations.FrameHeaderValidated
  intro s si res bsc bs ca bpc d sr var num live valid hsi hres hbsc hbs hca hbpc hsr hvar hnum hd reserved ch mismatch
  refine ⟨fun h => ?_, fun free h => ?_, fun free h11 h3 => ?_, fun free h11 h3 h => ?_, fun free h11 h3 h => ?_⟩
  · exact raises_of_exc live (fhValidate_reserved valid hsi hres hbsc hbs h)
  · exact raises_of_exc live (fhValidate_assignment valid hsi hres hbsc hbs free hca h)
  · exact raises_of_exc live (fhValidate_depthCode valid hsi hres hbsc hbs free hca hbpc h11 h3)
  · obtain ⟨t, ht⟩ := fhValidate_mismatch valid hsi hres hbsc hbs free hca hbpc h11 h3 (bpsOfCode_of_mem hd h3) hsr h
    exact raises_of_exc live ht
  · refine issue_ok live (bind_ok (a := ()) ?_)
    rw [atomically, fhValidate_ok valid hsi hres hbsc hbs free hca hbpc h11 h3 (bpsOfCode_of_mem hd h3) hsr h hvar hnum]
    rfl

/-- Settles O50: the checks of `ENC_BLOCK` in their order, before anything is written. -/
theorem blockRefusals : Obligations.BlockRefusals := by
  unfold Obligations.BlockRefusals
  intro s live
  refine ⟨fun mode ready h => ?_, fun cfg blk rest mode ready hcfg hq =>
    ⟨fun h => ?_, fun sized h => ?_, fun sized fit h => ?_⟩, fun h => ⟨?_, ?_⟩⟩
  · exact issue_ok live (bind_ok (encBlock_empty _ mode ready h))
  · exact issue_exc live (bind_error (encBlock_blockSize _ mode ready hcfg hq h))
  · exact issue_exc live (bind_error (encBlock_streamTooLong _ mode ready hcfg hq sized h))
  · exact issue_exc live (bind_error (encBlock_sample _ mode ready hcfg hq sized fit h))
  · exact issue_exc live (bind_error (encBlock_refused _ h))
  · exact issue_exc live (bind_error (encFinish_refused h))

end Sys2Proof.Machine

/-! PROOFS. `RES_DECODE` reads back the section of a table that fits a residual (45_residual.md R284, R288, R289). -/

namespace Sys2Proof.Machine

variable {s : State}

/-! ### The residual section, read back -/

theorem splice_splice {α : Type} (l : List α) (i : Nat) (as bs : List α) :
    splice (splice l i as) (i + as.length) bs = splice l i (as ++ bs) := by
  induction as generalizing l i with
  | nil => simp
  | cons a as ih =>
    rw [← splice_setAt, List.length_cons, Nat.add_comm as.length, ← Nat.add_assoc, ih, splice_setAt, List.cons_append]

/-- An escaped residual (R288). -/
theorem escRead_atCursor {nb : Nat} {r : Int} (fits : escFits nb r = true) (h : AtCursor s (escBits nb r)) :
    escRead nb s = .ok r { s with brPos := s.brPos + (escBits nb r).length } := by
  have bits : escBits nb r = natBits nb (zz r) := rfl
  have small : zz r < 2 ^ nb := of_decide_eq_true fits
  rw [bits] at h ⊢
  rw [natBits_length]
  by_cases n0 : nb = 0
  · subst n0
    have zero : r = 0 := by rw [← unzz_zz r, Nat.lt_one_iff.1 small]; rfl
    subst zero
    rfl
  · rw [escRead, if_neg n0]
    have run : (readU nb >>= fun u => pure (unzz u) : Op Int) s = .ok r { s with brPos := s.brPos + nb } := by
      rw [bind_ok (readU_atCursor small h), unzz_zz, pure_run]
    exact run

/-- A residual of a Rice partition (R284, R293). -/
theorem riceRead_atCursor {k : Nat} {r : Int} (lim : residualOk r) (h : AtCursor s (riceBits k r)) :
    riceRead k s = .ok r { s with brPos := s.brPos + (riceBits k r).length } := by
  rw [riceRead, bind_ok (readRice_atCursor h), check_bind_true _ _ _ lim, pure_run, riceBits_length]

/-- A run of residuals, each in its code. -/
theorem readRun_atCursor {one : Op Int} {code : Int → List Bool} : ∀ (run : List Int) (idx : Nat) (s : State),
    (∀ r ∈ run, ∀ t, AtCursor t (code r) → one t = .ok r { t with brPos := t.brPos + (code r).length }) →
    AtCursor s (run.flatMap code) →
    readRun one run.length idx s =
      .ok () { s with brPos := s.brPos + (run.flatMap code).length, res := splice s.res idx run }
  | [], idx, s, _, _ => by simp [readRun]
  | r :: run, idx, s, each, h => by
    rw [List.flatMap_cons] at h
    have rest := h.tail
    rw [List.length_cons, readRun, bind_ok (each r (by simp) s h.head), writeRes, update_bind]
    refine (readRun_atCursor run (idx + 1) _ (fun x hx => each x (by simp [hx])) (by exact rest)).trans ?_
    simp only [splice_setAt, List.flatMap_cons, List.length_append, Nat.add_assoc]

/-- The entry of the partition table after `RES_DECODE` met a choice: the field of the other form stays (R284). -/
def RcEntry.recode (e : RcEntry) : PartChoice → RcEntry
  | .rice k => { e with esc := false, param := some k }
  | .esc nb => { e with esc := true, raw := some nb }

/-- The partition table after the choices from entry `i` on were met. -/
def recoded (table : List RcEntry) (i : Nat) : List PartChoice → List RcEntry
  | [] => table
  | c :: cs => recoded (setAt table i ((table.getD i ⟨false, none, none⟩).recode c)) (i + 1) cs

theorem writeEntry_run (i : Nat) (c : PartChoice) (s : State) :
    writeEntry i c s = .ok () { s with rc := { s.rc with table := recoded s.rc.table i [c] } } := by
  cases c <;> rfl

theorem choiceFits_rice {m k : Nat} {run : List Int} (h : choiceFits m run (.rice k) = true) : k ≤ 14 + 16 * m :=
  of_decide_eq_true h

theorem choiceFits_esc {m nb : Nat} {run : List Int} (h : choiceFits m run (.esc nb) = true) :
    nb ≤ 31 ∧ ∀ r ∈ run, escFits nb r = true := by
  rw [choiceFits, Bool.and_eq_true, decide_eq_true_iff, List.all_eq_true] at h
  exact h

/-- One partition (R284). -/
theorem readPartition_atCursor {m i idx : Nat} {run : List Int} {c : PartChoice} (hm : m ≤ 1)
    (fits : choiceFits m run c = true) (lim : ∀ r ∈ run, residualOk r) (h : AtCursor s (partBits m run c)) :
    readPartition m i run.length idx s = .ok () { s with
      brPos := s.brPos + (partBits m run c).length
      rc := { s.rc with table := recoded s.rc.table i [c] }
      res := splice s.res idx run } := by
  have width : 16 + 16 * m ≤ 2 ^ paramWidth m := by
    have : m = 0 ∨ m = 1 := by omega
    rcases this with rfl | rfl <;> decide
  have escape : escapeCode m = 15 + 16 * m := rfl
  cases c with
  | rice k =>
    have small := choiceFits_rice fits
    have rest := h.behind
    rw [readPartition, bind_ok (readU_atCursor (by omega) h.head), if_neg (by omega), bind_ok (writeEntry_run i _ _)]
    refine (readRun_atCursor run idx _ (fun r hr t ht => riceRead_atCursor (lim r hr) ht) (by exact rest)).trans ?_
    simp only [partBits, List.length_append, natBits_length, Nat.add_assoc]
  | esc nb =>
    obtain ⟨small, each⟩ := choiceFits_esc fits
    rw [partBits, List.append_assoc] at h
    have mid := h.behind
    have rest := mid.behind
    rw [readPartition, bind_ok (readU_atCursor (by omega) h.head), if_pos rfl,
      bind_ok (readU_atCursor (show nb < 2 ^ Config.escWidthBits from Nat.lt_succ_of_le small) mid.head),
      bind_ok (writeEntry_run i _ _)]
    refine (readRun_atCursor run idx _ (fun r hr t ht => escRead_atCursor (each r hr) ht) (by exact rest)).trans ?_
    simp only [partBits, List.length_append, natBits_length, Nat.add_assoc]

/-- The partitions from `i` on. -/
theorem readPartitions_atCursor {n o m p : Nat} (hm : m ≤ 1) : ∀ (ps : List (List Int × PartChoice)) (i idx : Nat) (s : State),
    (∀ x ∈ ps, choiceFits m x.1 x.2 = true) → (∀ x ∈ ps, ∀ r ∈ x.1, residualOk r) →
    ps.map (·.1.length) = (List.range' i ps.length).map (partCount n o p) →
    AtCursor s (ps.flatMap fun x => partBits m x.1 x.2) →
    readPartitions n o m p ps.length i idx s = .ok () { s with
      brPos := s.brPos + (ps.flatMap fun x => partBits m x.1 x.2).length
      rc := { s.rc with table := recoded s.rc.table i (ps.map (·.2)) }
      res := splice s.res idx (ps.flatMap (·.1)) }
  | [], i, idx, s, _, _, _, _ => by simp [readPartitions, recoded]
  | x :: ps, i, idx, s, fits, lim, count, h => by
    rw [List.flatMap_cons] at h
    have rest := h.tail
    simp only [List.forall_mem_cons] at fits lim
    rw [List.length_cons, List.range'_succ, List.map_cons, List.map_cons, List.cons.injEq] at count
    obtain ⟨first, others⟩ := count
    rw [List.length_cons, readPartitions, ← first, bind_ok (readPartition_atCursor hm fits.1 lim.1 h.head)]
    refine (readPartitions_atCursor hm ps (i + 1) _ _ fits.2 lim.2 others (by exact rest)).trans ?_
    simp only [splice_splice, List.flatMap_cons, List.map_cons, List.length_append, Nat.add_assoc, recoded]

/-! ### The partitions of a residual -/

theorem chunks_length {α : Type} (size : Nat) : ∀ (k : Nat) (l : List α), (chunks size k l).length = k
  | 0, _ => rfl
  | k + 1, l => by rw [chunks, List.length_cons, chunks_length size k]

theorem chunks_flatten {α : Type} (size : Nat) : ∀ (k : Nat) (l : List α), l.length = k * size → (chunks size k l).flatten = l
  | 0, l, h => by rw [List.length_eq_zero_iff.1 (by omega : l.length = 0)]; rfl
  | k + 1, l, h => by
    rw [chunks, List.flatten_cons, chunks_flatten size k _ (by rw [List.length_drop, h, Nat.succ_mul]; omega),
      List.take_append_drop]

theorem chunks_map_length {α : Type} (size : Nat) : ∀ (k : Nat) (l : List α), l.length = k * size →
    (chunks size k l).map List.length = List.replicate k size
  | 0, _, _ => rfl
  | k + 1, l, h => by
    rw [Nat.succ_mul] at h
    rw [chunks, List.map_cons, chunks_map_length size k _ (by rw [List.length_drop]; omega), List.length_take,
      Nat.min_eq_left (by omega), List.replicate_succ]

section
variable {n o p : Nat} {res : List Int} (whole : n % 2 ^ p = 0) (room : o ≤ n / 2 ^ p) (len : res.length = n - o)
include whole room len

/-- What is left of the residual behind the first partition is whole partitions. -/
theorem partitions_rest : (res.drop (n / 2 ^ p - o)).length = (2 ^ p - 1) * (n / 2 ^ p) ∧ n / 2 ^ p - o ≤ res.length := by
  have pos : 1 ≤ 2 ^ p := Nat.one_le_two_pow
  have all : n = 2 ^ p * (n / 2 ^ p) := (Nat.mul_div_cancel' (Nat.dvd_of_mod_eq_zero whole)).symm
  have le : n / 2 ^ p ≤ n := Nat.div_le_self _ _
  rw [List.length_drop, Nat.sub_mul, ← all, len]
  omega

theorem partitions_flatten : (partitions n o p res).flatten = res := by
  rw [partitions, List.flatten_cons, chunks_flatten _ _ _ (partitions_rest whole room len).1, List.take_append_drop]

theorem partitions_map_length :
    (partitions n o p res).map List.length = (List.range' 0 (2 ^ p)).map (partCount n o p) := by
  obtain ⟨rest, fits⟩ := partitions_rest whole room len
  have range : List.range' 0 (2 ^ p) = 0 :: List.range' 1 (2 ^ p - 1) := by
    conv_lhs => rw [← Nat.sub_add_cancel (Nat.one_le_two_pow (n := p)), List.range'_succ]
  have tail : ∀ i ∈ List.range' 1 (2 ^ p - 1), partCount n o p i = n / 2 ^ p := fun i hi => by
    rw [partCount, if_neg (by rw [List.mem_range'_1] at hi; omega)]
  rw [partitions, List.map_cons, chunks_map_length _ _ _ rest, List.length_take, Nat.min_eq_left fits, range, List.map_cons,
    List.map_congr_left tail, List.map_const', List.length_range']
  rfl

end

theorem partitions_length (n o p : Nat) (res : List Int) : (partitions n o p res).length = 2 ^ p := by
  rw [partitions, List.length_cons, chunks_length]
  have := Nat.one_le_two_pow (n := p)
  omega

/-- The registers of the residual coder after a section with table `t`. -/
def RcRegs.loaded (rc : RcRegs) (t : PartTable) : RcRegs := ⟨some t.method, some t.porder, recoded rc.table 0 t.parts⟩

/-- `RES_DECODE` (R284) of a section that a table fits. -/
theorem resDecode_atCursor {n o : Nat} {res : List Int} {t : PartTable} (hn : s.fh.blocksize = some n)
    (ho : s.sf.order = some o) (fits : TableFits n o res t) (h : AtCursor s (sectionBits n o res t)) :
    resDecode s = .ok () { s with
      brPos := s.brPos + (sectionBits n o res t).length
      rc := s.rc.loaded t
      res := splice s.res 0 res } := by
  obtain ⟨hm, hp, whole, room, len, parts, lim, choices⟩ := fits
  rw [sectionBits, List.append_assoc] at h
  have second := h.behind
  have rest := second.behind
  have zipLen : ((partitions n o t.porder res).zip t.parts).length = 2 ^ t.porder := by
    rw [List.length_zip, partitions_length, parts, Nat.min_self]
  have firsts : ((partitions n o t.porder res).zip t.parts).map (·.1) = partitions n o t.porder res :=
    List.map_fst_zip (by rw [partitions_length, parts])
  have flat : ((partitions n o t.porder res).zip t.parts).flatMap (·.1) = res := by
    rw [List.flatMap_def, firsts, partitions_flatten whole room len]
  have run := readPartitions_atCursor hm ((partitions n o t.porder res).zip t.parts) 0 0
    { s with brPos := s.brPos + 2 + 4, rc := { s.rc with method := some t.method, porder := some t.porder } }
    (List.all_eq_true.1 choices)
    (fun x hx r hr => by
      have mem : r ∈ res := by rw [← flat]; exact List.mem_flatMap.2 ⟨x, hx, hr⟩
      have := lim r mem
      exact ⟨by unfold Config.residualMin; omega, by unfold Config.residualMax; omega⟩)
    (by rw [zipLen, ← partitions_map_length whole room len, ← firsts, List.map_map, firsts]; rfl)
    rest
  rw [zipLen, flat, List.map_snd_zip (by rw [partitions_length, parts])] at run
  have valid : porderValid n o t.porder := ⟨hp, whole, room⟩
  have head : readResHeader n o s = .ok (t.method, t.porder)
      { s with brPos := s.brPos + 2 + 4, rc := { s.rc with method := some t.method, porder := some t.porder } } := by
    rw [readResHeader, bind_ok (readU_atCursor (show t.method < 2 ^ 2 by omega) h.head),
      check_bind_true _ _ _ (show t.method < Config.riceMethodCount from Nat.lt_succ_of_le hm),
      bind_ok (readU_atCursor (show t.porder < 2 ^ 4 by omega) second.head), check_bind_true _ _ _ valid]
    rfl
  have geometry : blockGeometry s = .ok (n, o) s := by
    rw [blockGeometry, readReg_bind, hn, written_some_bind, readReg_bind, ho, written_some_bind, pure_run]
  rw [resDecode, bind_ok geometry]
  dsimp only
  rw [bind_ok head]
  dsimp only
  rw [run]
  simp only [sectionBits, List.length_append, natBits_length, Nat.add_assoc, RcRegs.loaded]

end Sys2Proof.Machine

/-! PROOFS. Prediction undone, and the fixed and LPC bodies (44_predictor.md R254 to R258). -/

namespace Sys2Proof.Machine

variable {s : State}

/-! ### Rows of the block in hand -/

theorem row_modify_same {rows : List (List Int)} {c : Nat} (h : c < rows.length) (f : List Int → List Int) :
    (rows.modify c f).getD c [] = f (rows.getD c []) := by
  simp [List.getD_eq_getElem?_getD, h]

theorem row_modify_other {rows : List (List Int)} {c d : Nat} (h : d ≠ c) (f : List Int → List Int) :
    (rows.modify c f).getD d [] = rows.getD d [] := by
  simp [List.getD_eq_getElem?_getD, Ne.symm h]

theorem readRow_ok {c n : Nat} (h : n ≤ (s.row c).length) : readRow c n s = .ok ((s.row c).take n) s := by
  rw [readRow, look_bind, readEntries_ok h]

theorem take_splice {α : Type} (l xs : List α) : (splice l 0 xs).take xs.length = xs := by
  rw [splice_zero, overwrite, List.take_left]

theorem length_splice {α : Type} (l xs : List α) : xs.length ≤ (splice l 0 xs).length := by
  simp [splice_zero, overwrite]

/-- A longer run over a shorter one. -/
theorem overwrite_splice {α : Type} (l : List α) {as bs : List α} (h : as.length ≤ bs.length) :
    overwrite (splice l 0 as) bs = splice l 0 bs := by
  rw [splice_zero, splice_zero, overwrite, overwrite, overwrite, List.drop_append, List.drop_eq_nil_of_le h, List.nil_append,
    List.drop_drop, Nat.add_sub_cancel' h]

/-! ### Prediction, undone -/

theorem restoreRun_residualRun (predict : List Int → Int) (hist xs : List Int) :
    restoreRun predict hist (residualRun predict hist xs) = xs := by
  induction xs generalizing hist with
  | nil => rfl
  | cons x xs ih => rw [residualRun, restoreRun, Int.sub_add_cancel, ih]

/-- The warm-up and the residual give the samples back (R272). -/
theorem restoreFrom_residualOf (predict : List Int → Int) (o : Nat) (xs : List Int) :
    xs.take o ++ restoreFrom predict (xs.take o) (residualOf predict o xs) = xs := by
  rw [restoreFrom, residualOf, restoreRun_residualRun, List.take_append_drop]

theorem residualRun_length (predict : List Int → Int) (hist xs : List Int) :
    (residualRun predict hist xs).length = xs.length := by
  induction xs generalizing hist with
  | nil => rfl
  | cons x xs ih => rw [residualRun, List.length_cons, List.length_cons, ih]

@[simp] theorem residualOf_length (predict : List Int → Int) (o : Nat) (xs : List Int) :
    (residualOf predict o xs).length = xs.length - o := by
  rw [residualOf, residualRun_length, List.length_drop]

section
variable {predict : List Int → Int} {o c : Nat} {xs old : List Int} {rows : List (List Int)} (hc : c < rows.length)
  (warm : s.smp = rows.modify c fun row => splice row 0 (xs.take o))

include warm in
/-- With no residual the warm-up is the block. -/
theorem warmup_whole (h : xs.length ≤ o) : s = { s with smp := rows.modify c fun row => splice row 0 xs } := by
  rw [List.take_of_length_le h] at warm
  rw [← warm]

include hc warm in
/-- A row from its warm-up and its residual (R257, R258). -/
theorem restoreRow_run (ho : o ≤ xs.length) (hres : s.res = splice old 0 (residualOf predict o xs)) :
    (do
      let warmup ← readRow c o
      let res ← look State.res
      let res ← readEntries res (xs.length - o)
      writeRow c (warmup ++ restoreFrom predict warmup res) : Op Unit) s =
      .ok () { s with smp := rows.modify c fun row => splice row 0 xs } := by
  have len : (xs.take o).length = o := List.length_take_of_le ho
  have row : s.row c = splice (rows.getD c []) 0 (xs.take o) := by rw [State.row, warm, row_modify_same hc]
  have start : (s.row c).take o = xs.take o := by
    have front := take_splice (rows.getD c []) (xs.take o)
    rwa [len, ← row] at front
  have long : o ≤ (s.row c).length := by
    have := length_splice (rows.getD c []) (xs.take o)
    rwa [← row, len] at this
  have left : s.res.take (xs.length - o) = residualOf predict o xs := by
    rw [hres, ← residualOf_length predict, take_splice]
  have enough : xs.length - o ≤ s.res.length := by
    rw [hres, ← residualOf_length predict]
    exact length_splice _ _
  rw [bind_ok (readRow_ok long), look_bind, readEntries_bind_ok _ _ enough, start, left, restoreFrom_residualOf, writeRow,
    update_run, warm, List.modify_modify_eq]
  congr 3
  funext row
  exact overwrite_splice _ (by omega)

variable (hn : s.fh.blocksize = some xs.length) (hch : s.sf.ch = some c) (ho : o ≤ xs.length) (hord : s.sf.order = some o)
include hc warm hn hch ho hord

/-- `FIXED_RESTORE` (R257) of a residual. -/
theorem fixedRestore_ok (htype : s.sf.type = some .fixed) (ho4 : o ≤ 4)
    (hres : s.res = splice old 0 (residualOf (fixedPredict o) o xs)) :
    fixedRestore s = .ok () { s with smp := rows.modify c fun row => splice row 0 xs } := by
  rw [fixedRestore, readReg_bind, hn, written_some_bind, readReg_bind, hch, written_some_bind, readReg_bind, htype,
    written_some_bind, readReg_bind, hord, written_some_bind, check_bind_true _ _ _ (by exact ⟨rfl, ho4⟩)]
  split
  next h => rw [← warmup_whole warm h, pure_run]
  next => exact restoreRow_run hc warm ho hres

/-- `LPC_RESTORE` (R258) of a residual. -/
theorem lpcRestore_ok {qs : List Int} {shift : Nat} (htype : s.sf.type = some .lpc) (h1 : 1 ≤ o) (h32 : o ≤ 32)
    (hshift : s.qlpShift = some shift) (hq : s.qlp.take o = qs) (hlen : o ≤ s.qlp.length)
    (hres : s.res = splice old 0 (residualOf (lpcPredict qs shift) o xs)) :
    lpcRestore s = .ok () { s with smp := rows.modify c fun row => splice row 0 xs } := by
  rw [lpcRestore, readReg_bind, hn, written_some_bind, readReg_bind, hch, written_some_bind, readReg_bind, htype,
    written_some_bind, readReg_bind, hord, written_some_bind, check_bind_true _ _ _ (by exact ⟨rfl, h1, h32⟩)]
  split
  next h => rw [← warmup_whole warm h, pure_run]
  next =>
    rw [bind_ok (readReg_some hshift), look_bind, readEntries_bind_ok _ _ hlen, hq]
    exact restoreRow_run hc warm ho hres

end

/-! ### The bodies of predicted subframes -/

/-- Coefficients that stand at the cursor (R255). -/
theorem readCoefs_atCursor (prec : Nat) : ∀ (qs : List Int) (j : Nat) (s : State),
    (∀ q ∈ qs, fitsS q prec) → AtCursor s (sampleBits prec qs) →
    readCoefs prec qs.length j s =
      .ok () { s with brPos := s.brPos + qs.length * prec, qlp := splice s.qlp j qs }
  | [], j, s, _, _ => by simp [readCoefs]
  | q :: qs, j, s, fits, h => by
    rw [sampleBits_cons] at h
    have rest := h.behind
    rw [List.length_cons, readCoefs, bind_ok (readS_atCursor (fits q (by simp)) h.head), update_bind]
    refine (readCoefs_atCursor prec qs (j + 1) _ (fun y hy => fits y (by simp [hy])) (by exact rest)).trans ?_
    simp only [splice_setAt, Nat.add_mul, Nat.one_mul, Nat.add_assoc, Nat.add_comm prec]

/-- The coefficient registers after a body's precision, shift and coefficients. -/
def State.withPredictor (s : State) (qs : List Int) (prec shift : Nat) : State :=
  { s with qlpPrec := some prec, qlpShift := some shift, qlp := splice s.qlp 0 qs }

/-- Precision, shift and coefficients (R255). -/
theorem readPredictor_atCursor {qs : List Int} {prec shift : Nat} (rest : Op Unit) (p1 : 1 ≤ prec) (p15 : prec ≤ 15)
    (hshift : shift ≤ 15) (coefs : ∀ q ∈ qs, fitsS q prec)
    (h : AtCursor s (natBits 4 (prec - 1) ++ (natBits 5 shift ++ sampleBits prec qs))) :
    (do
      let p ← readU Config.qlpPrecBits
      check (p < Config.qlpPrecMax) (.sync .subframeReserved)
      update fun s => { s with qlpPrec := some (p + 1) }
      let shift ← readS Config.qlpShiftBits
      check (0 ≤ shift) (.sync .subframeReserved)
      update fun s => { s with qlpShift := some shift.toNat }
      readCoefs (p + 1) qs.length 0
      rest : Op Unit) s =
      rest { s.withPredictor qs prec shift with brPos := s.brPos + 4 + 5 + qs.length * prec } := by
  have shiftAt := h.behind
  have coefsAt := shiftAt.behind
  have code : fitsS (shift : Int) 5 := ⟨by omega, by omega, by omega⟩
  have codeBits : natBits 5 shift = natBits 5 (tc 5 shift) := by
    rw [tc, Int.emod_eq_of_lt (by omega) (by omega), Int.toNat_natCast]
  rw [codeBits] at shiftAt
  have small : prec - 1 < 2 ^ Config.qlpPrecBits := by unfold Config.qlpPrecBits; omega
  have valid : prec - 1 < Config.qlpPrecMax := by unfold Config.qlpPrecMax Config.qlpPrecBits; omega
  rw [bind_ok (readU_atCursor small h.head), check_bind_true _ _ _ valid, update_bind,
    bind_ok (readS_atCursor (n := Config.qlpShiftBits) code (by exact shiftAt.head)),
    check_bind_true _ _ _ (Int.natCast_nonneg shift), update_bind, Nat.sub_add_cancel p1, Int.toNat_natCast]
  exact bind_ok (readCoefs_atCursor prec qs 0 _ coefs coefsAt)

/-- The bits behind samples, once these are consumed. -/
theorem AtCursor.behindSamples {b : Nat} {xs : List Int} {rest : List Bool} (h : AtCursor s (sampleBits b xs ++ rest)) :
    AtCursor { s with brPos := s.brPos + xs.length * b } rest := by
  have rest := h.tail
  rwa [sampleBits_length] at rest

section
variable {c b o : Nat} {xs : List Int} {t : PartTable} (hn : s.fh.blocksize = some xs.length) (hch : s.sf.ch = some c)
  (hb : s.sf.bps = some b) (hord : s.sf.order = some o) (hc : c < s.smp.length) (ho : o ≤ xs.length)
  (fits : ∀ x ∈ xs.take o, fitsS x b)
include hn hch hb hord hc ho fits

/-- `SF_DEC_FIXED` (R254). -/
theorem sfDecFixed_atCursor (htype : s.sf.type = some .fixed) (ho4 : o ≤ 4)
    (table : TableFits xs.length o (residualOf (fixedPredict o) o xs) t)
    (h : AtCursor s (sampleBits b (xs.take o) ++ sectionBits xs.length o (residualOf (fixedPredict o) o xs) t)) :
    sfDecFixed s = .ok () { s with
      brPos := s.brPos +
        (sampleBits b (xs.take o) ++ sectionBits xs.length o (residualOf (fixedPredict o) o xs) t).length
      rc := s.rc.loaded t
      res := splice s.res 0 (residualOf (fixedPredict o) o xs)
      smp := s.smp.modify c fun row => splice row 0 xs } := by
  have rest := h.behindSamples
  have warm := readSamples_atCursor c b (xs.take o) 0 s fits h.head
  rw [List.length_take_of_le ho] at warm rest
  rw [sfDecFixed, readReg_bind, hn, written_some_bind, readReg_bind, hch, written_some_bind, readReg_bind, hb,
    written_some_bind, readReg_bind, hord, written_some_bind, check_bind_true _ _ _ ho, bind_ok warm,
    bind_ok (resDecode_atCursor (by exact hn) (by exact hord) table (by exact rest))]
  refine (fixedRestore_ok hc (by rfl) (by exact hn) (by exact hch) ho (by exact hord) (by exact htype) ho4 (by rfl)).trans ?_
  simp only [List.length_append, sampleBits_length, List.length_take_of_le ho, Nat.add_assoc]

/-- `SF_DEC_LPC` (R255). -/
theorem sfDecLpc_atCursor {qs : List Int} {prec shift : Nat} (htype : s.sf.type = some .lpc) (hq : o = qs.length) (h1 : 1 ≤ o)
    (h32 : o ≤ 32) (p1 : 1 ≤ prec) (p15 : prec ≤ 15) (hshift : shift ≤ 15) (coefs : ∀ q ∈ qs, fitsS q prec)
    (table : TableFits xs.length o (residualOf (lpcPredict qs shift) o xs) t)
    (h : AtCursor s (sampleBits b (xs.take o) ++ (natBits 4 (prec - 1) ++ (natBits 5 shift ++ sampleBits prec qs) ++
      sectionBits xs.length o (residualOf (lpcPredict qs shift) o xs) t))) :
    sfDecLpc s = .ok () { s.withPredictor qs prec shift with
      brPos := s.brPos + (sampleBits b (xs.take o) ++ (natBits 4 (prec - 1) ++ (natBits 5 shift ++ sampleBits prec qs) ++
        sectionBits xs.length o (residualOf (lpcPredict qs shift) o xs) t)).length
      rc := s.rc.loaded t
      res := splice s.res 0 (residualOf (lpcPredict qs shift) o xs)
      smp := s.smp.modify c fun row => splice row 0 xs } := by
  have warm := readSamples_atCursor c b (xs.take o) 0 s fits h.head
  have predictor := h.behindSamples
  have sectionAt := predictor.tail
  simp only [List.length_append, natBits_length, sampleBits_length, ← Nat.add_assoc] at sectionAt
  rw [List.length_take_of_le ho] at warm predictor sectionAt
  subst hq
  rw [sfDecLpc, bind_ok (readReg_some hn), bind_ok (readReg_some hch), bind_ok (readReg_some hb), bind_ok (readReg_some hord),
    check_bind_true _ _ _ ho, bind_ok warm, readPredictor_atCursor _ p1 p15 hshift coefs (by exact predictor.head),
    bind_ok (resDecode_atCursor (by exact hn) (by exact hord) table (by exact sectionAt))]
  refine (lpcRestore_ok hc (by rfl) (by exact hn) (by exact hch) ho (by exact hord) (by exact htype) h1 h32 (by rfl)
    (by exact take_splice _ _) (by exact length_splice _ _) (by rfl)).trans ?_
  simp only [List.length_append, sampleBits_length, natBits_length, List.length_take_of_le ho, Nat.add_assoc]
  rfl

end
end Sys2Proof.Machine

/-! PROOFS. `SF_DEC` over the bits of a form, and its refusals (44_predictor.md R251, R259). -/

namespace Sys2Proof.Machine

variable {s : State}

/-! ### The subframe header -/

/-- The type bits and the wasted-bit count (R251). -/
theorem subframeHead_atCursor {α : Type} {t w : Nat} (rest : Nat → Nat → Op α) (ht : t < 2 ^ 6)
    (h : AtCursor s (sfHeaderBits t w)) :
    (sfHeader >>= fun x => readWasted x.2 >>= fun w => rest x.1 w) s =
      rest t w { s with brPos := s.brPos + (sfHeaderBits t w).length } := by
  rw [sfHeaderBits, List.append_assoc] at h
  have typeAt := h.behind
  have flagAt := typeAt.behind
  have head : ∀ flag < 2 ^ 1, AtCursor { s with brPos := s.brPos + 1 + 6 } (natBits 1 flag) →
      sfHeader s = .ok (t, flag) { s with brPos := s.brPos + 1 + 6 + 1 } := fun flag small there => by
    rw [sfHeader, bind_ok (readU_atCursor (by decide) h.head), check_bind_true _ _ _ rfl,
      bind_ok (readU_atCursor ht (by exact typeAt.head)), bind_ok (readU_atCursor small (by exact there)), pure_run]
  by_cases w0 : w = 0
  · subst w0
    rw [bind_ok (head 0 (by decide) flagAt)]
    rfl
  · rw [if_neg w0] at flagAt
    have count := flagAt.behind
    have wasted : readWasted 1 { s with brPos := s.brPos + 1 + 6 + 1 } =
        .ok w { s with brPos := s.brPos + 1 + 6 + 1 + (w - 1 + 1) } := by
      rw [readWasted, if_pos rfl, check_bind_true _ _ _ (show Config.wastedBits = true from rfl),
        bind_ok (readUnary_atCursor count), pure_run, Nat.sub_add_cancel (by omega)]
    rw [bind_ok (head 1 (by decide) flagAt.head), bind_ok wasted]
    simp only [sfHeaderBits, if_neg w0, List.length_append, natBits_length, unaryBits_length, Nat.add_assoc]

theorem setSfType_ok {t o : Nat} {type : SfType} (h : sfTypeOf t = some (type, o)) :
    setSfType t s = .ok type { s with sf := { s.sf with type := some type, order := some o } } := by
  rw [setSfType, h]
  rfl

theorem setSfType_reserved {t : Nat} (h : (2 ≤ t ∧ t ≤ 7) ∨ (13 ≤ t ∧ t ≤ 31)) :
    setSfType t s = .error (.exc (.sync .subframeReserved)) s := by
  have none : sfTypeOf t = none := by
    rw [sfTypeOf, if_neg (by omega), if_neg (by omega), if_neg (by omega), if_neg (by omega)]
  rw [setSfType, none]
  rfl

/-! ### A subframe of each form -/

/-- The six type bits of a form (30_encoding.md R121). -/
def SubframeForm.code : SubframeForm → Nat
  | .constant => 0
  | .verbatim => 1
  | .fixed o _ => 8 + o
  | .lpc qs _ _ _ => 32 + (qs.length - 1)

/-- The bits of a subframe behind its header. -/
def SubframeForm.body (b : Nat) (xs : List Int) (f : SubframeForm) : List Bool :=
  match f with
  | .constant => natBits b (tc b (xs.headD 0))
  | .verbatim => sampleBits b xs
  | .fixed o t => sampleBits b (xs.take o) ++ sectionBits xs.length o (f.residual xs) t
  | .lpc qs prec shift t =>
    sampleBits b (xs.take qs.length) ++ (natBits 4 (prec - 1) ++ (natBits 5 shift ++ sampleBits prec qs) ++
      sectionBits xs.length qs.length (f.residual xs) t)

/-- The registers that a form's body writes beside the samples. -/
def SubframeForm.load (xs : List Int) (f : SubframeForm) (s : State) : State :=
  match f with
  | .constant | .verbatim => s
  | .fixed _ t => { s with rc := s.rc.loaded t, res := splice s.res 0 (f.residual xs) }
  | .lpc qs prec shift t =>
    { s.withPredictor qs prec shift with rc := s.rc.loaded t, res := splice s.res 0 (f.residual xs) }

section
variable {f : SubframeForm} {xs : List Int} {b w : Nat}

theorem SubframeForm.bits_eq : f.bits b w xs = sfHeaderBits f.code w ++ f.body b xs := by
  cases f <;> simp only [bits, code, body, List.append_assoc]

theorem SubframeForm.code_lt (h : f.Carries b xs) : f.code < 2 ^ 6 := by
  cases f with
  | constant | verbatim => decide
  | fixed o t =>
    obtain ⟨o4, _⟩ := h
    show 8 + o < 2 ^ 6
    omega
  | lpc qs prec shift t =>
    obtain ⟨_, o32, _⟩ := h
    show 32 + (qs.length - 1) < 2 ^ 6
    omega

theorem SubframeForm.sfTypeOf_code (h : f.Carries b xs) : sfTypeOf f.code = some (f.type, f.order) := by
  cases f with
  | constant | verbatim => rfl
  | fixed o t =>
    obtain ⟨o4, _⟩ := h
    rw [code, sfTypeOf, if_neg (by omega), if_neg (by omega), if_pos (by omega), Nat.add_sub_cancel_left]
    rfl
  | lpc qs prec shift t =>
    obtain ⟨o1, _⟩ := h
    rw [code, sfTypeOf, if_neg (by omega), if_neg (by omega), if_neg (by omega), if_pos (by omega),
      show 32 + (qs.length - 1) - 31 = qs.length by omega]
    rfl

variable {c : Nat} (hn : s.fh.blocksize = some xs.length) (hch : s.sf.ch = some c) (hb : s.sf.bps = some b)
  (hc : c < s.smp.length) (carries : f.Carries b xs)
include hn hch hb hc carries

/-- The body of a form leaves its samples in the channel. -/
theorem sfBody_atCursor (htype : s.sf.type = some f.type) (hord : s.sf.order = some f.order)
    (h : AtCursor s (f.body b xs)) :
    sfBody f.type s = .ok () { f.load xs s with
      brPos := s.brPos + (f.body b xs).length
      smp := s.smp.modify c fun row => splice row 0 xs } := by
  cases f with
  | constant =>
    obtain ⟨same, fits⟩ := carries
    have all : List.replicate xs.length (xs.headD 0) = xs := (List.eq_replicate_of_mem same).symm
    have run := sfDecConstant_atCursor hn hch hb fits h
    rw [all] at run
    refine run.trans ?_
    simp only [SubframeForm.load, SubframeForm.body, natBits_length, splice_zero]
  | verbatim =>
    refine ((sfDecVerbatim_run hn hch hb).trans (readSamples_atCursor c b xs 0 s carries h)).trans ?_
    simp only [SubframeForm.load, SubframeForm.body, sampleBits_length]
  | fixed o t =>
    obtain ⟨o4, on, fits, table⟩ := carries
    exact sfDecFixed_atCursor hn hch hb hord hc on fits htype o4 table h
  | lpc qs prec shift t =>
    obtain ⟨o1, o32, on, p1, p15, s15, coefs, fits, table⟩ := carries
    exact sfDecLpc_atCursor hn hch hb hord hc on fits htype rfl o1 o32 p1 p15 s15 coefs table h

end

/-! ### The end of a subframe (R259) -/

theorem finishRow_length (b w : Nat) (xs : List Int) : (finishRow b w xs).1.length = xs.length := by
  induction xs with
  | nil => rfl
  | cons x xs ih =>
    rw [finishRow]
    split
    · rw [List.length_cons, ih, List.length_cons]
    · rfl

theorem finishRow_fits {b : Nat} (w : Nat) {xs : List Int} (h : ∀ x ∈ xs, fitsS x b) :
    finishRow b w xs = (xs.map (· * 2 ^ w), true) := by
  induction xs with
  | nil => rfl
  | cons x xs ih =>
    rw [List.forall_mem_cons] at h
    rw [finishRow, if_pos h.1, ih h.2]
    rfl

theorem finishRow_unfit {b : Nat} (w : Nat) {xs : List Int} (h : ∃ x ∈ xs, ¬ fitsS x b) : (finishRow b w xs).2 = false := by
  induction xs with
  | nil => simp at h
  | cons x xs ih =>
    rw [finishRow]
    split
    next fits =>
      rw [List.exists_mem_cons_iff] at h
      exact ih (h.resolve_left fun bad => bad fits)
    next => rfl

/-- `finish_subframe` over the samples in the channel. -/
theorem finishSubframe_run {c b w : Nat} {xs : List Int} {rows : List (List Int)} (hc : c < rows.length)
    (h : s.smp = rows.modify c fun row => splice row 0 xs) :
    finishSubframe c xs.length b w s = check ((finishRow b w xs).2 = true) (.sync .rangeError)
      { s with smp := rows.modify c fun row => splice row 0 (finishRow b w xs).1 } := by
  have row : s.row c = splice (rows.getD c []) 0 xs := by rw [State.row, h, row_modify_same hc]
  have start := take_splice (rows.getD c []) xs
  have long := length_splice (rows.getD c []) xs
  rw [← row] at start long
  have rows' : (s.smp.modify c fun row => overwrite row (finishRow b w xs).1) =
      rows.modify c fun row => splice row 0 (finishRow b w xs).1 := by
    rw [h, List.modify_modify_eq]
    congr 1
    funext row
    exact overwrite_splice row (finishRow_length b w xs).ge
  rw [finishSubframe, bind_ok (readRow_ok long), start, writeRow, update_bind, rows']

/-! ### `SF_DEC` -/

/-- `SF_DEC` behind the type bits `t` and the count `w` of wasted bits (R251). -/
def subframeOf (c n depth t w : Nat) : Op Unit := do
  check (w < depth) (.sync .subframeReserved)
  update fun s => { s with sf := { s.sf with ch := some c, wasted := some w, bps := some (depth - w) } }
  let type ← setSfType t
  sfBody type
  finishSubframe c n (depth - w) w

/-- A header that is not validated. -/
theorem sfDec_unwritten {c : Nat} (h : s.fh.valid = false) : sfDec c s = .error (.exc (.logic .unwrittenState)) s := by
  rw [sfDec, look_bind, h]
  exact check_bind_false _ _ _ (by decide)

section
variable {n c w b ch ca fb depth : Nat} (valid : s.fh.valid = true) (hch : s.fh.channels = some ch)
include valid hch

theorem sfDec_badOperand (h : ch ≤ c) : sfDec c s = .error (.exc (.logic .badOperand)) s := by
  rw [sfDec, look_bind, check_bind_true _ _ _ valid, bind_ok (readReg_some hch)]
  exact check_bind_false _ _ _ (by omega)

variable (hn : s.fh.blocksize = some n) (hfb : s.fh.bps = some fb) (hca : s.fh.chanAssign = some ca)
  (hd : depth = fb + sideBit ca c) (h : c < ch)
include hn hfb hca hd h

/-- With its registers there `SF_DEC` reads the header. -/
theorem sfDec_run :
    sfDec c s = (sfHeader >>= fun x => readWasted x.2 >>= fun w => subframeOf c n depth x.1 w : Op Unit) s := by
  subst hd
  rw [sfDec, look_bind, check_bind_true _ _ _ valid, bind_ok (readReg_some hch), check_bind_true _ _ _ h,
    bind_ok (readReg_some hn), bind_ok (readReg_some hfb), bind_ok (readReg_some hca)]
  rfl

/-- The padding bit is set. -/
theorem sfDec_padding (bit : AtCursor s [true]) :
    sfDec c s = .error (.exc (.sync .subframeReserved)) { s with brPos := s.brPos + 1 } := by
  have one : readU 1 s = .ok 1 { s with brPos := s.brPos + 1 } := readU_atCursor (by decide) bit
  rw [sfDec_run valid hch hn hfb hca hd h, sfHeader]
  exact bind_error ((bind_ok one).trans (check_bind_false _ _ _ (by decide)))

theorem sfDec_lacks (lacks : Lacks s 1) : sfDec c s = .error s.want s := by
  have none : readU 1 s = .error s.want s := by
    rw [readU_eq_readBits (Nat.le_refl 1) (by decide)]
    exact readBits_lacks lacks
  rw [sfDec_run valid hch hn hfb hca hd h, sfHeader]
  exact bind_error (bind_error none)

/-- As many wasted bits as the depth has, or more. -/
theorem sfDec_wasted {t : Nat} (ht : t < 2 ^ 6) (bits : AtCursor s (sfHeaderBits t w)) (big : depth ≤ w) :
    sfDec c s = .error (.exc (.sync .subframeReserved)) { s with brPos := s.brPos + (sfHeaderBits t w).length } := by
  rw [sfDec_run valid hch hn hfb hca hd h, subframeHead_atCursor _ ht bits, subframeOf]
  exact check_bind_false _ _ _ (by omega)

theorem sfDec_reservedType {t : Nat} (ht : t < 2 ^ 6) (bits : AtCursor s (sfHeaderBits t w)) (small : w < depth)
    (res : (2 ≤ t ∧ t ≤ 7) ∨ (13 ≤ t ∧ t ≤ 31)) :
    ∃ u, sfDec c s = .error (.exc (.sync .subframeReserved)) u ∧ u.brPos = s.brPos + (sfHeaderBits t w).length ∧
      u.smp = s.smp := by
  rw [sfDec_run valid hch hn hfb hca hd h, subframeHead_atCursor _ ht bits, subframeOf,
    check_bind_true _ _ _ small, update_bind]
  exact ⟨_, bind_error (setSfType_reserved res), rfl, rfl⟩

end

/-- The subframe registers of a form, in channel `c` (R251). -/
def State.withSubframe (s : State) (f : SubframeForm) (c b w : Nat) : State :=
  { s with sf := ⟨some f.type, some f.order, some w, some b, some c⟩ }

/-- What `SF_DEC` has written when it holds the samples of a form against their depth. -/
def SubframeForm.decoded (f : SubframeForm) (c b w : Nat) (xs : List Int) (s : State) : State :=
  { f.load xs (s.withSubframe f c b w) with
    brPos := s.brPos + (f.bits b w xs).length
    smp := s.smp.modify c fun row => splice row 0 (finishRow b w xs).1 }

section
variable {f : SubframeForm} {xs : List Int} {c b w : Nat}

/-- Behind the header `SF_DEC` reads the body of the form. -/
theorem subframeOf_form (hn : s.fh.blocksize = some xs.length) (hc : c < s.smp.length) (b1 : 1 ≤ b)
    (carries : f.Carries b xs) (bits : AtCursor s (f.body b xs)) :
    subframeOf c xs.length (b + w) f.code w s = check ((finishRow b w xs).2 = true) (.sync .rangeError)
      { f.load xs (s.withSubframe f c b w) with
        brPos := s.brPos + (f.body b xs).length
        smp := s.smp.modify c fun row => splice row 0 (finishRow b w xs).1 } := by
  have type := SubframeForm.sfTypeOf_code carries
  have body := sfBody_atCursor (s := s.withSubframe f c b w) hn rfl rfl hc carries rfl rfl bits
  rw [subframeOf, check_bind_true _ _ _ (by omega), update_bind, bind_ok (setSfType_ok type), Nat.add_sub_cancel]
  exact (bind_ok body).trans (finishSubframe_run hc rfl)

/-- `SF_DEC` of the bits of a form (R251). -/
theorem sfDec_form {ch ca fb : Nat} (valid : s.fh.valid = true) (hch : s.fh.channels = some ch)
    (hn : s.fh.blocksize = some xs.length) (hfb : s.fh.bps = some fb) (hca : s.fh.chanAssign = some ca)
    (hd : b + w = fb + sideBit ca c) (h : c < ch) (hc : c < s.smp.length) (b1 : 1 ≤ b) (carries : f.Carries b xs)
    (bits : AtCursor s (f.bits b w xs)) :
    sfDec c s = check ((finishRow b w xs).2 = true) (.sync .rangeError) (f.decoded c b w xs s) := by
  have code := SubframeForm.code_lt carries
  rw [SubframeForm.bits_eq] at bits
  have body := subframeOf_form (s := { s with brPos := s.brPos + (sfHeaderBits f.code w).length }) (w := w) hn hc b1 carries
    bits.tail
  rw [sfDec_run valid hch hn hfb hca hd h, subframeHead_atCursor _ code bits.head, body]
  rw [SubframeForm.decoded, SubframeForm.bits_eq, List.length_append, ← Nat.add_assoc]
  cases f <;> rfl

@[simp] theorem SubframeForm.load_sf : (f.load xs s).sf = s.sf := by cases f <;> rfl

theorem SubframeForm.decoded_row (hc : c < s.smp.length) :
    ((f.decoded c b w xs s).row c).take xs.length = (finishRow b w xs).1 := by
  rw [State.row, decoded, row_modify_same hc, ← finishRow_length b w xs, take_splice]

/-- Samples that fit get their wasted bits back (R259). -/
theorem SubframeForm.decoded_row_fits (hc : c < s.smp.length) (fits : ∀ x ∈ xs, fitsS x b) :
    ((f.decoded c b w xs s).row c).take xs.length = xs.map (· * 2 ^ w) := by
  rw [decoded_row hc, finishRow_fits w fits]

theorem SubframeForm.decoded_row_other {d : Nat} (h : d ≠ c) : (f.decoded c b w xs s).row d = s.row d := by
  rw [State.row, decoded, row_modify_other h]

/-- Nothing else changes. -/
theorem SubframeForm.decoded_frame (reply : Option Reply) :
    { { f.decoded c b w xs s with reply := reply } with
      brPos := s.brPos, smp := s.smp, rc := s.rc, res := s.res, sf := s.sf, qlp := s.qlp, qlpPrec := s.qlpPrec
      qlpShift := s.qlpShift, reply := s.reply } = s := by
  cases s
  cases f <;> rfl

end

/-! ### Issued by the host -/

section
variable {c : Nat} {t : State} (live : s.faulted = false) (mode : s.mode ≠ .encode)
include live mode

theorem exec_sfDec_ok (h : sfDec c s = .ok () t) : Answers (exec (.sfDec c) s) t .none := by
  refine issue_ok live ?_
  rw [bind_ok (notEncode_ok mode)]
  exact bind_ok (by rw [leaving, h])

/-- An exception leaves the cursor and the samples (R251). -/
theorem exec_sfDec_exc {e : Exc} (h : sfDec c s = .error (.exc e) t) :
    exec (.sfDec c) s = .next (s.takeException { s with brPos := t.brPos, smp := t.smp } .read e) := by
  refine issue_exc live ?_
  rw [bind_ok (notEncode_ok mode)]
  exact bind_error (by rw [leaving, h])

theorem exec_sfDec_starves (h : sfDec c s = .error s.want s) : Starves (exec (.sfDec c) s) s := by
  constructor <;> intro e <;> rw [State.want, e] at h
  · refine issue_hold (t := s) live ?_
    rw [bind_ok (notEncode_ok mode)]
    exact bind_error (by rw [leaving, h]; rfl)
  · exact exec_sfDec_exc live mode h

end
end Sys2Proof.Machine

/-! PROOFS. What the four writing operations have written is the subframe of a form (44_predictor.md R267 to R270):
the operations that have answered, taken apart. -/

namespace Sys2Proof.Machine

variable {α β : Type} {s t : State}

/-! ### An operation that has answered, taken apart -/

theorem of_bind_ok {x : Op α} {f : α → Op β} {b : β} (h : (x >>= f) s = .ok b t) :
    ∃ a u, x s = .ok a u ∧ f a u = .ok b t := by
  rw [bind_run] at h
  cases e : x s with
  | ok a u => rw [e] at h; exact ⟨a, u, rfl, h⟩
  | error e' u => rw [e] at h; cases h

theorem of_check_ok {c : Prop} [Decidable c] {e : Exc} {a : Unit} (h : check c e s = .ok a t) : c ∧ s = t := by
  unfold check at h
  split at h
  next hc => cases h; exact ⟨hc, rfl⟩
  next => cases h

theorem of_check_bind_ok {c : Prop} [Decidable c] {e : Exc} {f : Unit → Op β} {b : β}
    (h : (check c e >>= f) s = .ok b t) : c ∧ f () s = .ok b t := by
  obtain ⟨_, u, hc, hf⟩ := of_bind_ok h
  obtain ⟨holds, rfl⟩ := of_check_ok hc
  exact ⟨holds, hf⟩

theorem of_written_ok {r : Reg α} {v : α} (h : written r s = .ok v t) : r = some v ∧ s = t := by
  cases r with
  | none => cases h
  | some w => cases h; exact ⟨rfl, rfl⟩

theorem of_readReg_bind_ok {g : State → Reg α} {f : α → Op β} {b : β} (h : (readReg g >>= f) s = .ok b t) :
    ∃ v, g s = some v ∧ f v s = .ok b t := by
  obtain ⟨v, u, hv, hf⟩ := of_bind_ok h
  obtain ⟨some, rfl⟩ := of_written_ok hv
  exact ⟨v, some, hf⟩

theorem of_readEntries_ok {l as : List α} {n : Nat} (h : readEntries l n s = .ok as t) :
    n ≤ l.length ∧ as = l.take n ∧ s = t := by
  unfold readEntries at h
  split at h
  next le => cases h; exact ⟨le, rfl, rfl⟩
  next => cases h

theorem of_readEntries_bind_ok {l : List α} {n : Nat} {f : List α → Op β} {b : β}
    (h : (readEntries l n >>= f) s = .ok b t) : n ≤ l.length ∧ f (l.take n) s = .ok b t := by
  obtain ⟨as, u, hv, hf⟩ := of_bind_ok h
  obtain ⟨le, rfl, rfl⟩ := of_readEntries_ok hv
  exact ⟨le, hf⟩

/-- A check of each element in turn. -/
theorem of_forEach_ok {f : α → Op Unit} {P : α → Prop} (each : ∀ a s t, f a s = .ok () t → s = t ∧ P a) :
    ∀ (l : List α) (s t : State), forEach f l s = .ok () t → s = t ∧ ∀ a ∈ l, P a
  | [], s, t, h => by cases h; exact ⟨rfl, by simp⟩
  | a :: rest, s, t, h => by
    obtain ⟨_, u, ha, hrest⟩ := of_bind_ok h
    obtain ⟨rfl, holds⟩ := each a s u ha
    obtain ⟨rfl, others⟩ := of_forEach_ok each rest _ t hrest
    exact ⟨rfl, List.forall_mem_cons.2 ⟨holds, others⟩⟩

/-- An operation of the host that has answered. -/
theorem of_answerOf {i : Instr} {side : Side} {m : Op Unit} {r : Result} (live : s.faulted = false)
    (he : exec i s = issue side (do m; pure .none) s) (h : answerOf i s = some (r, t)) :
    ∃ u, m s = .ok () u ∧ t.out = u.out := by
  rw [answerOf, he] at h
  cases e : m s with
  | ok a u =>
    have run : (do m; pure .none : Op Result) s = .ok .none u := bind_ok e
    rw [issue_ok live run] at h
    cases h
    exact ⟨u, rfl, rfl⟩
  | error x u =>
    have stop : (do m; pure .none : Op Result) s = .error x u := bind_error e
    cases x with
    | hold => rw [issue_hold live stop] at h; cases h
    | exc e => rw [issue_exc live stop] at h; cases h
    | issued l =>
      rw [issue_issued live stop] at h
      cases mode : s.mode <;> simp [State.sequencerFailed, State.takeException, mode] at h

/-! ### The residual section that was written -/

theorem of_blockGeometry_ok {a : Nat × Nat} (h : blockGeometry s = .ok a t) :
    s.fh.blocksize = some a.1 ∧ s.sf.order = some a.2 ∧ s = t := by
  obtain ⟨n, hn, h⟩ := of_readReg_bind_ok h
  obtain ⟨o, ho, h⟩ := of_readReg_bind_ok h
  cases h
  exact ⟨hn, ho, rfl⟩

theorem of_entryChoice_ok {e : RcEntry} {c : PartChoice} (h : entryChoice e s = .ok c t) : e.choice = some c ∧ s = t := by
  unfold entryChoice at h
  unfold RcEntry.choice
  split at h
  next esc =>
    obtain ⟨nb, u, hw, h⟩ := of_bind_ok h
    obtain ⟨raw, rfl⟩ := of_written_ok hw
    cases h
    simp [esc, raw]
  next rice =>
    obtain ⟨k, u, hw, h⟩ := of_bind_ok h
    obtain ⟨param, rfl⟩ := of_written_ok hw
    cases h
    simp [rice, param]

theorem of_entryChoices_ok : ∀ (es : List RcEntry) (cs : List PartChoice) (s t : State),
    entryChoices es s = .ok cs t → es.map RcEntry.choice = cs.map some ∧ s = t
  | [], cs, s, t, h => by cases h; exact ⟨rfl, rfl⟩
  | e :: es, cs, s, t, h => by
    obtain ⟨c, u, hc, h⟩ := of_bind_ok h
    obtain ⟨first, rfl⟩ := of_entryChoice_ok hc
    obtain ⟨cs', u', hcs, h⟩ := of_bind_ok h
    obtain ⟨others, rfl⟩ := of_entryChoices_ok es cs' _ _ hcs
    cases h
    exact ⟨by rw [List.map_cons, List.map_cons, first, others], rfl⟩

theorem of_checkChoice_ok {m : Nat} {x : List Int × PartChoice} (h : checkChoice m x s = .ok () t) :
    s = t ∧ ((∀ nb, x.2 = .esc nb → nb ≤ Config.escWidthMax) → choiceFits m x.1 x.2 = true) := by
  obtain ⟨run, c⟩ := x
  cases c with
  | rice k =>
    obtain ⟨le, rfl⟩ := of_check_ok h
    exact ⟨rfl, fun _ => decide_eq_true le⟩
  | esc nb =>
    obtain ⟨each, rfl⟩ := of_check_ok h
    refine ⟨rfl, fun width => ?_⟩
    rw [choiceFits, Bool.and_eq_true, decide_eq_true_iff, List.all_eq_true]
    exact ⟨width nb rfl, each⟩

/-- The raw widths that registers in range stand for are within range. -/
theorem escWidth_le {rc : RcRegs} (range : rc.InWidth) {k : Nat} {cs : List PartChoice}
    (h : (rc.table.take k).map RcEntry.choice = cs.map some) {nb : Nat} (mem : PartChoice.esc nb ∈ cs) :
    nb ≤ Config.escWidthMax := by
  obtain ⟨_, _, _, entries⟩ := range
  have : some (PartChoice.esc nb) ∈ (rc.table.take k).map RcEntry.choice := by
    rw [h]
    exact List.mem_map_of_mem mem
  obtain ⟨e, he, choice⟩ := List.mem_map.1 this
  obtain ⟨_, raw⟩ := entries e (List.mem_of_mem_take he)
  have width : e.raw = some nb := by
    unfold RcEntry.choice at choice
    split at choice <;> simp_all
  exact Nat.le_of_lt_succ (raw nb width)

/-- `RES_ENCODE` (R289) has written the section of a table that fits the residual. -/
theorem of_resEncode_ok {n o k : Nat} (hn : s.fh.blocksize = some n) (ho : s.sf.order = some o) (range : s.rc.InWidth)
    (h : resEncode s = .ok k t) :
    ∃ table, TableFits n o (s.res.take (n - o)) table ∧
      t.out = s.out ++ sectionBits n o (s.res.take (n - o)) table := by
  obtain ⟨⟨n', o'⟩, u, geometry, h⟩ := of_bind_ok h
  obtain ⟨hn', ho', rfl⟩ := of_blockGeometry_ok geometry
  cases hn.symm.trans hn'
  cases ho.symm.trans ho'
  obtain ⟨p, _, h⟩ := of_readReg_bind_ok h
  obtain ⟨⟨p8, whole, room⟩, h⟩ := of_check_bind_ok h
  obtain ⟨m, hm, h⟩ := of_readReg_bind_ok h
  rw [look_bind] at h
  obtain ⟨enough, h⟩ := of_readEntries_bind_ok h
  obtain ⟨parts, u, choices, h⟩ := of_bind_ok h
  obtain ⟨entries, rfl⟩ := of_entryChoices_ok _ _ _ _ choices
  rw [look_bind] at h
  obtain ⟨there, h⟩ := of_readEntries_bind_ok h
  obtain ⟨_, u, checks, h⟩ := of_bind_ok h
  obtain ⟨rfl, each⟩ := of_forEach_ok (f := checkChoice m) (fun _ _ _ => of_checkChoice_ok) _ _ _ checks
  obtain ⟨lim, h⟩ := of_check_bind_ok h
  rw [emit_bind] at h
  cases h
  have m1 : m ≤ 1 := Nat.le_of_lt_succ (range.1 m hm)
  have count : parts.length = 2 ^ p := by
    rw [← List.length_map (f := some), ← entries, List.length_map, List.length_take_of_le enough]
  refine ⟨⟨m, p, parts⟩, ⟨m1, p8, whole, room, List.length_take_of_le there, count, fun r hr => ?_, ?_⟩, rfl⟩
  · obtain ⟨low, high⟩ := lim r hr
    unfold Config.residualMin at low
    unfold Config.residualMax at high
    omega
  · rw [List.all_eq_true]
    intro x hx
    refine each x hx fun nb e => escWidth_le range entries ?_
    rw [← e]
    exact (List.of_mem_zip hx).2

/-! ### The subframe that was written -/

/-- The state with these bits appended to `W`. -/
def State.appendOut (s : State) (bits : List Bool) : State := { s with out := s.out ++ bits }

theorem State.appendOut_appendOut (s : State) (as bs : List Bool) :
    (s.appendOut as).appendOut bs = s.appendOut (as ++ bs) := by
  simp only [appendOut, List.append_assoc]

theorem emit_appendOut (bits : List Bool) (s : State) : emit bits s = .ok () (s.appendOut bits) := rfl

theorem writeU_appendOut {n v : Nat} (h1 : 1 ≤ n) (fits : v < 2 ^ n) (s : State) :
    writeU n v s = .ok () (s.appendOut (natBits n v)) := writeU_ok h1 fits s

/-- A signed field of a number that is not negative. -/
theorem writeS_natCast_appendOut {n v : Nat} (fits : v < 2 ^ (n - 1)) (n1 : 1 ≤ n) (s : State) :
    writeS n v s = .ok () (s.appendOut (natBits n v)) := by
  obtain ⟨m, rfl⟩ : ∃ m, n = m + 1 := ⟨n - 1, by omega⟩
  have cast : (v : Int) < 2 ^ m := by exact_mod_cast fits
  have twice : (2 : Int) ^ (m + 1) = 2 * 2 ^ m := by ring
  have same : tc (m + 1) v = v := by
    rw [tc, Int.emod_eq_of_lt (by omega) (by omega), Int.toNat_natCast]
  have run := writeS_ok (n := m + 1) (v := v) ⟨n1, by rw [Nat.add_sub_cancel]; omega, cast⟩ s
  rwa [same] at run

theorem writeSamples_ok (b : Nat) : ∀ (xs : List Int) (s : State), (∀ x ∈ xs, fitsS x b) →
    writeSamples b xs s = .ok () (s.appendOut (sampleBits b xs))
  | [], s, _ => by simp [writeSamples, forEach, sampleBits, State.appendOut]
  | x :: xs, s, fits => by
    rw [List.forall_mem_cons] at fits
    rw [writeSamples, forEach, bind_ok (writeS_ok fits.1 s)]
    refine (writeSamples_ok b xs _ fits.2).trans ?_
    rw [sampleBits_cons]
    exact congrArg (EStateM.Result.ok ()) (State.appendOut_appendOut s _ _)

/-- The state with this residual in `RES`. -/
def State.withResidual (s : State) (res : List Int) : State := { s with res := overwrite s.res res }

theorem State.withResidual_take (s : State) (res : List Int) : (s.withResidual res).res.take res.length = res := by
  rw [withResidual, ← splice_zero, take_splice]

theorem of_checkResidual_ok {n o : Nat} {a : Unit} (h : checkResidual n o s = .ok a t) : s = t := by
  rw [checkResidual, look_bind] at h
  obtain ⟨_, h⟩ := of_readEntries_bind_ok h
  exact (of_check_ok h).2

section
variable {n c w b : Nat} {xs : List Int} (hn : s.fh.blocksize = some n) (hch : s.sf.ch = some c)
  (hw : s.sf.wasted = some w) (long : n ≤ (s.row c).length) (hxs : xs = ((s.row c).take n).map (· / 2 ^ w))

include hn hch hw long hxs in
/-- The samples without their wasted bits (R250). -/
theorem codedSamples_ok : codedSamples s = .ok xs s := by
  rw [codedSamples, bind_ok (readReg_some hn), bind_ok (readReg_some hch), bind_ok (readReg_some hw),
    bind_ok (readRow_ok long), pure_run, hxs]

include hn hch hw long hxs in
/-- `FIXED_RESIDUAL` (R260) of the order in hand. -/
theorem fixedResidual_ok {o : Nat} (hord : s.sf.order = some o) (o4 : o ≤ 4) (on : o ≤ n) :
    ∃ m, fixedResidual o s = .ok m (s.withResidual (residualOf (fixedPredict o) o xs)) := by
  rw [fixedResidual, check_bind_true _ _ _ (show o ≤ Config.fixedOrderMax from o4), bind_ok (readReg_some hn),
    check_bind_true _ _ _ on, bind_ok (codedSamples_ok hn hch hw long hxs), update_bind, ← hord]
  exact ⟨_, rfl⟩

include hn hch hw long hxs in
/-- `LPC_RESIDUAL` (R261). -/
theorem lpcResidual_ok {o shift : Nat} (hord : s.sf.order = some o) (range : 1 ≤ o ∧ o ≤ Config.lpcOrderMax ∧ o ≤ n)
    (hshift : s.qlpShift = some shift) (enough : o ≤ s.qlp.length) :
    ∃ m, lpcResidual s = .ok m (s.withResidual (residualOf (lpcPredict (s.qlp.take o) shift) o xs)) := by
  rw [lpcResidual, bind_ok (readReg_some hn), bind_ok (readReg_some hord), check_bind_true _ _ _ range,
    bind_ok (readReg_some hshift), look_bind, readEntries_bind_ok _ _ enough,
    bind_ok (codedSamples_ok hn hch hw long hxs), update_bind]
  exact ⟨_, rfl⟩

include hn in
/-- The section of a residual in `RES`, behind the bits already written. -/
theorem of_section_ok {o k : Nat} {res : List Int} {bits : List Bool} (hord : s.sf.order = some o) (range : s.rc.InWidth)
    (len : res.length = n - o) (h : resEncode ((s.withResidual res).appendOut bits) = .ok k t) :
    ∃ table, TableFits n o res table ∧ t.out = s.out ++ (bits ++ sectionBits n o res table) := by
  obtain ⟨table, fits, out⟩ := of_resEncode_ok (s := (s.withResidual res).appendOut bits) hn hord range h
  have left : ((s.withResidual res).appendOut bits).res.take (n - o) = res := len ▸ s.withResidual_take res
  rw [left] at fits out
  exact ⟨table, fits, out.trans (List.append_assoc ..)⟩

variable (hb : s.sf.bps = some b) (b1 : 1 ≤ b) (fits : ∀ x ∈ xs, fitsS x b)
include hn hch hw long hxs hb fits

include b1 in
theorem of_sfEncConstant_ok (h : sfEncConstant s = .ok () t) :
    SubframeForm.constant.Carries b xs ∧ t.out = s.out ++ SubframeForm.constant.bits b w xs := by
  rw [sfEncConstant, bind_ok (codedSamples_ok hn hch hw long hxs), bind_ok (readReg_some hb), bind_ok (readReg_some hw)] at h
  obtain ⟨same, h⟩ := of_check_bind_ok h
  have head : fitsS (xs.headD 0) b := by
    cases xs with
    | nil => exact ⟨b1, by simp, by simp⟩
    | cons x xs => exact fits x (by simp)
  rw [emit_bind, writeS_ok head] at h
  cases h
  exact ⟨⟨same, head⟩, List.append_assoc ..⟩

theorem of_sfEncVerbatim_ok (h : sfEncVerbatim s = .ok () t) :
    SubframeForm.verbatim.Carries b xs ∧ t.out = s.out ++ SubframeForm.verbatim.bits b w xs := by
  rw [sfEncVerbatim, bind_ok (codedSamples_ok hn hch hw long hxs), bind_ok (readReg_some hb), bind_ok (readReg_some hw),
    bind_ok (emit_appendOut _ s), writeSamples_ok b xs _ fits] at h
  cases h
  exact ⟨fits, List.append_assoc ..⟩

/-- Behind the residual the samples are read again, and the header and the warm-up are written. -/
theorem writeWarmup_ok (res : List Int) (t o : Nat) (rest : Op Unit) :
    (do
      let xs ← codedSamples
      let bps ← readReg fun s => s.sf.bps
      let w ← readReg fun s => s.sf.wasted
      emit (sfHeaderBits t w)
      writeSamples bps (xs.take o)
      rest : Op Unit) (s.withResidual res) =
      rest ((s.withResidual res).appendOut (sfHeaderBits t w ++ sampleBits b (xs.take o))) := by
  rw [bind_ok (codedSamples_ok (s := s.withResidual res) hn hch hw long hxs),
    bind_ok (readReg_some (s := s.withResidual res) (f := fun s => s.sf.bps) hb),
    bind_ok (readReg_some (s := s.withResidual res) (f := fun s => s.sf.wasted) hw), bind_ok (emit_appendOut _ _),
    bind_ok (writeSamples_ok b _ _ fun x hx => fits x (List.mem_of_mem_take hx)), State.appendOut_appendOut]

variable (len : xs.length = n) (range : s.CodingInRange)
include len range

theorem of_sfEncFixed_ok (h : sfEncFixed s = .ok () t) :
    ∃ f : SubframeForm, f.Carries b xs ∧ t.out = s.out ++ f.bits b w xs := by
  subst len
  obtain ⟨_, _, _, _, rc⟩ := range
  obtain ⟨⟨n', o⟩, u, geometry, h⟩ := of_bind_ok h
  obtain ⟨hn', ho, rfl⟩ := of_blockGeometry_ok geometry
  cases hn.symm.trans hn'
  obtain ⟨⟨o4, on⟩, h⟩ := of_check_bind_ok h
  obtain ⟨m, residual⟩ := fixedResidual_ok hn hch hw long hxs ho o4 on
  rw [bind_ok residual] at h
  obtain ⟨_, u, limits, h⟩ := of_bind_ok h
  obtain rfl := of_checkResidual_ok limits
  rw [writeWarmup_ok hn hch hw long hxs hb fits] at h
  obtain ⟨k, u, coded, h⟩ := of_bind_ok h
  cases h
  obtain ⟨table, tableFits, out⟩ := of_section_ok hn ho rc (residualOf_length ..) coded
  exact ⟨.fixed o table, ⟨o4, on, fun x hx => fits x (List.mem_of_mem_take hx), tableFits⟩, out⟩

theorem of_sfEncLpc_ok (h : sfEncLpc s = .ok () t) :
    ∃ f : SubframeForm, f.Carries b xs ∧ t.out = s.out ++ f.bits b w xs := by
  subst len
  obtain ⟨_, _, _, _, rc⟩ := range
  obtain ⟨⟨n', o⟩, u, geometry, h⟩ := of_bind_ok h
  obtain ⟨hn', ho, rfl⟩ := of_blockGeometry_ok geometry
  cases hn.symm.trans hn'
  obtain ⟨order, h⟩ := of_check_bind_ok h
  obtain ⟨prec, _, h⟩ := of_readReg_bind_ok h
  obtain ⟨⟨p1, p15⟩, h⟩ := of_check_bind_ok h
  obtain ⟨shift, hshift, h⟩ := of_readReg_bind_ok h
  obtain ⟨s15, h⟩ := of_check_bind_ok h
  rw [look_bind] at h
  obtain ⟨enough, h⟩ := of_readEntries_bind_ok h
  obtain ⟨coefs, h⟩ := of_check_bind_ok h
  obtain ⟨m, residual⟩ := lpcResidual_ok hn hch hw long hxs ho order hshift enough
  rw [bind_ok residual] at h
  obtain ⟨_, u, limits, h⟩ := of_bind_ok h
  obtain rfl := of_checkResidual_ok limits
  rw [writeWarmup_ok hn hch hw long hxs hb fits] at h
  generalize hqs : s.qlp.take o = qs at *
  have count : o = qs.length := by rw [← hqs, List.length_take_of_le enough]
  subst count
  obtain ⟨o1, o32, on⟩ := order
  change prec ≤ 15 at p15
  change shift ≤ 15 at s15
  have shiftFits : shift < 2 ^ (Config.qlpShiftBits - 1) := by unfold Config.qlpShiftBits; omega
  rw [bind_ok (writeU_appendOut (n := Config.qlpPrecBits) (by decide) (by unfold Config.qlpPrecBits; omega) _),
    bind_ok (writeS_natCast_appendOut shiftFits (by decide) _),
    bind_ok (writeSamples_ok prec _ _ coefs)] at h
  simp only [State.appendOut_appendOut] at h
  obtain ⟨k, u, coded, h⟩ := of_bind_ok h
  cases h
  obtain ⟨table, tableFits, out⟩ := of_section_ok hn ho rc (residualOf_length ..) coded
  exact ⟨.lpc qs prec shift table,
    ⟨o1, o32, on, p1, p15, s15, coefs, fun x hx => fits x (List.mem_of_mem_take hx), tableFits⟩, out⟩

include b1 in
/-- What any of the four writing operations has written is the subframe of a form that carries the samples. -/
theorem written_form {i : Instr} (live : s.faulted = false)
    (hi : i = .sfEncConstant ∨ i = .sfEncVerbatim ∨ i = .sfEncFixed ∨ i = .sfEncLpc)
    (h : answerOf i s = some (.none, t)) :
    ∃ f : SubframeForm, f.Carries b xs ∧ t.out = s.out ++ f.bits b w xs := by
  rcases hi with rfl | rfl | rfl | rfl
  · obtain ⟨u, run, out⟩ := of_answerOf (m := sfEncConstant) live rfl h
    exact ⟨.constant, out ▸ of_sfEncConstant_ok hn hch hw long hxs hb b1 fits run⟩
  · obtain ⟨u, run, out⟩ := of_answerOf (m := sfEncVerbatim) live rfl h
    exact ⟨.verbatim, out ▸ of_sfEncVerbatim_ok hn hch hw long hxs hb fits run⟩
  · obtain ⟨u, run, out⟩ := of_answerOf (m := sfEncFixed) live rfl h
    exact out ▸ of_sfEncFixed_ok hn hch hw long hxs hb fits len range run
  · obtain ⟨u, run, out⟩ := of_answerOf (m := sfEncLpc) live rfl h
    exact out ▸ of_sfEncLpc_ok hn hch hw long hxs hb fits len range run

end
end Sys2Proof.Machine

/-! PROOFS. `SF_DEC` issued by the host decodes every subframe of every form, and what a writer wrote. -/

namespace Sys2Proof.Machine

section
variable {r : State} {c w b ch ca fb : Nat} {f : SubframeForm} {xs : List Int} (live : r.faulted = false)
  (mode : r.mode ≠ .encode) (valid : r.fh.valid = true) (hch : r.fh.channels = some ch)
  (hn : r.fh.blocksize = some xs.length) (hfb : r.fh.bps = some fb) (hca : r.fh.chanAssign = some ca)
  (hd : b + w = fb + sideBit ca c) (h : c < ch) (hc : c < r.smp.length) (b1 : 1 ≤ b) (carries : f.Carries b xs)
  (bits : AtCursor r (f.bits b w xs))
include live mode valid hch hn hfb hca hd h hc b1 carries bits

/-- `SF_DEC`, issued by the host, of a subframe whose samples fit the depth. -/
theorem exec_sfDec_fits (fits : ∀ x ∈ xs, fitsS x b) : Answers (exec (.sfDec c) r) (f.decoded c b w xs r) .none := by
  refine exec_sfDec_ok live mode ?_
  rw [sfDec_form valid hch hn hfb hca hd h hc b1 carries bits, finishRow_fits w fits]
  exact check_true _ _ rfl

/-- `SF_DEC`, issued by the host, of a subframe with a sample outside the depth. -/
theorem exec_sfDec_unfit (bad : ∃ x ∈ xs, ¬ fitsS x b) :
    exec (.sfDec c) r = .next (r.takeException
      { r with brPos := (f.decoded c b w xs r).brPos, smp := (f.decoded c b w xs r).smp } .read (.sync .rangeError)) := by
  refine exec_sfDec_exc live mode ?_
  rw [sfDec_form valid hch hn hfb hca hd h hc b1 carries bits, finishRow_unfit w bad]
  exact check_false _ _ (by decide)

end

/-- Samples without their wasted bits, and with them again. -/
theorem map_div_map_mul {w : Nat} {row : List Int} (h : ∀ x ∈ row, x % 2 ^ w = 0) :
    (row.map (· / 2 ^ w)).map (· * 2 ^ w) = row := by
  rw [List.map_map, List.map_congr_left (g := id) fun x hx => ?_, List.map_id]
  exact Int.ediv_mul_cancel (Int.dvd_of_emod_eq_zero (h x hx))

/-- Settles O34: what the four operations write is the subframe of a form, and `SF_DEC` reads a form's bits back. -/
theorem subframeDecodesToItsSamples : Obligations.SubframeDecodesToItsSamples := by
  unfold Obligations.SubframeDecodesToItsSamples
  intro r n c w b ch ca fb depth live mode valid hch hn hfb hca hd
  refine ⟨fun h hc split b1 _ => ⟨fun f xs len carries bits => ?_, ?_⟩, fun h bit => ?_, fun t h ht bits => ?_,
    fun h lacks => ?_, fun h => ?_, fun t ht => ?_⟩
  · subst len
    rw [split] at hd
    refine ⟨fun fits => ?_, fun bad => ?_⟩
    · exact ⟨_, exec_sfDec_fits live mode valid hch hn hfb hca hd h hc b1 carries bits fits, rfl, rfl,
        SubframeForm.decoded_row_fits (f := f) (w := w) hc fits,
        fun d other => SubframeForm.decoded_row_other (f := f) (b := b) (w := w) (xs := xs) (s := r) other,
        SubframeForm.load_sf, SubframeForm.decoded_frame _⟩
    · exact ⟨_, exec_sfDec_unfit live mode valid hch hn hfb hca hd h hc b1 carries bits bad, rfl, rfl,
        fun d other => SubframeForm.decoded_row_other (f := f) (b := b) (w := w) (xs := xs) other, rfl⟩
  · intro s t i slive range sn sch sw sb long samples hi answers bits
    generalize hxs : ((s.row c).take n).map (· / 2 ^ w) = xs
    have len : xs.length = n := by rw [← hxs, List.length_map, List.length_take_of_le long]
    have fits : ∀ x ∈ xs, fitsS x b := by
      rw [← hxs]
      exact List.forall_mem_map.2 fun x hx => (samples x hx).2
    obtain ⟨f, carries, out⟩ := written_form sn sch sw long hxs.symm sb b1 fits len range slive hi answers
    rw [out, List.drop_left] at bits
    subst len
    rw [split] at hd
    refine ⟨_, exec_sfDec_fits live mode valid hch hn hfb hca hd h hc b1 carries bits fits, rfl, ?_, ?_⟩
    · show r.brPos + (f.bits b w xs).length + s.out.length = r.brPos + t.out.length
      rw [out, List.length_append]
      omega
    · refine (SubframeForm.decoded_row_fits (f := f) (w := w) hc fits).trans ?_
      rw [← map_div_map_mul fun x hx => (samples x hx).1, hxs]
  · exact exec_sfDec_exc live mode (sfDec_padding valid hch hn hfb hca hd h bit)
  · refine ⟨fun big => ?_, fun small res => ?_⟩
    · exact exec_sfDec_exc live mode (sfDec_wasted valid hch hn hfb hca hd h ht bits big)
    · obtain ⟨u, run, pos, smp⟩ := sfDec_reservedType valid hch hn hfb hca hd h ht bits small res
      rw [exec_sfDec_exc live mode run, pos, smp]
  · exact exec_sfDec_starves live mode (sfDec_lacks valid hch hn hfb hca hd h lacks)
  · exact exec_sfDec_exc live mode (sfDec_badOperand valid hch h)
  · have unwritten : sfDec c t = .error (.exc (.logic .unwrittenState)) t := sfDec_unwritten (by rw [ht])
    exact exec_sfDec_exc (by rw [ht]; exact live) (by rw [ht]; exact mode) unwritten

end Sys2Proof.Machine

/-! PROOFS. Input pushed later: what holds or does the same with more input (70_reset_and_hazards.md R435), for the
monad and the bit reader. `Laws/Frame.lean` keeps the cursor inside the input from one part to the next. -/

namespace Sys2Proof.Machine

variable {α β : Type}

/-! ### More input behind the input there is -/

/-- The state with `l` pushed behind the input. -/
@[reducible] def State.more (s : State) (l : List Byte) : State := { s with input := s.input ++ l }

/-- The outcome with `l` pushed behind the input. -/
def moreAfter (l : List Byte) : EStateM.Result Stop State α → EStateM.Result Stop State α
  | .ok a t => .ok a (t.more l)
  | .error e t => .error e (t.more l)

/-- Started in `s`, the operation holds, or does the same with `l` pushed beforehand. -/
def SteadyAt (l : List Byte) (m : Op α) (s : State) : Prop :=
  (∃ t, m s = .error .hold t) ∨ m (s.more l) = moreAfter l (m s)

/-- More input may come, and the cursor is inside what there is. -/
def State.Open (s : State) : Prop := s.brPos ≤ 8 * s.input.length ∧ s.inEof = false

/-- The operation holds, or does the same whatever is pushed beforehand. -/
def Steady (m : Op α) : Prop := ∀ l s, s.Open → SteadyAt l m s

theorem State.Open.after {x : Op α} {a : α} {s t : State} (h : s.Open) (keeps : Keeps x) (run : x s = .ok a t) : t.Open := by
  have frame := keeps s
  rw [run] at frame
  change Frame s t at frame
  obtain ⟨inside, noEof⟩ := h
  exact ⟨by rw [frame.input]; exact (frame.cursor inside).2, frame.inEof.trans noEof⟩

theorem steadyAt_bind {l : List Byte} {x : Op α} {f : α → Op β} {s : State} (hx : SteadyAt l x s)
    (hf : ∀ a t, x s = .ok a t → SteadyAt l (f a) t) : SteadyAt l (x >>= f) s := by
  rcases hx with ⟨t, hold⟩ | same
  · exact .inl ⟨t, bind_error hold⟩
  · cases run : x s with
    | ok a t =>
      rw [run] at same
      have tail := hf a t run
      rw [SteadyAt, bind_ok run, bind_ok same]
      exact tail
    | error e t =>
      rw [run] at same
      exact .inr (by rw [bind_error run, bind_error same]; rfl)

@[simp] theorem steady_bind {x : Op α} {f : α → Op β} (keeps : Keeps x) (hx : Steady x) (hf : ∀ a, Steady (f a)) :
    Steady (x >>= f) := fun l s h =>
  steadyAt_bind (hx l s h) fun a t run => hf a l t (h.after keeps run)

@[simp] theorem steady_map (g : α → β) {x : Op α} (hx : Steady x) : Steady (g <$> x) := by
  intro l s h
  rcases hx l s h with ⟨t, hold⟩ | same
  · exact .inl ⟨t, by rw [map_run, hold]⟩
  · refine .inr ?_
    rw [map_run, map_run, same]
    cases x s <;> rfl

@[simp] theorem steady_pure (a : α) : Steady (pure a : Op α) := fun _ _ _ => .inr rfl
@[simp] theorem steady_raise (e : Exc) : Steady (raise e : Op α) := fun _ _ _ => .inr rfl

/-- A look at anything but the input. -/
@[simp] theorem steady_look {f : State → α} (h : ∀ s l, f (s.more l) = f s) : Steady (look f) := fun l s _ =>
  .inr (by rw [look_run, look_run, h]; rfl)

/-- A write that neither reads nor writes the input. -/
@[simp] theorem steady_update {f : State → State} (h : ∀ s l, f (s.more l) = (f s).more l) : Steady (update f) := fun l s _ =>
  .inr (by rw [update_run, update_run, h]; rfl)

@[simp] theorem steady_check (c : Prop) [Decidable c] (e : Exc) : Steady (check c e) := by
  intro l s _
  unfold SteadyAt check
  split <;> exact .inr rfl

@[simp] theorem steady_written (r : Reg α) : Steady (written r) := by
  intro l s _
  cases r <;> exact .inr rfl

@[simp] theorem steady_readEntries (as : List α) (n : Nat) : Steady (readEntries as n) := by
  intro l s _
  unfold SteadyAt readEntries
  split <;> exact .inr rfl

@[simp] theorem steady_readReg {f : State → Reg α} (h : ∀ s l, f (s.more l) = f s) : Steady (readReg f) :=
  steady_bind (keeps_look f) (steady_look h) steady_written

@[simp] theorem steady_ite {c : Prop} [Decidable c] {x y : Op α} (hx : Steady x) (hy : Steady y) :
    Steady (if c then x else y) := by
  split <;> assumption

@[simp] theorem steady_countUp {f : Nat → Op Unit} (keeps : ∀ i, Keeps (f i)) (h : ∀ i, Steady (f i)) :
    ∀ n i, Steady (countUp f n i)
  | 0, _ => steady_pure ()
  | n + 1, i => steady_bind (keeps i) (h i) fun _ => steady_countUp keeps h n (i + 1)

@[simp] theorem steady_attempt {m : Op α} (h : Steady m) : Steady (attempt m) := by
  intro l s hs
  rcases h l s hs with ⟨t, hold⟩ | same
  · exact .inl ⟨t, by rw [attempt, hold]⟩
  · refine .inr ?_
    rw [attempt, attempt, same]
    cases m s with
    | ok a t => rfl
    | error e t =>
      cases e with
      | hold => rfl
      | issued l => rfl
      | exc e => cases e <;> rfl

@[simp] theorem steady_asIssued {m : Op α} (h : Steady m) : Steady (asIssued m) := by
  intro l s hs
  rcases h l s hs with ⟨t, hold⟩ | same
  · exact .inl ⟨t, by rw [asIssued, hold]⟩
  · refine .inr ?_
    rw [asIssued, asIssued, same]
    cases m s with
    | ok a t => rfl
    | error e t =>
      cases e with
      | hold => rfl
      | issued l => rfl
      | exc e => cases e <;> rfl

/-! ### The bit reader -/

theorem bytesBits_append (as bs : List Byte) : bytesBits (as ++ bs) = bytesBits as ++ bytesBits bs :=
  List.flatMap_append

theorem bitsFrom_append {p : Nat} {bs : List Byte} (h : p ≤ 8 * bs.length) (l : List Byte) :
    bitsFrom (bs ++ l) p = bitsFrom bs p ++ bytesBits l := by
  rw [bitsFrom_eq, bitsFrom_eq, bytesBits_append, List.drop_append_of_le_length (by rwa [bytesBits_length])]

/-- Bits that are there stay what they are. -/
theorem memRead_append {p n : Nat} {bs : List Byte} (h : p + n ≤ 8 * bs.length) (l : List Byte) :
    memRead (bs ++ l) p n = memRead bs p n := by
  have enough : n ≤ (bitsFrom bs p).length := by rw [bitsFrom_length]; omega
  rw [memRead, memRead, bitsFrom_append (by omega), List.take_append_of_le_length enough]

/-- Bytes that are there stay what they are. -/
theorem bytes_append {stop : Nat} {bs : List Byte} (h : stop ≤ bs.length) (l : List Byte) (start : Nat) :
    ((bs ++ l).drop start).take (stop - start) = (bs.drop start).take (stop - start) := by
  rcases Nat.le_total start stop with le | ge
  · rw [List.drop_append_of_le_length (by omega), List.take_append_of_le_length (by rw [List.length_drop]; omega)]
  · rw [Nat.sub_eq_zero_of_le ge, List.take_zero, List.take_zero]

/-- Where `starve` passes it passes with more input, else it holds. -/
theorem starve_open {need : Nat} {s : State} (h : s.Open) :
    (s.brPos + need ≤ 8 * s.input.length ∧ starve need s = .ok () s) ∨ starve need s = .error .hold s := by
  rcases starve_cases need s with ⟨fits, run⟩ | ⟨_, ended, _⟩ | ⟨_, _, run⟩
  · exact .inl ⟨fits, run⟩
  · exact absurd (ended.symm.trans h.2) (by decide)
  · exact .inr run

theorem starve_more {need : Nat} {s : State} (h : s.brPos + need ≤ 8 * s.input.length) (l : List Byte) :
    starve need (s.more l) = .ok () (s.more l) := by
  refine starve_ok ?_
  show s.brPos + need ≤ 8 * (s.input ++ l).length
  rw [List.length_append]
  omega

@[simp] theorem steady_peekBits (n : Nat) : Steady (peekBits n) := by
  intro l s h
  rcases starve_open (need := n) h with ⟨fits, run⟩ | hold
  · refine .inr ?_
    rw [peekBits, bind_ok run, bind_ok (starve_more fits l), look_run, look_run]
    exact congrArg (EStateM.Result.ok · _) (memRead_append fits l)
  · exact .inl ⟨s, bind_error hold⟩

@[simp] theorem steady_starve (n : Nat) : Steady (starve n) := by
  intro l s h
  rcases starve_open (need := n) h with ⟨fits, run⟩ | hold
  · exact .inr (by rw [run, starve_more fits]; rfl)
  · exact .inl ⟨s, hold⟩

@[simp] theorem steady_skipBits (n : Nat) : Steady (skipBits n) := steady_update fun _ _ => rfl

theorem keeps_peekBits (n : Nat) : Keeps (peekBits n) := keeps_bind (keeps_starve n) fun _ => keeps_look _

@[simp] theorem steady_readBits (n : Nat) : Steady (readBits n) := by
  refine steady_bind (keeps_peekBits n) (steady_peekBits n) fun v => ?_
  exact fun l s h => .inr rfl

@[simp] theorem steady_readU (n : Nat) : Steady (readU n) := by simp (maxDischargeDepth := 100) [readU]
@[simp] theorem steady_readS (n : Nat) : Steady (readS n) := by simp (maxDischargeDepth := 100) [readS]

theorem leadRun_append {bits : List Bool} {q : Nat} (rest : List Bool) (h : leadRun bits = some q) :
    leadRun (bits ++ rest) = some q := by
  induction bits generalizing q with
  | nil => cases h
  | cons b bits ih =>
    rw [leadRun] at h
    rw [List.cons_append, leadRun]
    split at h
    next stop => rw [if_pos stop, h]
    next go =>
      obtain ⟨r, hr, rfl⟩ := Option.map_eq_some_iff.1 h
      rw [if_neg go, ih hr, Option.map_some]

/-- A unary number that is there is there with more input; else the operation holds. -/
theorem peekUnary_open {s : State} (h : s.Open) (l : List Byte) :
    (∃ q, peekUnary s = .ok q s ∧ peekUnary (s.more l) = .ok q (s.more l)) ∨ peekUnary s = .error .hold s := by
  cases run : leadRun (bitsFrom s.input s.brPos) with
  | none => exact .inr (by simp [peekUnary, run, h.2])
  | some q =>
    have later : leadRun (bitsFrom (s.more l).input (s.more l).brPos) = some q := by
      show leadRun (bitsFrom (s.input ++ l) s.brPos) = some q
      rw [bitsFrom_append h.1, leadRun_append _ run]
    exact .inl ⟨q, by simp [peekUnary, run], by simp [peekUnary, later]⟩

@[simp] theorem steady_readUnary : Steady readUnary := by
  intro l s h
  rcases peekUnary_open h l with ⟨q, run, later⟩ | hold
  · exact .inr (by rw [readUnary, bind_ok run, bind_ok later]; rfl)
  · exact .inl ⟨s, bind_error hold⟩

@[simp] theorem steady_readRice (k : Nat) : Steady (readRice k) := by
  intro l s h
  rcases peekUnary_open h l with ⟨q, run, later⟩ | hold
  · rcases starve_open (need := q + 1 + k) h with ⟨fits, there⟩ | hold
    · refine .inr ?_
      have same : memRead (s.more l).input ((s.more l).brPos + q + 1) k = memRead s.input (s.brPos + q + 1) k :=
        memRead_append (p := s.brPos + q + 1) (by omega) l
      rw [readRice, bind_ok run, bind_ok later, bind_ok there, bind_ok (starve_more fits l), look_bind, look_bind, same]
      rfl
    · exact .inl ⟨s, by rw [readRice, bind_ok run, bind_error hold]⟩
  · exact .inl ⟨s, bind_error hold⟩

@[simp] theorem steady_readAligned : Steady readAligned :=
  steady_bind (keeps_look _) (steady_look fun _ _ => rfl) fun _ => steady_check _ _

@[simp] theorem steady_readBytes (n : Nat) : Steady (readBytes n) := by
  refine steady_bind keeps_readAligned steady_readAligned fun _ l s h => ?_
  rcases starve_open (need := 8 * n) h with ⟨fits, run⟩ | hold
  · refine .inr ?_
    have same : (((s.more l).input.drop ((s.more l).brPos / 8)).take n) = ((s.input.drop (s.brPos / 8)).take n) := by
      have bytes := bytes_append (stop := s.brPos / 8 + n) (bs := s.input) (by omega) l (s.brPos / 8)
      rwa [Nat.add_sub_cancel_left] at bytes
    rw [bind_ok run, bind_ok (starve_more fits l), look_bind, look_bind, same]
    rfl
  · exact .inl ⟨s, bind_error hold⟩

@[simp] theorem steady_readCodedTail : ∀ n v, Steady (readCodedTail n v)
  | 0, v => steady_pure v
  | n + 1, _ => steady_bind (keeps_readBits 8) (steady_readBits 8) fun _ =>
    steady_bind (keeps_check _ _) (steady_check _ _) fun _ => steady_readCodedTail n _

@[simp] theorem steady_readCodedBytes (m : Nat) : Steady (readCodedBytes m) := by
  refine steady_bind (keeps_readBits 8) (steady_readBits 8) fun b => ?_
  exact steady_ite (steady_pure _) (steady_bind (keeps_check _ _) (steady_check _ _) fun _ => steady_readCodedTail _ _)

end Sys2Proof.Machine

/-! PROOFS. Input pushed later: the unit operations that read no input but through the bit reader. -/

namespace Sys2Proof.Machine

variable {α β : Type}

/-! ### Marker, metadata, frame header -/

@[simp] theorem steady_needMode (m : Mode) : Steady (needMode m) := by simp (maxDischargeDepth := 100) [needMode]
@[simp] theorem steady_notEncode : Steady notEncode := by simp (maxDischargeDepth := 100) [notEncode]
@[simp] theorem steady_mkRead : Steady mkRead := by simp (maxDischargeDepth := 100) [mkRead]

@[simp] theorem steady_mbhRead : Steady mbhRead := by
  refine steady_bind keeps_notEncode steady_notEncode fun _ => steady_bind keeps_readAligned steady_readAligned fun _ =>
    steady_bind (keeps_starve 32) (steady_starve 32) fun _ => steady_bind (keeps_readU 1) (steady_readU 1) fun _ =>
    steady_bind (keeps_readU 7) (steady_readU 7) fun _ => steady_bind (keeps_readU 24) (steady_readU 24) fun _ =>
    steady_bind ?_ (steady_update fun s l => ?_) fun _ => steady_pure _
  · simp
  · split <;> simp_all

@[simp] theorem steady_readStreamInfo : Steady readStreamInfo := by simp (maxDischargeDepth := 100) [readStreamInfo]
@[simp] theorem steady_siRead : Steady siRead := by simp (maxDischargeDepth := 100) [siRead]
@[simp] theorem steady_siValidate : Steady siValidate := by simp (maxDischargeDepth := 100) [siValidate, State.siReadRan]
@[simp] theorem steady_mbReadBody : Steady mbReadBody := by simp (maxDischargeDepth := 100) [mbReadBody]
@[simp] theorem steady_seekLoad (bs : List Byte) : Steady (seekLoad bs) := by simp [seekLoad]

@[simp] theorem steady_fhBlocksize (c : Nat) : Steady (fhBlocksize c) := by simp (maxDischargeDepth := 100) [fhBlocksize]
@[simp] theorem steady_validStreamInfo : Steady validStreamInfo := by simp (maxDischargeDepth := 100) [validStreamInfo]
@[simp] theorem steady_fhSampleRate (c : Nat) : Steady (fhSampleRate c) := by simp (maxDischargeDepth := 100) [fhSampleRate]
@[simp] theorem steady_headerStart : Steady headerStart := by simp [headerStart]
@[simp] theorem steady_fhValidate : Steady fhValidate := by simp (maxDischargeDepth := 100) [fhValidate]

/-! ### Residual coder -/

@[simp] theorem steady_writeRes (i : Nat) (r : Int) : Steady (writeRes i r) := by simp [writeRes]
@[simp] theorem steady_writeEntry (i : Nat) (c : PartChoice) : Steady (writeEntry i c) := by simp [writeEntry]

@[simp] theorem steady_escRead (n : Nat) : Steady (escRead n) := by
  unfold escRead
  refine steady_ite (steady_pure _) ?_
  split <;> simp (maxDischargeDepth := 100)

@[simp] theorem steady_riceRead (k : Nat) : Steady (riceRead k) := by simp (maxDischargeDepth := 100) [riceRead]

@[simp] theorem steady_readRun {one : Op Int} (keeps : Keeps one) (h : Steady one) : ∀ cnt idx, Steady (readRun one cnt idx)
  | 0, _ => steady_pure ()
  | cnt + 1, idx => steady_bind keeps h fun _ => steady_bind (keeps_writeRes _ _) (steady_writeRes _ _) fun _ =>
    steady_readRun keeps h cnt (idx + 1)

@[simp] theorem steady_readPartition (m i cnt idx : Nat) : Steady (readPartition m i cnt idx) := by
  simp (maxDischargeDepth := 100) [readPartition]

@[simp] theorem steady_readPartitions (n o m p : Nat) : ∀ left i idx, Steady (readPartitions n o m p left i idx)
  | 0, _, _ => steady_pure ()
  | left + 1, _, _ => steady_bind (keeps_readPartition _ _ _ _) (steady_readPartition _ _ _ _) fun _ =>
    steady_readPartitions n o m p left _ _

@[simp] theorem steady_readResHeader (n o : Nat) : Steady (readResHeader n o) := by
  simp (maxDischargeDepth := 100) [readResHeader]

@[simp] theorem steady_blockGeometry : Steady blockGeometry := by simp (maxDischargeDepth := 100) [blockGeometry]
@[simp] theorem steady_resDecode : Steady resDecode := by simp (maxDischargeDepth := 100) [resDecode]

/-! ### Predictor -/

@[simp] theorem steady_writeSmp (c i : Nat) (v : Int) : Steady (writeSmp c i v) := by simp [writeSmp]
@[simp] theorem steady_writeRow (c : Nat) (vs : List Int) : Steady (writeRow c vs) := by simp [writeRow]
@[simp] theorem steady_readRow (c n : Nat) : Steady (readRow c n) := by simp (maxDischargeDepth := 100) [readRow]

@[simp] theorem steady_readSamples (c b : Nat) : ∀ cnt i, Steady (readSamples c b cnt i)
  | 0, _ => steady_pure ()
  | cnt + 1, _ => steady_bind (keeps_readS _) (steady_readS _) fun _ =>
    steady_bind (keeps_writeSmp _ _ _) (steady_writeSmp _ _ _) fun _ => steady_readSamples c b cnt _

@[simp] theorem steady_sfDecConstant : Steady sfDecConstant := by simp (maxDischargeDepth := 100) [sfDecConstant]
@[simp] theorem steady_sfDecVerbatim : Steady sfDecVerbatim := by simp (maxDischargeDepth := 100) [sfDecVerbatim]
@[simp] theorem steady_fixedRestore : Steady fixedRestore := by simp (maxDischargeDepth := 100) [fixedRestore]
@[simp] theorem steady_lpcRestore : Steady lpcRestore := by simp (maxDischargeDepth := 100) [lpcRestore]
@[simp] theorem steady_sfDecFixed : Steady sfDecFixed := by simp (maxDischargeDepth := 100) [sfDecFixed]

@[simp] theorem steady_readCoefs (p : Nat) : ∀ cnt j, Steady (readCoefs p cnt j)
  | 0, _ => steady_pure ()
  | cnt + 1, _ => steady_bind (keeps_readS _) (steady_readS _) fun _ => steady_bind (by simp) (by simp) fun _ =>
    steady_readCoefs p cnt _

@[simp] theorem steady_sfDecLpc : Steady sfDecLpc := by simp (maxDischargeDepth := 100) [sfDecLpc]

@[simp] theorem steady_finishSubframe (c n b w : Nat) : Steady (finishSubframe c n b w) := by
  simp (maxDischargeDepth := 100) [finishSubframe]

@[simp] theorem steady_readWasted (wf : Nat) : Steady (readWasted wf) := by simp (maxDischargeDepth := 100) [readWasted]
@[simp] theorem steady_sfHeader : Steady sfHeader := by simp (maxDischargeDepth := 100) [sfHeader]

@[simp] theorem steady_setSfType (t : Nat) : Steady (setSfType t) := by
  unfold setSfType
  cases sfTypeOf t <;> simp (maxDischargeDepth := 100)

@[simp] theorem steady_sfBody (t : SfType) : Steady (sfBody t) := by cases t <;> simp [sfBody]
@[simp] theorem steady_sfDec (c : Nat) : Steady (sfDec c) := by simp (maxDischargeDepth := 100) [sfDec]

/-! ### Channel reconstruction, content hash, emission -/

@[simp] theorem steady_readSmpAt (c i : Nat) : Steady (readSmpAt c i) := by simp [readSmpAt]
@[simp] theorem steady_undoAt (ca i : Nat) : Steady (undoAt ca i) := by simp (maxDischargeDepth := 100) [undoAt]
@[simp] theorem steady_checkAt (b i c : Nat) : Steady (checkAt b i c) := by simp (maxDischargeDepth := 100) [checkAt]
@[simp] theorem steady_chDecorrInv : Steady chDecorrInv := by simp (maxDischargeDepth := 100) [chDecorrInv]

@[simp] theorem steady_md5UpdateBytes (bs : List Byte) : Steady (md5UpdateBytes bs) := by
  simp (maxDischargeDepth := 100) [md5UpdateBytes]

@[simp] theorem steady_hashDepth : Steady hashDepth := by
  intro l s _
  refine .inr ?_
  unfold hashDepth
  cases s.mode
  case idle => rfl
  case decode => cases h : s.si <;> simp [moreAfter, h, bind_run]
  case encode => cases h : s.cfg <;> simp [moreAfter, h, bind_run]

@[simp] theorem steady_readSmp (r n : Nat) : Steady (readSmp r n) := by
  intro l s _
  refine .inr ?_
  simp only [readSmp]
  split <;> rfl

@[simp] theorem steady_md5UpdatePcm : Steady md5UpdatePcm := by simp (maxDischargeDepth := 100) [md5UpdatePcm]
@[simp] theorem steady_emitBlock : Steady emitBlock := by simp (maxDischargeDepth := 100) [emitBlock]

end Sys2Proof.Machine

/-! PROOFS. Input pushed later: the parts that look at the input themselves (both CRCs, the StreamInfo body, the sync
scan), the sequencer and the delivery. -/

namespace Sys2Proof.Machine

variable {α β : Type}

/-! ### The frame header and the frame -/

theorem of_peekBits_ok {n v : Nat} {s t : State} (h : peekBits n s = .ok v t) : s.brPos + n ≤ 8 * s.input.length ∧ s = t := by
  obtain ⟨_, u, run, look⟩ := of_bind_ok h
  cases look
  rcases starve_cases n s with ⟨fits, ok⟩ | ⟨_, _, eos⟩ | ⟨_, _, hold⟩
  · rw [ok] at run
    cases run
    exact ⟨fits, rfl⟩
  · rw [eos] at run
    cases run
  · rw [hold] at run
    cases run

@[simp] theorem steady_fhFixed : Steady fhFixed := by
  intro l s h
  refine steadyAt_bind (steady_peekBits _ l s h) fun sync t run => ?_
  obtain ⟨fits, rfl⟩ := of_peekBits_ok run
  split
  · exact .inr rfl
  · have fields : Steady (do
        let r1 ← readU 1
        let var ← readU 1
        let bsc ← readU 4
        let src ← readU 4
        let ca ← readU 4
        let bpc ← readU 3
        let r2 ← readU 1
        check (src ≠ 15) (.sync .headerReserved)
        pure (⟨r1 ||| r2, var, bsc, src, ca, bpc⟩ : FhFixed)) := by
      simp (maxDischargeDepth := 100)
    refine steadyAt_bind (steady_skipBits _ l s h) fun _ t run => ?_
    cases run
    exact fields l _ ⟨fits, h.2⟩

/-- What is read up to the cursor is inside the input. -/
theorem steady_lookByte_bind {f : Nat → Op β}
    (h : ∀ stop l s, s.Open → stop ≤ s.input.length → SteadyAt l (f stop) s) : Steady (look (fun s => s.brPos / 8) >>= f) :=
  fun l s isOpen => steadyAt_bind (steady_look (fun _ _ => rfl) l s isOpen) fun stop t run => by
    cases run
    exact h _ l s isOpen (by have := isOpen.1; show s.brPos / 8 ≤ s.input.length; omega)

/-- The CRC-8 of the bytes of the header, its field read behind them (R227). -/
theorem steady_headerCrc (start : Nat) {rest : Nat → Op Unit} (h : ∀ crc, Steady (rest crc)) : Steady (do
    let stop ← look fun s => s.brPos / 8
    let crc ← readU 8
    update fun s =>
      { s with
        crc8 := crc8Of ((s.input.drop start).take (stop - start))
        fh := { s.fh with crc8 := some (BitVec.ofNat 8 crc) } }
    rest crc) := by
  refine steady_lookByte_bind fun stop l s isOpen inside => ?_
  refine steadyAt_bind (steady_readU 8 l s isOpen) fun crc t run => ?_
  have after := isOpen.after (keeps_readU 8) run
  have frame := keeps_readU 8 s
  rw [run] at frame
  have same : t.input = s.input := frame.input
  refine steadyAt_bind (.inr ?_) fun _ u run => ?_
  · rw [update_run, update_run, bytes_append (by rwa [same])]
    rfl
  · exact h crc l u (after.after (by simp) run)

@[simp] theorem steady_fhParse : Steady fhParse := by
  refine steady_bind keeps_notEncode steady_notEncode fun _ => steady_bind keeps_readAligned steady_readAligned fun _ =>
    steady_bind keeps_headerStart steady_headerStart fun _ => steady_bind (keeps_look _) (by simp) fun start =>
    steady_bind keeps_fhFixed steady_fhFixed fun head =>
    steady_bind (keeps_readCodedBytes _) (steady_readCodedBytes _) fun num =>
    steady_bind (keeps_fhBlocksize _) (steady_fhBlocksize _) fun bs =>
    steady_bind (keeps_fhSampleRate _) (steady_fhSampleRate _) fun sr => steady_headerCrc start fun crc => ?_
  have flagged : Steady (update fun s => s.setFlag .crc8Err) := steady_update fun _ _ => rfl
  simp (maxDischargeDepth := 100) [flagged]

/-- The footer of a frame whose bytes are inside the input. -/
theorem steadyAt_checkFooter {start stop : Nat} (crc : Nat) {l : List Byte} {s : State} (isOpen : s.Open)
    (inside : stop ≤ s.input.length) : SteadyAt l (checkFooter start stop crc) s := by
  have verdict : Steady (do
      let sum ← look State.crc16
      if sum.toNat ≠ crc then do
        update fun s => s.setFlag .crc16Err
        raise (.sync .frameCrc16)
      else pure ()) := by
    have flagged : Steady (update fun s => s.setFlag .crc16Err) := steady_update fun _ _ => rfl
    simp (maxDischargeDepth := 100) [flagged]
  refine steadyAt_bind (.inr ?_) fun _ u run => ?_
  · rw [update_run, update_run, bytes_append inside]
    rfl
  · exact verdict l u (isOpen.after (by simp) run)

@[simp] theorem steady_frameFooter (start : Nat) : Steady (frameFooter start) := by
  refine steady_lookByte_bind fun stop l s isOpen inside => ?_
  refine steadyAt_bind (steady_readU 16 l s isOpen) fun crc t run => ?_
  have frame := keeps_readU 16 s
  rw [run] at frame
  have same : t.input = s.input := frame.input
  exact steadyAt_checkFooter crc (isOpen.after (keeps_readU 16) run) (by rwa [same])

@[simp] theorem steady_readPadding : ∀ k, Steady (readPadding k)
  | 0 => steady_pure ()
  | k + 1 => steady_bind (keeps_readU 1) (steady_readU 1) fun _ => steady_bind (keeps_check _ _) (steady_check _ _) fun _ =>
    steady_readPadding k

@[simp] theorem steady_frameStart : Steady frameStart := by simp [frameStart]
@[simp] theorem steady_decFrame : Steady decFrame := by simp (maxDischargeDepth := 100) [decFrame]

/-! ### The sequencer -/

@[simp] theorem steady_fatal (e : Exc) (p : Nat) : Steady (fatal e p) := steady_update fun _ _ => rfl
@[simp] theorem steady_recordOnly (e : Exc) (p : Nat) : Steady (recordOnly e p) := steady_update fun _ _ => rfl
@[simp] theorem steady_metadataFault (e : Exc) (p : Nat) : Steady (metadataFault e p) := by simp [metadataFault]
@[simp] theorem steady_enterResync (sub : SyncSub) (p : Nat) : Steady (enterResync sub p) := steady_update fun _ _ => rfl
@[simp] theorem steady_afterBlock (last : Bool) : Steady (afterBlock last) := steady_update fun _ _ => by cases last <;> rfl

theorem steady_metadataOp {m : Op α} {next : α → Op Unit} (keeps : Keeps m) (h : Steady m) (k : ∀ a, Steady (next a)) :
    Steady (metadataOp m next) := by
  refine steady_bind (keeps_look _) (steady_look fun _ _ => rfl) fun _ =>
    steady_bind (keeps_attempt keeps) (steady_attempt h) fun r => ?_
  cases r with
  | ok a => exact k a
  | error e => exact steady_metadataFault _ _

theorem steady_stepInit : Steady stepInit := steady_metadataOp keeps_mkRead steady_mkRead fun _ => by simp

theorem steady_stepReadMetadata : Steady stepReadMetadata := by
  refine steady_bind (keeps_look _) (by simp) fun _ => steady_metadataOp keeps_mbhRead steady_mbhRead fun h => ?_
  refine steady_ite (steady_metadataFault _ _) (steady_metadataOp keeps_mbReadBody steady_mbReadBody fun _ => ?_)
  simp (maxDischargeDepth := 100)

/-- `SI_READ` that answers had its 34 bytes. -/
theorem of_siRead_ok {s t : State} (h : siRead s = .ok () t) : s.brPos / 8 + Config.streamInfoLen ≤ s.input.length := by
  obtain ⟨_, u, mode, h⟩ := of_bind_ok h
  rw [notEncode, look_bind] at mode
  obtain ⟨_, rfl⟩ := of_check_ok mode
  obtain ⟨_, u, aligned, h⟩ := of_bind_ok h
  rw [readAligned, look_bind] at aligned
  obtain ⟨_, rfl⟩ := of_check_ok aligned
  rw [look_bind] at h
  obtain ⟨_, h⟩ := of_check_bind_ok h
  obtain ⟨_, u, there, _⟩ := of_bind_ok h
  unfold Config.streamInfoLen at there ⊢
  rcases starve_cases (8 * 34) s with ⟨fits, _⟩ | ⟨_, _, eos⟩ | ⟨_, _, hold⟩
  · omega
  · rw [eos] at there
    cases there
  · rw [hold] at there
    cases there

/-- A unit operation that does not answer ends the same whatever was to follow it. -/
theorem metadataOp_congr {m : Op α} {next next' : α → Op Unit} {s : State} (h : ∀ a t, m s = .ok a t → next a = next' a) :
    metadataOp m next s = metadataOp m next' s := by
  rw [metadataOp, metadataOp, look_bind, look_bind, bind_run, bind_run, attempt]
  cases run : m s with
  | ok a t => simp only [h a t run]
  | error e t =>
    cases e with
    | hold => rfl
    | issued l => rfl
    | exc e => cases e <;> rfl

/-- Bytes that are kept aside for after `SI_READ` are there if it answers. -/
theorem steady_siReadWith {next : List Byte → Unit → Op Unit} (h : ∀ body a, Steady (next body a)) :
    Steady (look (fun s => (s.input.drop (s.brPos / 8)).take Config.streamInfoLen) >>= fun body =>
      metadataOp siRead (next body)) := by
  intro l s isOpen
  have same : metadataOp siRead (next (((s.more l).input.drop ((s.more l).brPos / 8)).take Config.streamInfoLen)) s =
      metadataOp siRead (next ((s.input.drop (s.brPos / 8)).take Config.streamInfoLen)) s :=
    metadataOp_congr fun _ t run => by
      have bytes := bytes_append (of_siRead_ok run) l (s.brPos / 8)
      rw [Nat.add_sub_cancel_left] at bytes
      rw [bytes]
  have steady := steady_metadataOp keeps_siRead steady_siRead
    (h (((s.more l).input.drop ((s.more l).brPos / 8)).take Config.streamInfoLen)) l s isOpen
  rw [SteadyAt, same] at steady
  exact steady

theorem steady_stepReadStreamInfo : Steady stepReadStreamInfo := by
  refine steady_bind (keeps_look _) (by simp) fun _ => steady_metadataOp keeps_mbhRead steady_mbhRead fun h => ?_
  refine steady_ite (steady_metadataFault _ _) (steady_ite (steady_metadataFault _ _) (steady_siReadWith fun body _ => ?_))
  exact steady_metadataOp keeps_siValidate steady_siValidate fun _ => by simp

/-- What `Synced` does where there is input: one frame, and what follows from how it ended (R314, R320). -/
def syncedFrame (start : Nat) : Op Unit := do
  match ← attempt decFrame with
  | .ok _ => sequencerWork emitBlock
  | .error (.sync sub) => enterResync sub start
  | .error e =>
    if e = .endOfStream then do
      recordOnly .endOfStream start
      enterResync .truncated start
    else fatal e start

theorem stepSynced_frame {s : State} (h : s.brPos ≠ 8 * s.input.length) : stepSynced s = syncedFrame (s.brPos / 8) s := by
  rw [stepSynced, look_bind, look_bind, look_bind, if_neg h]
  rfl

theorem steady_syncedFrame (start : Nat) : Steady (syncedFrame start) := by
  refine steady_bind (keeps_attempt keeps_decFrame) (steady_attempt steady_decFrame) fun r => ?_
  split <;> simp (maxDischargeDepth := 100) [sequencerWork]

theorem steady_stepSynced : Steady stepSynced := by
  intro l s h
  by_cases atEnd : s.brPos = 8 * s.input.length
  · refine .inl ⟨s, ?_⟩
    rw [stepSynced, look_bind, look_bind, look_bind, if_pos atEnd, h.2]
    rfl
  · have there : (s.more l).brPos ≠ 8 * (s.more l).input.length := by
      have := h.1
      show s.brPos ≠ 8 * (s.input ++ l).length
      rw [List.length_append]
      omega
    rw [SteadyAt, stepSynced_frame atEnd, stepSynced_frame there]
    exact steady_syncedFrame (s.brPos / 8) l s h

theorem scanSync_append (l : List Byte) : ∀ (bs : List Byte) (i j : Nat),
    scanSync bs i = some j → scanSync (bs ++ l) i = some j
  | [], _, _, h => by cases h
  | [_], _, _, h => by cases h
  | a :: b :: rest, i, j, h => by
    rw [scanSync] at h
    rw [List.cons_append, List.cons_append, scanSync]
    split at h
    next found => rw [if_pos found, h]
    next other =>
      rw [if_neg other]
      exact scanSync_append l (b :: rest) (i + 1) j h

theorem steady_stepResync : Steady stepResync := by
  intro l s h
  cases found : scanSync (s.input.drop ((s.brPos + 7) / 8)) ((s.brPos + 7) / 8) with
  | none =>
    refine .inl ⟨s, ?_⟩
    rw [stepResync, look_bind, look_bind, look_bind, found, h.2]
    rfl
  | some j =>
    have later : scanSync ((s.more l).input.drop (((s.more l).brPos + 7) / 8)) (((s.more l).brPos + 7) / 8) = some j := by
      show scanSync ((s.input ++ l).drop ((s.brPos + 7) / 8)) ((s.brPos + 7) / 8) = some j
      rw [List.drop_append_of_le_length (by have := h.1; omega)]
      exact scanSync_append l _ _ j found
    have ends : Steady (update fun s => { endResync j (8 * j) .found s with dstate := .synced }) :=
      steady_update fun s l => by
        unfold endResync
        dsimp only
        split <;> rfl
    have run : ∀ t : State, scanSync (t.input.drop ((t.brPos + 7) / 8)) ((t.brPos + 7) / 8) = some j →
        stepResync t = update (fun s => { endResync j (8 * j) .found s with dstate := .synced }) t := fun t found => by
      rw [stepResync, look_bind, look_bind, look_bind, found]
    rw [SteadyAt, run s found, run _ later]
    exact ends l s h

theorem steady_decStep : Steady decStep := by
  refine steady_bind (keeps_needMode _) (steady_needMode _) fun _ => steady_bind (keeps_look _) (by simp) fun d => ?_
  have state : Steady (look State.dstate) := steady_look fun _ _ => rfl
  cases d with
  | init => exact steady_bind keeps_stepInit steady_stepInit fun _ => state
  | readStreamInfo => exact steady_bind keeps_stepReadStreamInfo steady_stepReadStreamInfo fun _ => state
  | readMetadata => exact steady_bind keeps_stepReadMetadata steady_stepReadMetadata fun _ => state
  | synced => exact steady_bind keeps_stepSynced steady_stepSynced fun _ => state
  | resync => exact steady_bind keeps_stepResync steady_stepResync fun _ => state
  | done => exact state
  | fatalError => exact state

/-! ### Delivery -/

theorem takeException_more (s t : State) (e : Exc) (l : List Byte) :
    (s.more l).takeException (t.more l) .read e = (s.takeException t .read e).more l := by
  cases e <;> rfl

theorem sequencerFailed_more (s : State) (e : Exc) (l : List Byte) :
    (s.more l).sequencerFailed e = (s.sequencerFailed e).more l := by
  unfold State.sequencerFailed
  cases s.mode <;> rfl

/-- A read-side operation that does not hold is delivered the same. -/
theorem deliver_more {s : State} (l : List Byte) {r : EStateM.Result Stop State Result} (h : ∀ t, r ≠ .error .hold t) :
    deliver .read (s.more l) (moreAfter l r) = (deliver .read s r).more l := by
  cases r with
  | ok a t => rfl
  | error e t =>
    cases e with
    | hold => exact absurd rfl (h t)
    | exc e => exact takeException_more s t e l
    | issued e =>
      refine Eq.trans ?_ (sequencerFailed_more (s.takeException s .read (.logic e)) (.logic e) l)
      rfl

theorem issue_live {side : Side} {op : Op Result} {s : State} (live : s.faulted = false) :
    issue side op s = .next (deliver side s (op s)) := by
  simp [issue, live, issueAlways]

/-- A read-side operation that is steady and does not end in `Hold`. -/
theorem issue_more {op : Op Result} (steady : Steady op) {s t : State} (l : List Byte) (live : s.faulted = false) (h : s.Open)
    (run : issue .read op s = .next t) (answers : t.reply ≠ some .hold) : issue .read op (s.more l) = .next (t.more l) := by
  rw [issue_live live] at run
  cases run
  rcases steady l s h with ⟨u, hold⟩ | same
  · rw [hold] at answers
    exact absurd rfl answers
  · rw [issue_live (s := s.more l) live, same]
    refine congrArg Host.Outcome.next (deliver_more l fun u hold => answers ?_)
    rw [hold]
    rfl

/-- Settles O59: every part of a decoder step that does not hold does the same when more input is there. -/
theorem laterPushesDoNotMatter : Obligations.LaterPushesDoNotMatter := by
  unfold Obligations.LaterPushesDoNotMatter
  intro s t later live _ inside noEof run notHold
  have steady : Steady (do let d ← decStep; pure (.dstate d) : Op Result) :=
    steady_bind keeps_decStep steady_decStep fun _ => steady_pure _
  have more := issue_more steady later live ⟨inside.1, noEof⟩ run notHold
  have frame := exec_frame (i := .decStep) rfl run
  rw [State.more, State.more, frame.input] at more
  exact more

end Sys2Proof.Machine

/-! PROOFS. How a unit operation of the host ends, and `RES_DECODE` issued by the host (45_residual.md R284, R295). -/

namespace Sys2Proof.Machine

variable {α : Type} {s t : State}

/-! ### A unit operation issued by the host -/

section
variable {m : Op Unit} {side : Side} (live : s.faulted = false)
include live

theorem issue_unit_ok (h : m s = .ok () t) : Answers (issue side (do m; pure .none) s) t .none :=
  issue_ok live (bind_ok h)

theorem issue_unit_exc {e : Exc} (h : m s = .error (.exc e) t) :
    issue side (do m; pure .none) s = .next (s.takeException t side e) :=
  issue_exc live (bind_error h)

/-- An operation that lacks input and has written nothing that stays. -/
theorem issue_unit_want (h : m s = .error s.want s) : Starves (issue .read (do m; pure .none) s) s := by
  constructor <;> intro e <;> rw [State.want, e] at h
  · exact issue_hold live (bind_error h)
  · exact issue_exc live (bind_error h)

/-- An operation of two parts, the first of which raises. -/
theorem issue_first_exc {x : Op α} {f : α → Op Result} {e : Exc} (h : x s = .error (.exc e) t) :
    issue side (x >>= f) s = .next (s.takeException t side e) :=
  issue_exc live (bind_error h)

end

/-- An operation that reads the input is refused in mode Encode (10_state.md R21). -/
theorem notEncode_refused (h : s.mode = .encode) : notEncode s = .error (.exc (.logic .badMode)) s := by
  simp [notEncode, h]

/-- Outside mode Encode the operation behind the check of the mode runs. -/
theorem notEncode_bind {f : Unit → Op α} (mode : s.mode ≠ .encode) : (notEncode >>= f) s = f () s :=
  bind_ok (notEncode_ok mode)

/-! ### The partition table read back -/

theorem RcEntry.choice_recode (e : RcEntry) (c : PartChoice) : (e.recode c).choice = some c := by
  cases c <;> rfl

theorem recoded_take : ∀ (cs : List PartChoice) (table : List RcEntry) (i : Nat), i ≤ table.length →
    (recoded table i cs).take i = table.take i ∧
      (((recoded table i cs).drop i).take cs.length).map RcEntry.choice = cs.map some
  | [], table, i, _ => by simp [recoded]
  | c :: cs, table, i, h => by
    have len : i + 1 ≤ (setAt table i ((table.getD i ⟨false, none, none⟩).recode c)).length := by
      simp [setAt]; omega
    obtain ⟨front, back⟩ := recoded_take cs _ (i + 1) len
    have cell : (setAt table i ((table.getD i ⟨false, none, none⟩).recode c)).take (i + 1) =
        table.take i ++ [(table.getD i ⟨false, none, none⟩).recode c] := by
      simp [setAt, List.take_append, List.length_take, Nat.min_eq_left h]
    rw [cell] at front
    have split := List.take_append_drop (i + 1) (recoded table i (c :: cs))
    rw [recoded, front] at split
    rw [recoded, ← split]
    generalize (recoded _ (i + 1) cs).drop (i + 1) = rest at back ⊢
    simp [List.length_take, Nat.min_eq_left h, RcEntry.choice_recode, back]

/-- The table that `RES_DECODE` leaves is the section's. -/
theorem tableIs_loaded {rc : RcRegs} {t : PartTable} (h : t.parts.length = 2 ^ t.porder) (hs : s.rc = rc.loaded t) :
    TableIs s t := by
  refine ⟨by rw [hs]; rfl, by rw [hs]; rfl, ?_⟩
  have table := (recoded_take t.parts rc.table 0 (Nat.zero_le _)).2
  rw [List.drop_zero, h] at table
  rw [hs]
  exact table

/-! ### `RES_DECODE` -/

section
variable {n o : Nat} (hn : s.fh.blocksize = some n) (ho : s.sf.order = some o)
include hn ho

theorem blockGeometry_ok : blockGeometry s = .ok (n, o) s := by
  rw [blockGeometry, readReg_bind, hn, written_some_bind, readReg_bind, ho, written_some_bind, pure_run]

/-- A header of the section that is refused: the bits read so far are consumed (R284). -/
theorem resDecode_refused {e : Stop} (h : readResHeader n o s = .error e t) : resDecode s = .error e t := by
  rw [resDecode, bind_ok (blockGeometry_ok hn ho)]
  exact bind_error h

end

theorem readResHeader_method {n o m : Nat} (big : 2 ≤ m) (fits : m < 4) (h : AtCursor s (natBits 2 m)) :
    readResHeader n o s = .error (.exc (.sync .badResidual)) { s with brPos := s.brPos + 2 } := by
  rw [readResHeader, bind_ok (readU_atCursor (show m < 2 ^ 2 by omega) h),
    check_bind_false _ _ _ (show ¬ m < Config.riceMethodCount from Nat.not_lt.2 big)]

theorem readResHeader_porder {n o m p : Nat} (hm : m < 2) (hp : p < 16) (bad : 8 < p ∨ n % 2 ^ p ≠ 0 ∨ n / 2 ^ p < o)
    (h : AtCursor s (natBits 2 m ++ natBits 4 p)) :
    readResHeader n o s = .error (.exc (.sync .badResidual)) { s with brPos := s.brPos + 6 } := by
  have invalid : ¬ porderValid n o p := by
    rintro ⟨h1, h2, h3⟩
    have : p ≤ 8 := h1
    omega
  rw [readResHeader, bind_ok (readU_atCursor (show m < 2 ^ 2 by omega) h.head),
    check_bind_true _ _ _ (show m < Config.riceMethodCount from hm),
    bind_ok (readU_atCursor (show p < 2 ^ 4 by omega) h.behind), check_bind_false _ _ _ invalid]

/-- Settles O36: the section's bits read back; a header that is refused leaves the bits read so far consumed. -/
theorem residualSectionIsExact : Obligations.ResidualSectionIsExact := by
  unfold Obligations.ResidualSectionIsExact
  intro s n o res t live mode hn ho
  refine ⟨fun fits h => ?_, fun m big small h => ?_, fun m p hm hp bad h => ?_⟩
  · have answers : Answers (exec .resDecode s) _ .none :=
      issue_ok live ((notEncode_bind mode).trans (bind_ok (resDecode_atCursor hn ho fits h)))
    obtain ⟨_, _, _, _, len, parts, _⟩ := fits
    refine ⟨_, answers, rfl, rfl, tableIs_loaded parts rfl, ?_, rfl⟩
    rw [← len]
    exact take_splice s.res res
  · exact issue_exc live ((notEncode_bind mode).trans (bind_error (resDecode_refused hn ho (readResHeader_method big small h))))
  · exact issue_exc live
      ((notEncode_bind mode).trans (bind_error (resDecode_refused hn ho (readResHeader_porder hm hp bad h))))

end Sys2Proof.Machine

/-! PROOFS. What an operation keeps of the state: a condition that holds before it holds after it, however it ends. -/

namespace Sys2Proof.Machine

variable {α β : Type} {b : Prop} {I : State → Prop}

/-! ### The condition and how it passes through the parts of an operation -/

/-- The outcome's state meets `I`; `b` says whether the operation may end as a sequencer whose unit operation met a `LogicError`
(60_exceptions.md R374), the state of which is not delivered. -/
def Meets (b : Prop) (I : State → Prop) : EStateM.Result Stop State α → Prop
  | .ok _ t => I t
  | .error (.issued _) _ => b
  | .error _ t => I t

/-- The operation keeps `I`. -/
def Stays (b : Prop) (I : State → Prop) (m : Op α) : Prop := ∀ s, I s → Meets b I (m s)

theorem Stays.ok {m : Op α} {a : α} {s t : State} (h : Stays b I m) (hs : I s) (run : m s = .ok a t) : I t := by
  have := h s hs
  rwa [run] at this

theorem Stays.exc {m : Op α} {e : Exc} {s t : State} (h : Stays b I m) (hs : I s) (run : m s = .error (.exc e) t) : I t := by
  have := h s hs
  rwa [run] at this

theorem Meets.mono {J : State → Prop} {r : EStateM.Result Stop State α} (h : Meets b I r) (k : ∀ s, I s → J s) : Meets b J r := by
  cases r with
  | ok a t => exact k t h
  | error e t =>
    cases e with
    | hold => exact k t h
    | exc e => exact k t h
    | issued l => exact h

/-- A part that answers where it answers, and else ends the operation, in a state that meets `I`. -/
theorem stays_bind_of {x : Op α} {f : α → Op β} (hx : Stays b I x)
    (hf : ∀ s a t, I s → x s = .ok a t → Meets b I (f a t)) : Stays b I (x >>= f) := by
  intro s hs
  have h := hx s hs
  rw [bind_run]
  cases run : x s with
  | ok a t => exact hf s a t hs run
  | error e t =>
    rw [run] at h
    cases e <;> exact h

@[simp] theorem stays_bind {x : Op α} {f : α → Op β} (hx : Stays b I x) (hf : ∀ a, Stays b I (f a)) : Stays b I (x >>= f) :=
  stays_bind_of hx fun _ a _ hs run => hf a _ (hx.ok hs run)

@[simp] theorem stays_map (g : α → β) {x : Op α} (hx : Stays b I x) : Stays b I (g <$> x) := by
  intro s hs
  have h := hx s hs
  rw [map_run]
  cases run : x s with
  | ok a t =>
    rw [run] at h
    exact h
  | error e t =>
    rw [run] at h
    cases e <;> exact h

@[simp] theorem stays_update {f : State → State} : Stays b I (update f) ↔ ∀ s, I s → I (f s) := Iff.rfl
@[simp] theorem stays_pure (a : α) : Stays b I (pure a : Op α) := fun _ h => h
@[simp] theorem stays_look (f : State → α) : Stays b I (look f) := fun _ h => h
@[simp] theorem stays_raise (e : Exc) : Stays b I (raise e : Op α) := fun _ h => h
@[simp] theorem stays_hold : Stays b I (hold : Op α) := fun _ h => h

@[simp] theorem stays_check (c : Prop) [Decidable c] (e : Exc) : Stays b I (check c e) := by
  intro s h
  unfold check
  split <;> exact h

@[simp] theorem stays_written (r : Reg α) : Stays b I (written r) := by
  intro s h
  cases r <;> exact h

@[simp] theorem stays_readEntries (l : List α) (n : Nat) : Stays b I (readEntries l n) := by
  intro s h
  unfold readEntries
  split <;> exact h

@[simp] theorem stays_readReg (f : State → Reg α) : Stays b I (readReg f) := stays_bind (stays_look f) stays_written

@[simp] theorem stays_ite {c : Prop} [Decidable c] {x y : Op α} (hx : Stays b I x) (hy : Stays b I y) :
    Stays b I (if c then x else y) := by
  split <;> assumption

/-- A part whose exception takes over what still meets `I`. -/
theorem stays_leaving {kept : State → State → State} {m : Op α} (h : Stays b I m)
    (k : ∀ s t, I s → I t → I (kept s t)) : Stays b I (leaving kept m) := by
  intro s hs
  have := h s hs
  unfold leaving
  cases run : m s with
  | ok a t => rw [run] at this; exact this
  | error e t =>
    rw [run] at this
    cases e with
    | issued l => exact this
    | hold => exact k s t hs this
    | exc e => exact k s t hs this

@[simp] theorem stays_atomically {m : Op α} (h : Stays b I m) : Stays b I (atomically m) := by
  intro s hs
  have := h s hs
  unfold atomically
  cases run : m s with
  | ok a t => rw [run] at this; exact this
  | error e t =>
    rw [run] at this
    cases e with
    | issued l => exact this
    | hold => exact hs
    | exc e => exact hs

@[simp] theorem stays_attempt (allowed : b) {m : Op α} (h : Stays b I m) : Stays b I (attempt m) := by
  intro s hs
  have := h s hs
  unfold attempt
  cases run : m s with
  | ok a t => rw [run] at this; exact this
  | error e t =>
    rw [run] at this
    cases e with
    | hold => exact this
    | issued l => exact allowed
    | exc e =>
      cases e with
      | logic l => exact allowed
      | _ => exact this

@[simp] theorem stays_asIssued (allowed : b) {m : Op α} (h : Stays b I m) : Stays b I (asIssued m) := by
  intro s hs
  have := h s hs
  unfold asIssued
  cases run : m s with
  | ok a t => rw [run] at this; exact this
  | error e t =>
    rw [run] at this
    cases e with
    | hold => exact this
    | issued l => exact allowed
    | exc e =>
      cases e with
      | logic l => exact allowed
      | _ => exact this

@[simp] theorem stays_forEach {f : α → Op Unit} (h : ∀ a, Stays b I (f a)) : ∀ l, Stays b I (forEach f l)
  | [] => stays_pure ()
  | a :: rest => stays_bind (h a) fun _ => stays_forEach h rest

@[simp] theorem stays_countUp {f : Nat → Op Unit} (h : ∀ i, Stays b I (f i)) : ∀ n i, Stays b I (countUp f n i)
  | 0, _ => stays_pure ()
  | n + 1, i => stays_bind (h i) fun _ => stays_countUp h n (i + 1)

/-! ### Parts that only read -/

@[simp] theorem stays_starve (n : Nat) : Stays b I (starve n) := by
  intro s h
  rcases starve_cases n s with ⟨_, e⟩ | ⟨_, _, e⟩ | ⟨_, _, e⟩ <;> rw [e] <;> exact h

@[simp] theorem stays_peekBits (n : Nat) : Stays b I (peekBits n) := stays_bind (stays_starve n) fun _ => stays_look _

@[simp] theorem stays_peekUnary : Stays b I peekUnary := by
  intro s h
  unfold peekUnary
  split
  · exact h
  · split <;> exact h

@[simp] theorem stays_readAligned : Stays b I readAligned := by simp [readAligned]
@[simp] theorem stays_writeAligned : Stays b I writeAligned := by simp [writeAligned]

/-! ### Conditions that do not look at the streams -/

/-- `I` does not look at the read cursor, the output, the CRCs, the hash, the residual, the seek index or `STATUS`. -/
structure Blind (I : State → Prop) : Prop where
  brPos : ∀ s p, I s → I { s with brPos := p }
  out : ∀ s bits, I s → I { s with out := bits }
  crc8 : ∀ s c, I s → I { s with crc8 := c }
  crc16 : ∀ s c, I s → I { s with crc16 := c }
  md5 : ∀ s e, I s → I { s with md5 := e }
  res : ∀ s rs, I s → I { s with res := rs }
  seek : ∀ s ps, I s → I { s with seek := ps }
  status : ∀ s w, I s → I { s with status := w }

section
variable (blind : Blind I)
include blind

@[simp] theorem stays_skipBits (n : Nat) : Stays b I (skipBits n) := fun s h => blind.brPos s _ h

@[simp] theorem stays_readBits (n : Nat) : Stays b I (readBits n) := by
  simp (maxDischargeDepth := 100) [readBits, blind]

@[simp] theorem stays_readU (n : Nat) : Stays b I (readU n) := by simp (maxDischargeDepth := 100) [readU, blind]
@[simp] theorem stays_readS (n : Nat) : Stays b I (readS n) := by simp (maxDischargeDepth := 100) [readS, blind]

@[simp] theorem stays_readUnary : Stays b I readUnary := by simp (maxDischargeDepth := 100) [readUnary, blind]
@[simp] theorem stays_readRice (k : Nat) : Stays b I (readRice k) := by simp (maxDischargeDepth := 100) [readRice, blind]
@[simp] theorem stays_readBytes (n : Nat) : Stays b I (readBytes n) := by simp (maxDischargeDepth := 100) [readBytes, blind]

@[simp] theorem stays_readCodedTail : ∀ n v, Stays b I (readCodedTail n v)
  | 0, v => stays_pure v
  | n + 1, _ => stays_bind (stays_readBits blind 8) fun _ => stays_bind (stays_check _ _) fun _ => stays_readCodedTail n _

@[simp] theorem stays_readCodedBytes (m : Nat) : Stays b I (readCodedBytes m) := by
  refine stays_bind (stays_readBits blind 8) fun _ => ?_
  dsimp only
  exact stays_ite (stays_pure _) (stays_bind (stays_check _ _) fun _ => stays_readCodedTail blind _ _)

@[simp] theorem stays_readCoded (m : Nat) : Stays b I (readCoded m) := by simp (maxDischargeDepth := 100) [readCoded, blind]

@[simp] theorem stays_emit (bits : List Bool) : Stays b I (emit bits) := fun s h => blind.out s _ h
@[simp] theorem stays_writeU (n v : Nat) : Stays b I (writeU n v) := by simp (maxDischargeDepth := 100) [writeU, blind]
@[simp] theorem stays_writeS (n : Nat) (v : Int) : Stays b I (writeS n v) := by
  simp (maxDischargeDepth := 100) [writeS, blind]
@[simp] theorem stays_writeRice (k : Nat) (r : Int) : Stays b I (writeRice k r) := by
  simp (maxDischargeDepth := 100) [writeRice, blind]
@[simp] theorem stays_writeBytes (bs : List Byte) : Stays b I (writeBytes bs) := by
  simp (maxDischargeDepth := 100) [writeBytes, blind]
@[simp] theorem stays_padOut : Stays b I padOut := by simp (maxDischargeDepth := 100) [padOut, blind]
@[simp] theorem stays_writeCoded (v : Nat) : Stays b I (writeCoded v) := by
  simp (maxDischargeDepth := 100) [writeCoded, blind]

end

/-! ### Operands -/

@[simp] theorem stays_checkWidth (n : Nat) : Stays b I (checkWidth n) := stays_check _ _
@[simp] theorem stays_checkRiceParam (k : Nat) : Stays b I (checkRiceParam k) := stays_check _ _
@[simp] theorem stays_checkByteCount (n : Nat) : Stays b I (checkByteCount n) := stays_check _ _
@[simp] theorem stays_checkCodedLimit (n : Nat) : Stays b I (checkCodedLimit n) := stays_check _ _
@[simp] theorem stays_notEncode : Stays b I notEncode := by simp [notEncode]
@[simp] theorem stays_needMode (m : Mode) : Stays b I (needMode m) := by simp [needMode]

@[simp] theorem stays_payloadBytes (n : Nat) : Stays b I (payloadBytes n) := by
  intro s h
  unfold payloadBytes
  cases s.payload <;> simp only [] <;> (try split) <;> exact h

@[simp] theorem stays_payloadSamples (c n : Nat) : Stays b I (payloadSamples c n) := by
  intro s h
  unfold payloadSamples
  cases s.payload <;> simp only [] <;> (try split) <;> exact h

@[simp] theorem stays_payloadBlocks (n : Nat) : Stays b I (payloadBlocks n) := by
  intro s h
  unfold payloadBlocks
  cases s.payload <;> simp only [] <;> (try split) <;> exact h

@[simp] theorem stays_payloadConfig : Stays b I payloadConfig := by
  intro s h
  unfold payloadConfig
  cases s.payload <;> exact h

/-! ### The parts of the unit operations that write no register a condition looks at -/

@[simp] theorem stays_hashDepth : Stays b I hashDepth := by
  intro s h
  unfold hashDepth
  cases s.mode
  · exact h
  · exact (stays_bind (stays_readReg _) fun _ => stays_pure _) s h
  · exact (stays_bind (stays_readReg _) fun _ => stays_pure _) s h

@[simp] theorem stays_readSmp (r n : Nat) : Stays b I (readSmp r n) := by
  intro s h
  unfold readSmp
  split <;> exact h

@[simp] theorem stays_mdseqCheck (bs : List MdEntry) : Stays b I (mdseqCheck bs) := by
  unfold mdseqCheck
  cases bs <;> simp (maxDischargeDepth := 100)

@[simp] theorem stays_validStreamInfo : Stays b I validStreamInfo := by simp (maxDischargeDepth := 100) [validStreamInfo]
@[simp] theorem stays_blockGeometry : Stays b I blockGeometry := by simp (maxDischargeDepth := 100) [blockGeometry]
@[simp] theorem stays_readRow (c n : Nat) : Stays b I (readRow c n) := by simp (maxDischargeDepth := 100) [readRow]
@[simp] theorem stays_codedSamples : Stays b I codedSamples := by simp (maxDischargeDepth := 100) [codedSamples]
@[simp] theorem stays_readSmpAt (c i : Nat) : Stays b I (readSmpAt c i) := stays_readReg _
@[simp] theorem stays_checkAt (bps i c : Nat) : Stays b I (checkAt bps i c) := by
  simp (maxDischargeDepth := 100) [checkAt]
@[simp] theorem stays_checkResidual (n o : Nat) : Stays b I (checkResidual n o) := by
  simp (maxDischargeDepth := 100) [checkResidual]
@[simp] theorem stays_riceParamSelect (k f c : Nat) : Stays b I (riceParamSelect k f c) := by
  simp (maxDischargeDepth := 100) [riceParamSelect]

@[simp] theorem stays_entryChoice (e : RcEntry) : Stays b I (entryChoice e) := by
  simp (maxDischargeDepth := 100) [entryChoice]

@[simp] theorem stays_entryChoices : ∀ es, Stays b I (entryChoices es)
  | [] => stays_pure _
  | _ :: rest => stays_bind (stays_entryChoice _) fun _ => stays_bind (stays_entryChoices rest) fun _ => stays_pure _

@[simp] theorem stays_checkChoice (m : Nat) (x : List Int × PartChoice) : Stays b I (checkChoice m x) := by
  unfold checkChoice
  split <;> simp

section
variable (blind : Blind I)
include blind

@[simp] theorem stays_md5UpdateBytes (bs : List Byte) : Stays b I (md5UpdateBytes bs) :=
  stays_bind (stays_look _) fun _ => stays_bind (stays_check _ _) fun _ s h => blind.md5 s _ h
@[simp] theorem stays_md5UpdatePcm : Stays b I md5UpdatePcm := by
  simp (maxDischargeDepth := 100) [md5UpdatePcm, blind]
@[simp] theorem stays_md5Final : Stays b I md5Final :=
  stays_bind (fun s h => blind.md5 s _ h) fun _ => stays_readReg _
@[simp] theorem stays_mkRead : Stays b I mkRead := by simp (maxDischargeDepth := 100) [mkRead, blind]
@[simp] theorem stays_readStreamInfo : Stays b I readStreamInfo := by
  simp (maxDischargeDepth := 100) [readStreamInfo, blind]
@[simp] theorem stays_fhBlocksize (c : Nat) : Stays b I (fhBlocksize c) := by
  simp (maxDischargeDepth := 100) [fhBlocksize, blind]
@[simp] theorem stays_fhSampleRate (c : Nat) : Stays b I (fhSampleRate c) := by
  simp (maxDischargeDepth := 100) [fhSampleRate, blind]
@[simp] theorem stays_fhFixed : Stays b I fhFixed := by simp (maxDischargeDepth := 100) [fhFixed, blind]
@[simp] theorem stays_mkWrite : Stays b I mkWrite := stays_writeBytes blind _
@[simp] theorem stays_mbhWrite (l v : Nat) : Stays b I (mbhWrite l v) := by
  simp (maxDischargeDepth := 100) [mbhWrite, blind]
@[simp] theorem stays_siWrite : Stays b I siWrite := by simp (maxDischargeDepth := 100) [siWrite, blind]
@[simp] theorem stays_writeRes (i : Nat) (r : Int) : Stays b I (writeRes i r) := fun s h => blind.res s _ h

@[simp] theorem stays_escRead (n : Nat) : Stays b I (escRead n) := by
  unfold escRead
  refine stays_ite (stays_pure _) ?_
  split <;> simp (maxDischargeDepth := 100) [blind]

@[simp] theorem stays_riceRead (k : Nat) : Stays b I (riceRead k) := by
  simp (maxDischargeDepth := 100) [riceRead, blind]

@[simp] theorem stays_readRun {one : Op Int} (h : Stays b I one) : ∀ cnt idx, Stays b I (readRun one cnt idx)
  | 0, _ => stays_pure ()
  | cnt + 1, idx => stays_bind h fun _ => stays_bind (stays_writeRes blind _ _) fun _ => stays_readRun h cnt (idx + 1)

@[simp] theorem stays_resEncode : Stays b I resEncode := by simp (maxDischargeDepth := 100) [resEncode, blind]
@[simp] theorem stays_readWasted (wf : Nat) : Stays b I (readWasted wf) := by
  simp (maxDischargeDepth := 100) [readWasted, blind]
@[simp] theorem stays_sfHeader : Stays b I sfHeader := by simp (maxDischargeDepth := 100) [sfHeader, blind]

@[simp] theorem stays_setResidual (f : State → List Int) : Stays b I (update fun s => { s with res := f s }) :=
  fun s h => blind.res s _ h

@[simp] theorem stays_lpcResidual : Stays b I lpcResidual := by
  simp (maxDischargeDepth := 100) [lpcResidual, blind, -stays_update]

@[simp] theorem stays_writeSamples (n : Nat) (xs : List Int) : Stays b I (writeSamples n xs) := by
  simp [writeSamples, blind]
@[simp] theorem stays_sfEncConstant : Stays b I sfEncConstant := by
  simp (maxDischargeDepth := 100) [sfEncConstant, blind]
@[simp] theorem stays_sfEncVerbatim : Stays b I sfEncVerbatim := by
  simp (maxDischargeDepth := 100) [sfEncVerbatim, blind]
@[simp] theorem stays_sfEncLpc : Stays b I sfEncLpc := by simp (maxDischargeDepth := 100) [sfEncLpc, blind]
@[simp] theorem stays_seekLoad (bs : List Byte) : Stays b I (seekLoad bs) :=
  stays_bind (fun s h => blind.seek s _ h) fun _ => stays_pure _

@[simp] theorem stays_readPadding : ∀ k, Stays b I (readPadding k)
  | 0 => stays_pure ()
  | k + 1 => stays_bind (stays_readU blind 1) fun _ => stays_bind (stays_check _ _) fun _ => stays_readPadding k

@[simp] theorem stays_checkFooter (start stop crc : Nat) : Stays b I (checkFooter start stop crc) := by
  refine stays_bind (fun s h => blind.crc16 s _ h) fun _ => stays_bind (stays_look _) fun _ => ?_
  exact stays_ite (stays_bind (fun s h => blind.status s _ h) fun _ => stays_raise _) (stays_pure _)

@[simp] theorem stays_frameFooter (start : Nat) : Stays b I (frameFooter start) := by
  simp (maxDischargeDepth := 100) [frameFooter, blind]
@[simp] theorem stays_frameStart : Stays b I frameStart := fun s h => blind.crc16 s _ h

end

end Sys2Proof.Machine

/-! PROOFS. The registers stay within their widths and ranges (10_state.md R31 to R39, R50, R51): every part of every operation
keeps them there. -/

namespace Sys2Proof.Machine

variable {α β : Type} {b : Prop} {N : Nat → Nat → Prop} {P : α → Prop} {Q : β → Prop}

/-! ### The register part of the invariant -/

/-- The part of the invariant that does not speak of the streams and `STATUS`, with a condition on `ENC_FRAME_NO` and `ENC_SAMPLES`. -/
structure State.RegsInv (N : Nat → Nat → Prop) (s : State) : Prop where
  rows : s.RowsWhole
  counters : s.CountersInWidth
  fh : s.fh.InWidth
  sf : s.sf.InRange
  coding : s.CodingInRange
  config : s.ConfigValid
  numbers : N s.encFrameNo s.encSamples

/-- What the register part of the invariant looks at. -/
def State.regs (s : State) :=
  (s.smp, s.fh, s.sf, s.qlp, s.qlpPrec, s.qlpShift, s.rc, s.cfg, s.encFrameNo, s.encSamples, s.si, s.mb, s.mbCount, s.resyncs,
    s.framesOk, s.samplesOk, s.encMinFs, s.encMaxFs)

/-- Writes that the register part of the invariant does not look at. -/
theorem State.RegsInv.of_regs {s t : State} (h : s.RegsInv N) (e : t.regs = s.regs) : t.RegsInv N := by
  simp only [State.regs, Prod.mk.injEq] at e
  obtain ⟨smp, fh, sf, qlp, prec, shift, rc, cfg, no, samples, si, mb, mbCount, resyncs, framesOk, samplesOk, minFs, maxFs⟩ := e
  obtain ⟨hrows, hcounters, hfh, hsf, hcoding, hconfig, hnumbers⟩ := h
  constructor
  · rwa [State.RowsWhole, smp]
  · unfold State.CountersInWidth at *
    rwa [si, mb, mbCount, resyncs, framesOk, samplesOk, samples, minFs, maxFs]
  · rwa [fh]
  · rwa [sf]
  · unfold State.CodingInRange at *
    rwa [qlp, prec, shift, rc]
  · unfold State.ConfigValid at *
    rwa [cfg]
  · rwa [no, samples]

@[simp] theorem blind_regsInv : Blind (State.RegsInv N) where
  brPos := fun _ _ h => h.of_regs rfl
  out := fun _ _ h => h.of_regs rfl
  crc8 := fun _ _ h => h.of_regs rfl
  crc16 := fun _ _ h => h.of_regs rfl
  md5 := fun _ _ h => h.of_regs rfl
  res := fun _ _ h => h.of_regs rfl
  seek := fun _ _ h => h.of_regs rfl
  status := fun _ _ h => h.of_regs rfl

/-- The answer of the operation meets `P`. -/
def Yields (N : Nat → Nat → Prop) (m : Op α) (P : α → Prop) : Prop :=
  ∀ s a t, s.RegsInv N → m s = .ok a t → P a

/-- A part whose answer has a property that the rest needs. -/
theorem stays_bind_yields {x : Op α} {f : α → Op β} (hx : Stays b (State.RegsInv N) x) (px : Yields N x P)
    (hf : ∀ a, P a → Stays b (State.RegsInv N) (f a)) : Stays b (State.RegsInv N) (x >>= f) :=
  stays_bind_of hx fun s a t hs run => hf a (px s a t hs run) t (hx.ok hs run)

theorem yields_bind {x : Op α} {f : α → Op β} (hx : Stays False (State.RegsInv N) x) (px : Yields N x P)
    (hf : ∀ a, P a → Yields N (f a) Q) : Yields N (x >>= f) Q := by
  intro s c u hs h
  obtain ⟨a, t, run, rest⟩ := of_bind_ok h
  exact hf a (px s a t hs run) t c u (hx.ok hs run) rest

/-- A part whose answer does not matter. -/
theorem yields_skip {x : Op α} {f : α → Op β} (hx : Stays False (State.RegsInv N) x) (hf : ∀ a, Yields N (f a) Q) :
    Yields N (x >>= f) Q :=
  yields_bind (P := fun _ => True) hx (fun _ _ _ _ _ => True.intro) fun a _ => hf a

theorem yields_pure {a : α} (h : P a) : Yields N (pure a : Op α) P := by
  intro s c t _ e
  cases e
  exact h

theorem yields_mono {m : Op α} {P' : α → Prop} (h : Yields N m P) (k : ∀ a, P a → P' a) : Yields N m P' :=
  fun s a t hs run => k a (h s a t hs run)

theorem yields_ite {c : Prop} [Decidable c] {x y : Op α} (hx : c → Yields N x P) (hy : ¬ c → Yields N y P) :
    Yields N (if c then x else y) P := by
  split
  next h => exact hx h
  next h => exact hy h

theorem yields_check {c : Prop} [Decidable c] {e : Exc} : Yields N (check c e) fun _ => c :=
  fun _ _ _ _ h => (of_check_ok h).1

theorem yields_written {r : Reg α} (h : ∀ v, r = some v → P v) : Yields N (written r) P :=
  fun _ v _ _ e => h v (of_written_ok e).1

/-- What a register holds is within the bounds the invariant gives it. -/
theorem yields_readReg {f : State → Reg α} (h : ∀ s v, s.RegsInv N → f s = some v → P v) : Yields N (readReg f) P := by
  intro s v t hs e
  rw [readReg_run] at e
  exact h s v hs (of_written_ok e).1

/-! ### The numbers that fields stand for -/

theorem foldl_bits_lt (bs : List Bool) (acc : Nat) :
    bs.foldl (fun acc b => 2 * acc + b.toNat) acc < (acc + 1) * 2 ^ bs.length := by
  induction bs generalizing acc with
  | nil => simp
  | cons b bs ih =>
    rw [List.foldl_cons, List.length_cons, Nat.pow_succ']
    have bit : b.toNat ≤ 1 := b.toNat_le
    refine (ih _).trans_le ?_
    rw [← Nat.mul_assoc]
    exact Nat.mul_le_mul_right _ (by omega)

theorem bitsNat_lt (bs : List Bool) : bitsNat bs < 2 ^ bs.length := by
  have h := foldl_bits_lt bs 0
  rwa [Nat.zero_add, Nat.one_mul] at h

theorem memRead_lt (bs : List Byte) (p n : Nat) : memRead bs p n < 2 ^ n :=
  (bitsNat_lt _).trans_le (Nat.pow_le_pow_right (by omega) (List.length_take_le _ _))

theorem of_readBits_ok {n v : Nat} {s t : State} (h : readBits n s = .ok v t) : v < 2 ^ n := by
  rw [readBits] at h
  obtain ⟨a, u, peek, rest⟩ := of_bind_ok h
  rw [peekBits] at peek
  obtain ⟨_, w, _, look⟩ := of_bind_ok peek
  cases look
  cases rest
  exact memRead_lt _ _ _

theorem yields_readBits (n : Nat) : Yields N (readBits n) (· < 2 ^ n) := fun _ _ _ _ h => of_readBits_ok h

theorem yields_readU (n : Nat) : Yields N (readU n) (· < 2 ^ n) := by
  unfold readU
  refine yields_ite (fun h => yields_pure (by simp [h])) fun _ => yields_ite (fun _ => yields_readBits n) fun big => ?_
  refine yields_bind (by simp) (yields_readBits _) fun hi h1 => yields_bind (by simp) (yields_readBits _) fun lo h2 =>
    yields_pure ?_
  have split : 2 ^ n = 2 ^ (n - 32) * 2 ^ 32 := by rw [← Nat.pow_add]; congr 1; omega
  rw [split]
  generalize 2 ^ (n - 32) = m at *
  omega

/-- Two's complement of a field fits its width (00_scope.md R13). -/
theorem fitsS_sext {n v : Nat} (n1 : 1 ≤ n) (h : v < 2 ^ n) : fitsS (sext n v) n := by
  obtain ⟨m, rfl⟩ : ∃ m, n = m + 1 := ⟨n - 1, by omega⟩
  have cast : ((2 ^ m : Nat) : Int) = 2 ^ m := by norm_cast
  have hi : (2 : Int) ^ (m + 1) = 2 * 2 ^ m := by ring
  rw [Nat.pow_succ] at h
  unfold sext fitsS
  rw [Nat.add_sub_cancel, hi]
  generalize (2 : Int) ^ m = p at *
  generalize 2 ^ m = q at *
  refine ⟨by omega, ?_⟩
  split <;> omega

theorem yields_readS {n : Nat} (n1 : 1 ≤ n) (n32 : n ≤ 32) : Yields N (readS n) (fitsS · n) := by
  unfold readS
  refine yields_ite (fun h => by omega) fun _ => yields_ite (fun _ => ?_) fun h => absurd n32 h
  exact yields_bind (by simp) (yields_readBits n) fun v h => yields_pure (fitsS_sext n1 h)

theorem yields_readCodedTail : ∀ (n v : Nat), Yields N (readCodedTail n v) (· < (v + 1) * 64 ^ n)
  | 0, v => yields_pure (by simp)
  | n + 1, v => by
    refine yields_skip (by simp) fun c => yields_skip (by simp) fun _ => yields_mono (yields_readCodedTail n _) fun a h => ?_
    have : v * 64 + c % 64 + 1 ≤ (v + 1) * 64 := by omega
    calc a < (v * 64 + c % 64 + 1) * 64 ^ n := h
      _ ≤ (v + 1) * 64 * 64 ^ n := Nat.mul_le_mul_right _ this
      _ = (v + 1) * 64 ^ (n + 1) := by ring

theorem yields_readCodedBytes (m : Nat) (m7 : m ≤ 7) : Yields N (readCodedBytes m) (· < 2 ^ 36) := by
  refine yields_bind (by simp) (yields_readBits 8) fun b0 h0 => ?_
  dsimp only
  generalize leadOnes (BitVec.ofNat 8 b0) = len
  refine yields_ite (fun _ => yields_pure (by omega)) fun ne => ?_
  refine yields_bind (by simp) yields_check fun _ hc => yields_mono (yields_readCodedTail _ _) fun a h => h.trans_le ?_
  have range : 2 ≤ len ∧ len ≤ 7 := by omega
  have low : b0 % 2 ^ (7 - len) + 1 ≤ 2 ^ (7 - len) := Nat.mod_lt _ (by positivity)
  refine (Nat.mul_le_mul_right _ low).trans ?_
  obtain ⟨h2, h7⟩ := range
  interval_cases len <;> norm_num

/-! ### Marker, metadata, frame header -/

section
variable {s : State} (h : s.RegsInv N)
include h

theorem State.RegsInv.withFh {fh : FhRegs} (k : fh.InWidth) : State.RegsInv N { s with fh := fh } :=
  ⟨h.rows, h.counters, k, h.sf, h.coding, h.config, h.numbers⟩

theorem State.RegsInv.withSf {sf : SfRegs} (k : sf.InRange) : State.RegsInv N { s with sf := sf } :=
  ⟨h.rows, h.counters, h.fh, k, h.coding, h.config, h.numbers⟩

/-- The counters and stream-header registers take values of their widths. -/
theorem State.RegsInv.withCounters {t : State} (k : t.CountersInWidth)
    (e : { t with
      si := s.si, mb := s.mb, mbCount := s.mbCount, resyncs := s.resyncs, framesOk := s.framesOk, samplesOk := s.samplesOk
      encMinFs := s.encMinFs, encMaxFs := s.encMaxFs }.regs = s.regs) : t.RegsInv N := by
  have old := h.of_regs e
  exact ⟨old.rows, k, old.fh, old.sf, old.coding, old.config, old.numbers⟩

end

theorem bsCodeFor_lt (bs : Nat) : (bsCodeFor bs).code < 2 ^ 4 := by
  unfold bsCodeFor
  split <;> (try split) <;> simp

theorem enumeratedRate_lt {sr c : Nat} (h : enumeratedRate sr = some c) : c < 2 ^ 4 := by
  unfold enumeratedRate at h
  split at h <;> cases h <;> decide

theorem srCodeFor_lt (sr : Nat) : (srCodeFor sr).code < 2 ^ 4 := by
  unfold srCodeFor
  split
  next h => exact enumeratedRate_lt h
  next =>
    split
    · simp
    · split
      · simp
      · split <;> simp

theorem bpsCodeFor_lt (bps : Nat) : bpsCodeFor bps < 2 ^ 3 := by
  unfold bpsCodeFor
  split <;> decide

theorem blocksizeOfCode_below {c : Nat} (h : c < 2 ^ 4) : Below (blocksizeOfCode c) (2 ^ 17) := by
  unfold Below blocksizeOfCode
  interval_cases c <;> simp

theorem sampleRateOfCode_below (c : Nat) : Below (sampleRateOfCode c) (2 ^ 20) := by
  unfold sampleRateOfCode
  split <;> simp

theorem bpsOfCode_below {c d : Nat} (h : d ≤ 32) : Below (bpsOfCode c d) 33 := by
  unfold bpsOfCode
  split <;> simp
  omega

theorem channelsOf_lt {ca : Nat} : channelsOf ca < 9 := by
  unfold channelsOf
  split <;> omega

@[simp] theorem stays_mbhRead_regs : Stays b (State.RegsInv N) mbhRead := by
  refine stays_bind stays_notEncode fun _ => stays_bind stays_readAligned fun _ => stays_bind (stays_starve _) fun _ => ?_
  refine stays_bind (by simp) fun last => stays_bind_yields (by simp) (yields_readU 7) fun type h7 =>
    stays_bind_yields (by simp) (yields_readU 24) fun length h24 => ?_
  refine stays_bind (stays_update.2 fun s h => ?_) fun _ => stays_pure _
  obtain ⟨hsi, _, hcount, rest⟩ := h.counters
  have mb : ∀ k : MbHeader, some ⟨last = 1, type, length⟩ = some k → k.type < 2 ^ 7 ∧ k.length < 2 ^ 24 := by
    intro k e
    cases e
    exact ⟨h7, h24⟩
  split
  next small => exact h.withCounters ⟨hsi, mb, small, rest⟩ rfl
  next => exact h.withCounters ⟨hsi, mb, BitVec.isLt _, rest⟩ rfl

theorem yields_readStreamInfo : Yields N readStreamInfo StreamInfo.InWidth := by
  refine yields_bind (by simp) (yields_readU 16) fun minBs h1 => yields_bind (by simp) (yields_readU 16) fun maxBs h2 =>
    yields_bind (by simp) (yields_readU 24) fun minFs h3 => yields_bind (by simp) (yields_readU 24) fun maxFs h4 =>
    yields_bind (by simp) (yields_readU 20) fun rate h5 => yields_bind (by simp) (yields_readU 3) fun ch h6 =>
    yields_bind (by simp) (yields_readU 5) fun bps h7 => yields_bind (by simp) (yields_readU 4) fun hi h8 =>
    yields_bind (by simp) (yields_readU 32) fun lo h9 => yields_skip (by simp) fun md5 => yields_pure ?_
  exact ⟨h1, h2, h3, h4, h5, by dsimp only; omega, by dsimp only; omega, by dsimp only; omega, by dsimp only; omega,
    by dsimp only; omega⟩

/-- The stream-header registers take values of their widths. -/
theorem State.RegsInv.withSi {s : State} (h : s.RegsInv N) {si : StreamInfo} (k : si.InWidth) :
    State.RegsInv N { s with si := some si } := by
  obtain ⟨_, rest⟩ := h.counters
  refine h.withCounters ⟨?_, rest⟩ rfl
  intro si' e
  cases e
  exact k

@[simp] theorem stays_siRead_regs : Stays b (State.RegsInv N) siRead := by
  refine stays_bind stays_notEncode fun _ => stays_bind stays_readAligned fun _ => stays_bind (stays_look _) fun _ =>
    stays_bind (stays_check _ _) fun _ => stays_bind (stays_starve _) fun _ => ?_
  exact stays_bind_yields (by simp) yields_readStreamInfo fun si k s h => h.withSi k

@[simp] theorem stays_siValidate_regs : Stays b (State.RegsInv N) siValidate := by
  refine stays_bind (stays_look _) fun _ => stays_bind (stays_check _ _) fun _ => stays_bind (stays_readReg _) fun _ =>
    stays_bind (stays_check _ _) fun _ s h => ?_
  exact h.of_regs rfl

@[simp] theorem stays_mbReadBody_regs : Stays b (State.RegsInv N) mbReadBody := by
  refine stays_bind stays_notEncode fun _ => stays_bind (stays_readReg _) fun _ => stays_bind (by simp) fun _ =>
    stays_bind (fun s h => ?_) fun _ => stays_pure _
  exact h.of_regs rfl

@[simp] theorem stays_headerStart_regs : Stays b (State.RegsInv N) headerStart := fun s h =>
  blind_regsInv.crc8 _ _ (h.withFh (fh := { s.fh with valid := false }) h.fh)

/-- The fixed fields of a frame header are within their widths. -/
structure FhFixed.InWidth (h : FhFixed) : Prop where
  reserved : h.reserved < 2
  variable_ : h.variable_ < 2
  bsCode : h.bsCode < 2 ^ 4
  srCode : h.srCode < 2 ^ 4
  chanAssign : h.chanAssign < 2 ^ 4
  bpsCode : h.bpsCode < 2 ^ 3

theorem yields_fhFixed : Yields N fhFixed FhFixed.InWidth := by
  refine yields_skip (by simp) fun sync => yields_ite (fun _ => yields_skip (by simp) fun _ => ?_) fun _ =>
    yields_skip (by simp) fun _ => ?_
  · intro s a t _ h
    cases h
  · refine yields_bind (by simp) (yields_readU 1) fun r1 h1 => yields_bind (by simp) (yields_readU 1) fun v h2 =>
      yields_bind (by simp) (yields_readU 4) fun bsc h3 => yields_bind (by simp) (yields_readU 4) fun src h4 =>
      yields_bind (by simp) (yields_readU 4) fun ca h5 => yields_bind (by simp) (yields_readU 3) fun bpc h6 =>
      yields_bind (by simp) (yields_readU 1) fun r2 h7 => yields_skip (by simp) fun _ => yields_pure ?_
    exact ⟨Nat.or_lt_two_pow (n := 1) h1 h7, h2, h3, h4, h5, h6⟩

theorem yields_fhBlocksize {c : Nat} (h : c < 2 ^ 4) : Yields N (fhBlocksize c) (Below · (2 ^ 17)) := by
  refine yields_ite (fun _ => ?_) fun _ => yields_ite (fun _ => ?_) fun _ => yields_pure (blocksizeOfCode_below h)
  · exact yields_bind (by simp) (yields_readU 8) fun v hv => yields_pure (below_some.2 (by omega))
  · exact yields_bind (by simp) (yields_readU 16) fun v hv => yields_pure (below_some.2 (by omega))

theorem yields_validStreamInfo : Yields N validStreamInfo StreamInfo.InWidth :=
  yields_skip (by simp) fun _ => yields_skip (by simp) fun _ => yields_readReg fun _ v h e => h.counters.1 v e

theorem yields_fhSampleRate (c : Nat) : Yields N (fhSampleRate c) (· < 2 ^ 20) := by
  refine yields_ite (fun _ => ?_) fun _ => yields_ite (fun _ => ?_) fun _ => yields_ite (fun _ => ?_) fun _ =>
    yields_ite (fun _ => ?_) fun _ => yields_written (sampleRateOfCode_below c)
  · exact yields_bind (by simp) (yields_readU 8) fun v hv => yields_pure (by omega)
  · exact yields_mono (yields_readU 16) fun v hv => by omega
  · exact yields_bind (by simp) (yields_readU 16) fun v hv => yields_pure (by omega)
  · exact yields_bind (by simp) yields_validStreamInfo fun si ⟨_, _, _, _, rate, _⟩ => yields_pure rate

@[simp] theorem stays_fhParse_regs : Stays b (State.RegsInv N) fhParse := by
  refine stays_bind stays_notEncode fun _ => stays_bind stays_readAligned fun _ => stays_bind stays_headerStart_regs fun _ =>
    stays_bind (stays_look _) fun start => stays_bind_yields (by simp) yields_fhFixed fun h hh => ?_
  refine stays_bind_yields (by simp) (yields_readCodedBytes _ (by split <;> omega)) fun num hnum => ?_
  refine stays_bind_yields (by simp) (yields_fhBlocksize hh.bsCode) fun bs hbs => ?_
  refine stays_bind_yields (by simp) (yields_fhSampleRate h.srCode) fun sr hsr => ?_
  refine stays_bind (stays_look _) fun _ => stays_bind (by simp) fun crc => ?_
  refine stays_bind (fun s k => blind_regsInv.crc8 _ _ (k.withFh (fh := { s.fh with crc8 := some (BitVec.ofNat 8 crc) }) k.fh)) fun _ =>
    stays_bind (stays_look _) fun _ => ?_
  refine stays_ite (stays_bind (fun s k => blind_regsInv.status s _ k) fun _ => stays_raise _) fun s k => ?_
  obtain ⟨_, _, _, _, _, _, _, _, channels, bps, _, first⟩ := k.fh
  exact k.withFh ⟨below_some.2 hh.variable_, below_some.2 hh.bsCode, below_some.2 hh.srCode, below_some.2 hh.chanAssign,
    below_some.2 hh.bpsCode, below_some.2 hnum, hbs, below_some.2 hsr, channels, bps, below_some.2 hh.reserved, first⟩

@[simp] theorem stays_fhValidate_regs : Stays b (State.RegsInv N) fhValidate := by
  refine stays_bind_yields (by simp) yields_validStreamInfo fun si ⟨_, hmax, _, _, _, _, _, _, hbps, _⟩ => ?_
  refine stays_bind (stays_readReg _) fun _ => stays_bind (stays_check _ _) fun _ => stays_bind (stays_readReg _) fun _ =>
    stays_bind (stays_check _ _) fun _ => stays_bind (stays_readReg _) fun bs => stays_bind (stays_check _ _) fun _ =>
    stays_bind (stays_readReg _) fun ca => stays_bind (stays_check _ _) fun _ => stays_bind (stays_readReg _) fun bpc =>
    stays_bind (stays_check _ _) fun _ => stays_bind_yields (stays_written _) (yields_written (bpsOfCode_below hbps)) fun d hd => ?_
  refine stays_bind (fun s k => ?_) fun _ => stays_bind (stays_readReg _) fun _ => stays_bind (stays_check _ _) fun _ =>
    stays_bind_yields (P := (· < 2)) (stays_readReg _) (yields_readReg fun _ v k e => k.fh.1 v e) fun var hvar =>
    stays_bind_yields (P := (· < 2 ^ 36)) (stays_readReg _) (yields_readReg fun s v k e => ?_) fun num hnum s k => ?_
  · obtain ⟨h1, h2, h3, h4, h5, h6, h7, h8, _, _, h11, h12⟩ := k.fh
    exact k.withFh ⟨h1, h2, h3, h4, h5, h6, h7, h8, below_some.2 channelsOf_lt, below_some.2 hd, h11, h12⟩
  · obtain ⟨_, _, _, _, _, number, _⟩ := k.fh
    exact number v e
  · obtain ⟨h1, h2, h3, h4, h5, h6, h7, h8, h9, h10, h11, _⟩ := k.fh
    refine k.withFh ⟨h1, h2, h3, h4, h5, h6, h7, h8, h9, h10, h11, below_some.2 ?_⟩
    split
    · omega
    · calc num * si.maxBlocksize < 2 ^ 36 * 2 ^ 16 := Nat.mul_lt_mul'' hnum hmax
        _ < 2 ^ 64 := by norm_num

@[simp] theorem stays_fhWrite_regs : Stays b (State.RegsInv N) fhWrite := by
  refine stays_bind (by simp) fun _ => stays_bind (stays_readReg _) fun bs => stays_bind (stays_check _ _) fun _ =>
    stays_bind (stays_readReg _) fun ca => stays_bind (stays_check _ _) fun _ => stays_bind (stays_readReg _) fun num =>
    stays_bind (stays_readReg _) fun var => stays_bind (stays_check _ _) fun _ => stays_bind (stays_readReg _) fun sr =>
    stays_bind (stays_readReg _) fun bps => stays_bind (stays_look _) fun start => ?_
  refine stays_bind (fun s k => k.withFh (fh := { s.fh with start := some start }) k.fh) fun _ => ?_
  refine stays_bind (by simp) fun _ => stays_bind (by simp) fun _ => stays_bind (by simp) fun _ => stays_bind (by simp) fun _ =>
    stays_bind (by simp) fun _ => stays_bind (by simp) fun _ => stays_bind (by simp) fun _ => stays_bind (by simp) fun _ =>
    stays_bind (by simp) fun _ => stays_bind (by simp) fun _ => stays_bind (by simp) fun _ => ?_
  refine stays_bind (fun s k => blind_regsInv.crc8 s _ k) fun _ => stays_bind (stays_look _) fun sum =>
    stays_bind (by simp) fun _ s k => ?_
  obtain ⟨h1, _, _, h4, _, h6, h7, h8, h9, h10, h11, h12⟩ := k.fh
  exact k.withFh ⟨h1, below_some.2 (bsCodeFor_lt bs), below_some.2 (srCodeFor_lt sr), h4, below_some.2 (bpsCodeFor_lt bps), h6,
    h7, h8, h9, h10, h11, h12⟩

end Sys2Proof.Machine

/-! PROOFS. The choices of the encoder are inside their contracts, whatever the configuration functions are: the Rice parameter
(45_residual.md R290), the partitioning (R291, R292), the subframe (44_predictor.md R271). -/

namespace Sys2Proof.Machine

/-! ### The Rice parameter (R290) -/

/-- `best` is the least parameter of least cost among those below `k`, with its cost. -/
def BestBelow (run : List Int) (k : Nat) (best : Nat × Nat) : Prop :=
  best.1 < k ∧ best.2 = riceCost best.1 run ∧ (∀ j, j < k → best.2 ≤ riceCost j run) ∧ ∀ j, j < best.1 → best.2 < riceCost j run

theorem bestRiceFrom_best (run : List Int) : ∀ (fuel k : Nat) (best : Nat × Nat), BestBelow run k best →
    BestBelow run (k + fuel) (bestRiceFrom run fuel k best)
  | 0, _, _, h => h
  | fuel + 1, k, best, h => by
    obtain ⟨below, cost, least, first⟩ := h
    rw [bestRiceFrom, show k + (fuel + 1) = k + 1 + fuel by omega]
    refine bestRiceFrom_best run fuel (k + 1) _ ?_
    split
    next better =>
      refine ⟨by simp, rfl, fun j hj => ?_, fun j hj => better.trans_le (least j hj)⟩
      rcases Nat.lt_succ_iff_lt_or_eq.1 hj with lt | rfl
      · exact (better.trans_le (least j lt)).le
      · exact Nat.le_refl _
    next notBetter =>
      refine ⟨by omega, cost, fun j hj => ?_, first⟩
      rcases Nat.lt_succ_iff_lt_or_eq.1 hj with lt | rfl
      · exact least j lt
      · exact Nat.not_lt.1 notBetter

/-- The reference parameter is the least one of least cost (R290). -/
theorem bestRice_best (kmax : Nat) (run : List Int) : BestBelow run (kmax + 1) (bestRice kmax run) := by
  rw [Nat.add_comm]
  refine bestRiceFrom_best run kmax 1 _ ⟨Nat.one_pos, rfl, fun j hj => ?_, fun j hj => absurd hj (Nat.not_lt_zero j)⟩
  rw [Nat.lt_one_iff.1 hj]

/-! ### Escaped partitions (R288) -/

theorem escFits_iff (nb : Nat) (r : Int) : escFits nb r = true ↔ zz r < 2 ^ nb := by
  simp [escFits, Config.escRawForm]

theorem zz_lt_of_range {r : Int} (h1 : -(2 ^ 30) ≤ r) (h2 : r < 2 ^ 30) : zz r < 2 ^ 31 := by
  unfold zz
  split <;> omega

theorem leastWidthFrom_le (run : List Int) : ∀ (fuel nb : Nat), leastWidthFrom run fuel nb ≤ nb + fuel
  | 0, _ => Nat.le_refl _
  | fuel + 1, nb => by
    rw [leastWidthFrom]
    split
    · omega
    · have := leastWidthFrom_le run fuel (nb + 1)
      omega

theorem leastWidthFrom_fits {run : List Int} : ∀ (fuel nb : Nat), (∀ r ∈ run, escFits (nb + fuel) r = true) →
    ∀ r ∈ run, escFits (leastWidthFrom run fuel nb) r = true
  | 0, _, h => h
  | fuel + 1, nb, h => by
    rw [leastWidthFrom]
    split
    next fits => exact fits
    next => exact leastWidthFrom_fits fuel (nb + 1) (by rwa [Nat.add_right_comm])

theorem leastWidthFrom_least {run : List Int} : ∀ (fuel nb k : Nat), nb ≤ k → (∀ r ∈ run, escFits k r = true) →
    leastWidthFrom run fuel nb ≤ k
  | 0, _, _, le, _ => le
  | fuel + 1, nb, k, le, h => by
    rw [leastWidthFrom]
    split
    next => exact le
    next unfit =>
      refine leastWidthFrom_least fuel (nb + 1) k ?_ h
      rcases Nat.lt_or_eq_of_le le with lt | rfl
      · exact lt
      · exact absurd h unfit

/-- The least raw width holds an escapable partition (R288). -/
theorem leastRawWidth_fits {run : List Int} (method : Nat) (h : escapable run) :
    choiceFits method run (.esc (leastRawWidth run)) = true := by
  have small : leastRawWidth run ≤ Config.escWidthMax := (leastWidthFrom_le run _ 0).trans_eq (Nat.zero_add _)
  have fits : ∀ r ∈ run, escFits (leastRawWidth run) r = true :=
    leastWidthFrom_fits Config.escWidthMax 0 fun r hr => (escFits_iff _ r).2 (zz_lt_of_range (h r hr).1 (h r hr).2)
  simp only [choiceFits, Bool.and_eq_true, decide_eq_true_eq, List.all_eq_true]
  exact ⟨small, fits⟩

/-! ### The partitioning (R291, R292) -/

/-- The reference choice can be written and obeys the bound (R292). -/
theorem choiceOk_refChoice (method : Nat) (run : List Int) : choiceOk method run (refChoice method run) = true := by
  obtain ⟨below, cost, _, _⟩ := bestRice_best (paramMax method) run
  unfold refChoice
  dsimp only
  split
  next h =>
    simp only [choiceOk, Bool.and_eq_true, decide_eq_true_eq]
    exact ⟨leastRawWidth_fits method h.1, fun _ => Nat.le_refl _⟩
  next h =>
    simp only [choiceOk, choiceFits, Bool.and_eq_true, decide_eq_true_eq]
    refine ⟨Nat.lt_succ_iff.1 below, fun esc => ?_⟩
    have : ¬ Config.escWidthBits + run.length * leastRawWidth run < (bestRice (paramMax method) run).2 := fun lt => h ⟨esc, lt⟩
    simp only [partSize]
    omega

/-- What the contract of a partitioning says. -/
structure TableChosen (cfg : EncConfig) (n o : Nat) (res : List Int) (t : PartTable) : Prop where
  method : t.method = cfg.method
  valid : porderValid n o t.porder
  parts : t.parts.length = 2 ^ t.porder
  each : ∀ x ∈ (partitions n o t.porder res).zip t.parts, choiceOk t.method x.1 x.2 = true

theorem tableOk_iff {cfg : EncConfig} {n o : Nat} {res : List Int} {t : PartTable} :
    tableOk cfg n o res t = true ↔ TableChosen cfg n o res t := by
  simp only [tableOk, Bool.and_eq_true, decide_eq_true_eq, List.all_eq_true]
  exact ⟨fun ⟨⟨⟨method, valid⟩, parts⟩, each⟩ => ⟨method, valid, parts, each⟩,
    fun ⟨method, valid, parts, each⟩ => ⟨⟨⟨method, valid⟩, parts⟩, each⟩⟩

theorem tableChosen_refTable {cfg : EncConfig} {n o p : Nat} {res : List Int} (valid : porderValid n o p) :
    TableChosen cfg n o res (refTable cfg.method n o p res) := by
  refine ⟨rfl, valid, by simp only [refTable, List.length_map, partitions_length], fun x hx => ?_⟩
  rw [refTable, ← List.map_prod_left_eq_zip, List.mem_map] at hx
  obtain ⟨run, _, rfl⟩ := hx
  exact choiceOk_refChoice _ run

theorem tableChosen_bestTableFrom {cfg : EncConfig} {n o : Nat} {res : List Int} : ∀ (fuel p : Nat) (best : PartTable),
    TableChosen cfg n o res best → TableChosen cfg n o res (bestTableFrom cfg.method n o res fuel p best)
  | 0, _, _, h => h
  | fuel + 1, p, best, h => by
    rw [bestTableFrom]
    refine tableChosen_bestTableFrom fuel (p + 1) _ ?_
    split
    next better => exact tableChosen_refTable better.1
    next => exact h

theorem porderValid_zero {n o : Nat} (h : o ≤ n) : porderValid n o 0 := ⟨Nat.zero_le _, Nat.mod_one n, by simpa using h⟩

theorem tableChosen_refPartitioning {cfg : EncConfig} {n o : Nat} {res : List Int} (h : o ≤ n) :
    TableChosen cfg n o res (refPartitioning cfg n o res) :=
  tableChosen_bestTableFrom _ _ _ (tableChosen_refTable (porderValid_zero h))

/-- Whatever partitioning function the implementation has, the table is inside the contract (R291). -/
theorem tableChosen_selectPartitioning (sel : Selections) {cfg : EncConfig} {n o : Nat} {res : List Int} (h : o ≤ n) :
    TableChosen cfg n o res (selectPartitioning sel cfg n o res) := by
  unfold selectPartitioning
  split
  next t _ =>
    split
    next ok => exact tableOk_iff.1 ok
    next => exact tableChosen_refPartitioning h
  next => exact tableChosen_refPartitioning h

theorem choiceFits_of_choiceOk {method : Nat} {run : List Int} {c : PartChoice} (h : choiceOk method run c = true) :
    choiceFits method run c = true := by
  rw [choiceOk, Bool.and_eq_true] at h
  exact h.1

/-- Every choice of the table belongs to a partition. -/
theorem TableChosen.fits {cfg : EncConfig} {n o : Nat} {res : List Int} {t : PartTable} (h : TableChosen cfg n o res t)
    {c : PartChoice} (mem : c ∈ t.parts) : ∃ run, choiceFits t.method run c = true := by
  have snd : ((partitions n o t.porder res).zip t.parts).map Prod.snd = t.parts :=
    List.map_snd_zip (by rw [partitions_length, h.parts])
  rw [← snd, List.mem_map] at mem
  obtain ⟨x, hx, rfl⟩ := mem
  exact ⟨x.1, choiceFits_of_choiceOk (h.each x hx)⟩

/-! ### The subframe (R271) -/

theorem smallest_mem (size : SfChoice → Nat) : ∀ (l : List SfChoice) (best : SfChoice), smallest size l best ∈ best :: l
  | [], _ => by simp [smallest]
  | c :: rest, best => by
    rw [smallest]
    split
    · exact List.mem_cons_of_mem _ (smallest_mem size rest c)
    · rcases List.mem_cons.1 (smallest_mem size rest best) with h | h
      · rw [h]
        exact List.mem_cons_self
      · exact List.mem_cons_of_mem _ (List.mem_cons_of_mem _ h)

theorem subframeOk_verbatim (cfg : EncConfig) (depth : Nat) (xs : List Int) : subframeOk cfg depth xs (.verbatim 0) = true := by
  have wasted : wastedOk depth xs 0 := .inl rfl
  simp [subframeOk, choiceWasted, choiceResidual, wasted]

theorem subframeOk_refSubframe (sel : Selections) (cfg : EncConfig) (depth : Nat) (xs : List Int) :
    subframeOk cfg depth xs (refSubframe sel cfg depth xs) = true := by
  unfold refSubframe
  split
  next => exact subframeOk_verbatim cfg depth xs
  next c rest h =>
    have mem := smallest_mem (choiceSize refPartitioning cfg depth xs) rest c
    rw [← h] at mem
    exact (List.mem_filter.1 mem).2

/-- Whatever selection function the implementation has, the subframe is inside the contract (R271). -/
theorem subframeOk_selectSubframe (sel : Selections) (cfg : EncConfig) (depth : Nat) (xs : List Int) :
    subframeOk cfg depth xs (selectSubframe sel cfg depth xs) = true := by
  unfold selectSubframe
  split
  next c _ =>
    split
    next ok => exact ok
    next => exact subframeOk_refSubframe sel cfg depth xs
  next => exact subframeOk_refSubframe sel cfg depth xs

/-- What the contract of `lpc_analyze` says (R262). -/
structure LpcInRange (cfg : EncConfig) (n : Nat) (r : LpcResult) : Prop where
  order1 : 1 ≤ r.coefs.length
  order32 : r.coefs.length ≤ 32
  orderMax : r.coefs.length ≤ cfg.maxLpcOrder
  orderBlock : r.coefs.length ≤ n
  shift : r.shift ≤ 15
  coefs : ∀ q ∈ r.coefs, fitsS q cfg.qlpPrec

theorem lpcInRange_of_lpcOk {cfg : EncConfig} {n : Nat} {r : LpcResult} (h : lpcOk cfg n r = true) : LpcInRange cfg n r := by
  simp only [lpcOk, Bool.and_eq_true, decide_eq_true_eq, List.all_eq_true] at h
  obtain ⟨⟨h1, h32, hmax, hn, hshift⟩, coefs⟩ := h
  exact ⟨h1, h32, hmax, hn, hshift, coefs⟩

theorem analyzeLpc_inRange {sel : Selections} {cfg : EncConfig} {xs : List Int} {r : LpcResult}
    (h : analyzeLpc sel cfg xs = some r) : LpcInRange cfg xs.length r := by
  unfold analyzeLpc at h
  split at h
  next =>
    split at h
    next ok => cases h; exact lpcInRange_of_lpcOk ok
    next => cases h
  next => cases h

/-- What the contract of `select_subframe` says. -/
structure SubframeChosen (cfg : EncConfig) (depth : Nat) (xs : List Int) (c : SfChoice) : Prop where
  wasted : wastedOk depth xs (choiceWasted c)
  residual : ∀ r ∈ choiceResidual xs c, residualOk r
  constant : choiceType c = .constant → ∀ x ∈ xs, x = xs.headD 0
  fixed : ∀ w o, c = .fixed w o → o ≤ 4 ∧ o ≤ xs.length
  lpc : ∀ w r, c = .lpc w r → LpcInRange cfg xs.length r

theorem subframeChosen (sel : Selections) (cfg : EncConfig) (depth : Nat) (xs : List Int) :
    SubframeChosen cfg depth xs (selectSubframe sel cfg depth xs) := by
  have ok := subframeOk_selectSubframe sel cfg depth xs
  generalize selectSubframe sel cfg depth xs = c at ok
  simp only [subframeOk, Bool.and_eq_true, decide_eq_true_eq, List.all_eq_true] at ok
  obtain ⟨⟨wasted, residual⟩, form⟩ := ok
  refine ⟨wasted, residual, fun e => ?_, fun w o e => ?_, fun w r e => ?_⟩
  · cases c <;> cases e
    exact of_decide_eq_true form
  · subst e
    exact of_decide_eq_true form
  · subst e
    exact lpcInRange_of_lpcOk form

/-- The order of the chosen predictor is at most 32, and at most the block size. -/
theorem SubframeChosen.order_le {cfg : EncConfig} {depth : Nat} {xs : List Int} {c : SfChoice} (h : SubframeChosen cfg depth xs c) :
    choiceOrder c ≤ 32 ∧ choiceOrder c ≤ xs.length := by
  cases c with
  | constant w => exact ⟨Nat.zero_le _, Nat.zero_le _⟩
  | verbatim w => exact ⟨Nat.zero_le _, Nat.zero_le _⟩
  | fixed w o =>
    obtain ⟨h4, hn⟩ := h.fixed w o rfl
    exact ⟨h4.trans (by omega), hn⟩
  | lpc w r => exact ⟨(h.lpc w r rfl).order32, (h.lpc w r rfl).orderBlock⟩

/-- The wasted bits leave at least one bit of the depth. -/
theorem SubframeChosen.wasted_lt {cfg : EncConfig} {depth : Nat} {xs : List Int} {c : SfChoice} (h : SubframeChosen cfg depth xs c)
    (pos : 0 < depth) : choiceWasted c < depth := by
  rcases h.wasted with zero | ⟨_, lt, _⟩
  · omega
  · exact lt

end Sys2Proof.Machine

/-! PROOFS. The residual coder, the predictor and the selections keep the registers within their ranges (10_state.md R34 to R36,
R38). -/

namespace Sys2Proof.Machine

variable {b : Prop} {N : Nat → Nat → Prop}

/-! ### The residual coder -/

theorem setAt_length_le {α : Type} {l : List α} {i k : Nat} (v : α) (hl : l.length ≤ k) (hi : i < k) :
    (setAt l i v).length ≤ k := by
  simp only [setAt, List.length_append, List.length_take, List.length_cons, List.length_drop]
  omega

theorem mem_setAt {α : Type} {l : List α} {i : Nat} {v x : α} (h : x ∈ setAt l i v) : x = v ∨ x ∈ l := by
  rw [setAt, List.mem_append, List.mem_cons] at h
  rcases h with h | h | h
  · exact .inr (List.mem_of_mem_take h)
  · exact .inl h
  · exact .inr (List.mem_of_mem_drop h)

/-- An entry of the partition table is within the ranges of 10_state.md R36. -/
def RcEntry.InWidth (e : RcEntry) : Prop := Below e.param 31 ∧ Below e.raw 32

theorem RcRegs.InWidth.getD {rc : RcRegs} (h : rc.InWidth) (i : Nat) : (rc.table.getD i ⟨false, none, none⟩).InWidth := by
  obtain ⟨_, _, _, entries⟩ := h
  rw [List.getD_eq_getElem?_getD]
  cases e : rc.table[i]? with
  | none => exact ⟨below_none _, below_none _⟩
  | some x => exact entries x (List.mem_of_getElem? e)

section
variable {s : State} (h : s.RegsInv N)
include h

/-- The residual-coder registers take values of their ranges. -/
theorem State.RegsInv.withRc {rc : RcRegs} (k : rc.InWidth) : State.RegsInv N { s with rc := rc } := by
  obtain ⟨prec, shift, len, qlp, _⟩ := h.coding
  exact ⟨h.rows, h.counters, h.fh, h.sf, ⟨prec, shift, len, qlp, k⟩, h.config, h.numbers⟩

/-- One entry of the table takes values of their ranges. -/
theorem State.RegsInv.withEntry {i : Nat} {e : RcEntry} (hi : i < 256) (k : e.InWidth) :
    State.RegsInv N { s with rc := { s.rc with table := setAt s.rc.table i e } } := by
  obtain ⟨_, _, _, _, method, porder, len, entries⟩ := h.coding
  refine h.withRc ⟨method, porder, setAt_length_le e len hi, fun x hx => ?_⟩
  rcases mem_setAt hx with rfl | old
  · exact k
  · exact entries x old

/-- The rows of `SMP` are as many as before. -/
theorem State.RegsInv.withSmp {rows : List (List Int)} (k : rows.length = s.smp.length) :
    State.RegsInv N { s with smp := rows } :=
  ⟨k.trans h.rows, h.counters, h.fh, h.sf, h.coding, h.config, h.numbers⟩

/-- The coefficient file takes values of its ranges. -/
theorem State.RegsInv.withQlp {qlp : List Int} {prec shift : Reg Nat} (len : qlp.length ≤ 32) (fits : ∀ q ∈ qlp, fitsS q 15)
    (hp : Below prec 16) (hs : Below shift 16) : State.RegsInv N { s with qlp := qlp, qlpPrec := prec, qlpShift := shift } := by
  obtain ⟨_, _, _, _, rc⟩ := h.coding
  exact ⟨h.rows, h.counters, h.fh, h.sf, ⟨hp, hs, len, fits, rc⟩, h.config, h.numbers⟩

end

/-- A choice whose register is within its range. -/
def choiceInWidth : PartChoice → Prop
  | .rice k => k < 31
  | .esc nb => nb < 32

theorem RcEntry.InWidth.recode {e : RcEntry} (h : e.InWidth) {c : PartChoice} (k : choiceInWidth c) : (e.recode c).InWidth := by
  cases c with
  | rice p => exact ⟨below_some.2 k, h.2⟩
  | esc nb => exact ⟨h.1, below_some.2 k⟩

theorem stays_writeEntry_regs {i : Nat} {c : PartChoice} (hi : i < 256) (k : choiceInWidth c) :
    Stays b (State.RegsInv N) (writeEntry i c) := by
  intro s h
  obtain ⟨_, _, _, _, rc⟩ := h.coding
  exact h.withEntry hi ((rc.getD i).recode k)

theorem stays_readPartition_regs {m i : Nat} (hm : m < 2) (hi : i < 256) (cnt idx : Nat) :
    Stays b (State.RegsInv N) (readPartition m i cnt idx) := by
  refine stays_bind_yields (by simp) (yields_readU _) fun f hf => ?_
  have width : paramWidth m = 4 + m := rfl
  have code : escapeCode m = 15 + 16 * m := rfl
  rw [width] at hf
  split
  next =>
    refine stays_bind_yields (by simp) (yields_readU Config.escWidthBits) fun nb hnb => ?_
    exact stays_bind (stays_writeEntry_regs hi hnb) fun _ => by simp
  next param =>
    rw [code] at param
    have small : f < 31 := by
      obtain rfl | rfl : m = 0 ∨ m = 1 := by omega
      · omega
      · simp only [Nat.reduceAdd, Nat.reducePow] at hf; omega
    exact stays_bind (stays_writeEntry_regs hi small) fun _ => by simp

theorem stays_readPartitions_regs {m : Nat} (hm : m < 2) (n o p : Nat) : ∀ (left i idx : Nat), i + left ≤ 256 →
    Stays b (State.RegsInv N) (readPartitions n o m p left i idx)
  | 0, _, _, _ => stays_pure ()
  | left + 1, i, idx, h =>
    stays_bind (stays_readPartition_regs hm (by omega) _ _) fun _ => stays_readPartitions_regs hm n o p left _ _ (by omega)

/-- The method and partition order that `RES_DECODE` accepts. -/
theorem yields_readResHeader (n o : Nat) : Yields N (readResHeader n o) fun x => x.1 < 2 ∧ x.2 ≤ 8 := by
  intro s a t h e
  obtain ⟨m, s1, _, e⟩ := of_bind_ok e
  obtain ⟨hm, e⟩ := of_check_bind_ok e
  obtain ⟨p, s2, _, e⟩ := of_bind_ok e
  obtain ⟨hp, e⟩ := of_check_bind_ok e
  cases e
  exact ⟨hm, hp.1⟩

@[simp] theorem stays_readResHeader_regs (n o : Nat) : Stays b (State.RegsInv N) (readResHeader n o) := by
  refine stays_bind (by simp) fun m => stays_bind_yields (stays_check _ _) yields_check fun _ hm => stays_bind (by simp) fun p =>
    stays_bind_yields (stays_check _ _) yields_check fun _ hp => stays_bind (stays_update.2 fun s h => ?_) fun _ => stays_pure _
  obtain ⟨_, _, _, _, _, _, table⟩ := h.coding
  exact h.withRc ⟨below_some.2 hm, below_some.2 (Nat.lt_succ_of_le hp.1), table⟩

@[simp] theorem stays_resDecode_regs : Stays b (State.RegsInv N) resDecode := by
  refine stays_bind stays_blockGeometry fun x => ?_
  refine stays_bind_yields (by simp) (yields_readResHeader x.1 x.2) fun y ⟨hm, hp⟩ => ?_
  refine stays_readPartitions_regs hm _ _ _ _ _ _ ?_
  rw [Nat.zero_add]
  exact Nat.pow_le_pow_right (by omega) hp

/-! ### The predictor -/

@[simp] theorem stays_writeSmp_regs (c i : Nat) (v : Int) : Stays b (State.RegsInv N) (writeSmp c i v) := fun _ h =>
  h.withSmp (List.length_modify _ _ _)

@[simp] theorem stays_writeRow_regs (c : Nat) (vs : List Int) : Stays b (State.RegsInv N) (writeRow c vs) := fun _ h =>
  h.withSmp (List.length_modify _ _ _)

@[simp] theorem stays_readSamples_regs (c bps : Nat) : ∀ cnt i, Stays b (State.RegsInv N) (readSamples c bps cnt i)
  | 0, _ => stays_pure ()
  | cnt + 1, _ => stays_bind (by simp) fun _ => stays_bind (stays_writeSmp_regs _ _ _) fun _ => stays_readSamples_regs c bps cnt _

@[simp] theorem stays_sfDecConstant_regs : Stays b (State.RegsInv N) sfDecConstant := by
  simp (maxDischargeDepth := 100) [sfDecConstant]
@[simp] theorem stays_sfDecVerbatim_regs : Stays b (State.RegsInv N) sfDecVerbatim := by
  simp (maxDischargeDepth := 100) [sfDecVerbatim]
@[simp] theorem stays_fixedRestore_regs : Stays b (State.RegsInv N) fixedRestore := by
  simp (maxDischargeDepth := 100) [fixedRestore]
@[simp] theorem stays_lpcRestore_regs : Stays b (State.RegsInv N) lpcRestore := by
  simp (maxDischargeDepth := 100) [lpcRestore]
@[simp] theorem stays_sfDecFixed_regs : Stays b (State.RegsInv N) sfDecFixed := by
  simp (maxDischargeDepth := 100) [sfDecFixed]

/-- A value that fits a precision fits the coefficient file (10_state.md R35). -/
theorem fitsS_mono {v : Int} {m n : Nat} (h : fitsS v m) (le : m ≤ n) : fitsS v n := by
  obtain ⟨h0, h1, h2⟩ := h
  have pow : (2 : Int) ^ (m - 1) ≤ 2 ^ (n - 1) := pow_le_pow_right₀ (by norm_num) (by omega)
  exact ⟨by omega, by omega, by omega⟩

theorem stays_readCoefs_regs {prec : Nat} (p1 : 1 ≤ prec) (p15 : prec ≤ 15) : ∀ (cnt j : Nat), j + cnt ≤ 32 →
    Stays b (State.RegsInv N) (readCoefs prec cnt j)
  | 0, _, _ => stays_pure ()
  | cnt + 1, j, le => by
    refine stays_bind_yields (by simp) (yields_readS p1 (by omega)) fun q hq => stays_bind (stays_update.2 fun s h => ?_)
      fun _ => stays_readCoefs_regs p1 p15 cnt (j + 1) (by omega)
    obtain ⟨hp, hs, len, fits, _⟩ := h.coding
    refine h.withQlp (setAt_length_le q len (by omega)) (fun x hx => ?_) hp hs
    rcases mem_setAt hx with rfl | old
    · exact fitsS_mono hq p15
    · exact fits x old

@[simp] theorem stays_sfDecLpc_regs : Stays b (State.RegsInv N) sfDecLpc := by
  refine stays_bind (stays_readReg _) fun n => stays_bind (stays_readReg _) fun c => stays_bind (stays_readReg _) fun bps =>
    stays_bind_yields (P := (· < 33)) (stays_readReg _) (yields_readReg fun _ v h e => h.sf.1 v e) fun o ho => ?_
  refine stays_bind (stays_check _ _) fun _ => stays_bind (by simp) fun _ => stays_bind (by simp) fun p =>
    stays_bind_yields (stays_check _ _) yields_check fun _ hp => ?_
  have p15 : p < 15 := hp
  refine stays_bind (stays_update.2 fun s h => ?_) fun _ =>
    stays_bind_yields (by simp) (yields_readS (n := Config.qlpShiftBits) (by decide) (by decide)) fun shift hshift =>
    stays_bind (stays_check _ _) fun _ => stays_bind (stays_update.2 fun s h => ?_) fun _ =>
    stays_bind (stays_readCoefs_regs (by omega) (by omega) _ _ (by omega)) fun _ => by simp (maxDischargeDepth := 100)
  · obtain ⟨_, hs, len, fits, _⟩ := h.coding
    exact h.withQlp len fits (below_some.2 (by omega)) hs
  · obtain ⟨hp, _, len, fits, _⟩ := h.coding
    have lim : shift < 2 ^ 4 := hshift.2.2
    exact h.withQlp len fits hp (below_some.2 (by omega))

@[simp] theorem stays_finishSubframe_regs (c n bps w : Nat) : Stays b (State.RegsInv N) (finishSubframe c n bps w) := by
  simp (maxDischargeDepth := 100) [finishSubframe]

theorem sfTypeOf_order {t : Nat} (ht : t < 2 ^ 6) {type : SfType} {o : Nat} (h : sfTypeOf t = some (type, o)) : o < 33 := by
  unfold sfTypeOf at h
  split at h
  · cases h; omega
  · split at h
    · cases h; omega
    · split at h
      · cases h; omega
      · split at h
        · cases h; omega
        · cases h

theorem stays_setSfType_regs {t : Nat} (ht : t < 2 ^ 6) : Stays b (State.RegsInv N) (setSfType t) := by
  unfold setSfType
  split
  next type o e =>
    refine stays_bind (stays_update.2 fun s h => ?_) fun _ => stays_pure _
    obtain ⟨_, rest⟩ := h.sf
    exact h.withSf ⟨below_some.2 (sfTypeOf_order ht e), rest⟩
  next => exact stays_raise _

@[simp] theorem stays_sfBody_regs (t : SfType) : Stays b (State.RegsInv N) (sfBody t) := by cases t <;> simp [sfBody]

theorem sideBit_le (ca c : Nat) : sideBit ca c ≤ 1 := by
  unfold sideBit
  split <;> omega

/-- The six type bits are within their width. -/
theorem yields_sfHeader : Yields N sfHeader fun x => x.1 < 2 ^ 6 :=
  yields_skip (by simp) fun _ => yields_skip (by simp) fun _ => yields_bind (by simp) (yields_readU 6) fun _ ht =>
    yields_skip (by simp) fun _ => yields_pure ht

@[simp] theorem stays_sfDec_regs (c : Nat) : Stays b (State.RegsInv N) (sfDec c) := by
  refine stays_bind (stays_look _) fun _ => stays_bind (stays_check _ _) fun _ =>
    stays_bind_yields (P := (· < 9)) (stays_readReg _) (yields_readReg fun s v h e => ?_) fun ch hch =>
    stays_bind_yields (stays_check _ _) yields_check fun _ hc => stays_bind (stays_readReg _) fun n =>
    stays_bind_yields (P := (· < 33)) (stays_readReg _) (yields_readReg fun s v h e => ?_) fun bps hbps =>
    stays_bind (stays_readReg _) fun ca => ?_
  · obtain ⟨_, _, _, _, _, _, _, _, channels, _⟩ := h.fh
    exact channels v e
  · obtain ⟨_, _, _, _, _, _, _, _, _, depth, _⟩ := h.fh
    exact depth v e
  · dsimp only
    have side := sideBit_le ca c
    refine stays_bind_yields (by simp) yields_sfHeader fun x ht => stays_bind (by simp) fun w =>
      stays_bind_yields (stays_check _ _) yields_check fun _ hw => stays_bind (stays_update.2 fun s h => ?_) fun _ =>
      stays_bind (stays_setSfType_regs ht) fun _ => by simp (maxDischargeDepth := 100)
    obtain ⟨order, _⟩ := h.sf
    refine h.withSf ⟨order, below_some.2 (by omega), fun d e => ?_, below_some.2 (by omega)⟩
    cases e
    omega

@[simp] theorem stays_fixedResidual_regs (o : Nat) : Stays b (State.RegsInv N) (fixedResidual o) := by
  refine stays_bind_yields (stays_check _ _) yields_check fun _ ho => stays_bind (stays_readReg _) fun n =>
    stays_bind (stays_check _ _) fun _ => stays_bind (by simp) fun xs => ?_
  refine stays_bind (stays_update.2 fun s h => ?_) fun _ => stays_pure _
  have small : o < 33 := Nat.lt_of_le_of_lt (show o ≤ 4 from ho) (by omega)
  obtain ⟨_, rest⟩ := h.sf
  exact blind_regsInv.res _ _ (h.withSf (sf := { s.sf with order := some o }) ⟨below_some.2 small, rest⟩)

@[simp] theorem stays_sfEncFixed_regs : Stays b (State.RegsInv N) sfEncFixed := by
  simp (maxDischargeDepth := 100) [sfEncFixed]

/-! ### The selections -/

/-- The bounds that `ENC_INIT` checks (47_encoder.md R342). -/
structure ConfigAccepted (c : EncConfig) : Prop where
  channels1 : 1 ≤ c.channels
  channels8 : c.channels ≤ 8
  bps4 : 4 ≤ c.bps
  bps32 : c.bps ≤ 32
  rate1 : 1 ≤ c.sampleRate
  rateMax : c.sampleRate ≤ 1048575
  minBlocksize1 : 1 ≤ c.minBlocksize
  minBlocksizeMax : c.minBlocksize ≤ c.maxBlocksize
  maxBlocksizeMax : c.maxBlocksize ≤ 65535
  blocksizeMin : c.minBlocksize ≤ c.blocksize
  blocksizeMax : c.blocksize ≤ c.maxBlocksize
  totalSamples : c.totalSamples < 2 ^ 36
  maxLpcOrder : c.maxLpcOrder ≤ 32
  qlpPrec1 : 1 ≤ c.qlpPrec
  qlpPrec15 : c.qlpPrec ≤ 15
  maxPorder : c.maxPorder ≤ 8
  method : c.method < 2

theorem accepted_of_configError {c : EncConfig} (h : configError c = none) : ConfigAccepted c := by
  unfold configError at h
  split at h
  · cases h
  next ch =>
  split at h
  · cases h
  next depth =>
  split at h
  · cases h
  next rate =>
  split at h
  · cases h
  next blocks =>
  split at h
  · cases h
  next block =>
  split at h
  · cases h
  next params =>
  obtain ⟨ch1, ch8⟩ := not_not.1 ch
  obtain ⟨d4, d32⟩ := not_not.1 depth
  obtain ⟨r1, rmax⟩ := not_not.1 rate
  obtain ⟨b1, b2, b3⟩ := not_not.1 blocks
  obtain ⟨b4, b5⟩ := not_not.1 block
  obtain ⟨p1, p2, p3, p4, p5, p6⟩ := not_not.1 params
  exact ⟨ch1, ch8, d4, d32, r1, rmax, b1, b2, b3, b4, b5, p1, p2, p3, p4, p5, p6⟩

theorem yields_cfg : Yields N (readReg State.cfg) ConfigAccepted :=
  yields_readReg fun _ _ h e => accepted_of_configError (h.config _ e)

theorem stays_writeTable_regs (param : Nat → Reg Nat → Fin 31) (raw : Nat → Reg Nat → Fin 32) :
    ∀ (cs : List PartChoice) (i : Nat), i + cs.length ≤ 256 → (∀ c ∈ cs, choiceInWidth c) →
      Stays b (State.RegsInv N) (writeTable param raw cs i)
  | [], _, _, _ => stays_pure ()
  | c :: rest, i, len, ok => by
    rw [List.length_cons] at len
    refine stays_bind (stays_update.2 fun s h => ?_) fun _ =>
      stays_writeTable_regs param raw rest (i + 1) (by omega) fun x hx => ok x (List.mem_cons_of_mem _ hx)
    have width := ok c List.mem_cons_self
    refine h.withEntry (by omega) ?_
    cases c with
    | rice k => exact ⟨below_some.2 width, below_some.2 (raw i _).isLt⟩
    | esc nb => exact ⟨below_some.2 (param i _).isLt, below_some.2 width⟩

/-- A choice that a partition of a method can be written with is within the ranges of the table. -/
theorem inWidth_of_choiceFits {m : Nat} (hm : m < 2) {run : List Int} {c : PartChoice} (h : choiceFits m run c = true) :
    choiceInWidth c := by
  cases c with
  | rice k =>
    have := choiceFits_rice h
    show k < 31
    omega
  | esc nb => exact Nat.lt_succ_of_le (choiceFits_esc h).1

@[simp] theorem stays_partSelect_regs (sel : Selections) : Stays b (State.RegsInv N) (partSelect sel) := by
  refine stays_bind (stays_needMode _) fun _ => stays_bind_yields (stays_readReg _) yields_cfg fun cfg hcfg => ?_
  refine stays_bind stays_blockGeometry fun x => stays_bind_yields (stays_check _ _) yields_check fun _ ho =>
    stays_bind (stays_look _) fun res => stays_bind (stays_readEntries _ _) fun run => ?_
  dsimp only at ho ⊢
  have chosen := tableChosen_selectPartitioning sel (cfg := cfg) (res := run) ho
  generalize selectPartitioning sel cfg x.1 x.2 run = t at chosen
  have method : t.method < 2 := chosen.method ▸ hcfg.method
  have p8 : t.porder ≤ 8 := chosen.valid.1
  refine stays_bind (stays_update.2 fun s h => ?_) fun _ => stays_bind (stays_writeTable_regs _ _ _ _ ?_ ?_) fun _ => stays_pure _
  · obtain ⟨_, _, _, _, _, _, table⟩ := h.coding
    exact h.withRc ⟨below_some.2 method, below_some.2 (by omega), table⟩
  · rw [chosen.parts, Nat.zero_add]
    exact Nat.pow_le_pow_right (by omega) p8
  · intro c mem
    obtain ⟨_, fits⟩ := chosen.fits mem
    exact inWidth_of_choiceFits method fits

theorem stays_setPredictor_regs {cfg : EncConfig} {n : Nat} {r : LpcResult} (hcfg : ConfigAccepted cfg) (range : LpcInRange cfg n r) :
    Stays b (State.RegsInv N) (setPredictor cfg.qlpPrec r) := by
  intro s h
  have p15 := hcfg.qlpPrec15
  have order := range.order32
  have shift := range.shift
  obtain ⟨_, rest⟩ := h.sf
  obtain ⟨_, _, len, fits, _⟩ := h.coding
  have withOrder := h.withSf (sf := { s.sf with order := some r.coefs.length }) ⟨below_some.2 (by omega), rest⟩
  refine withOrder.withQlp (qlp := overwrite s.qlp r.coefs) (prec := some cfg.qlpPrec) (shift := some r.shift) ?_ (fun q hq => ?_)
    (below_some.2 (by omega)) (below_some.2 (by omega))
  · simp only [overwrite, List.length_append, List.length_drop]
    omega
  · rcases List.mem_append.1 hq with new | old
    · exact fitsS_mono (range.coefs q new) p15
    · exact fits q (List.mem_of_mem_drop old)

@[simp] theorem stays_lpcAnalyze_regs (sel : Selections) : Stays b (State.RegsInv N) (lpcAnalyze sel) := by
  refine stays_bind_yields (stays_readReg _) yields_cfg fun cfg hcfg => stays_bind (by simp) fun xs => ?_
  split
  next => exact stays_pure _
  next r e => exact stays_bind (stays_setPredictor_regs hcfg (analyzeLpc_inRange e)) fun _ => stays_pure _

@[simp] theorem stays_sfSelect_regs (sel : Selections) (c : Nat) : Stays b (State.RegsInv N) (sfSelect sel c) := by
  refine stays_bind (stays_needMode _) fun _ => stays_bind_yields (stays_readReg _) yields_cfg fun cfg hcfg =>
    stays_bind_yields (P := (· < 9)) (stays_readReg _) (yields_readReg fun s v h e => ?_) fun ch hch =>
    stays_bind_yields (stays_check _ _) yields_check fun _ hc => stays_bind (stays_readReg _) fun n =>
    stays_bind (stays_readReg _) fun ca => stays_bind (by simp) fun xs => ?_
  · obtain ⟨_, _, _, _, _, _, _, _, channels, _⟩ := h.fh
    exact channels v e
  · have side := sideBit_le ca c
    have depth4 := hcfg.bps4
    have depth32 := hcfg.bps32
    have chosen := subframeChosen sel cfg (cfg.bps + sideBit ca c) xs
    dsimp only
    generalize selectSubframe sel cfg (cfg.bps + sideBit ca c) xs = choice at chosen ⊢
    have wasted := chosen.wasted_lt (by omega)
    have order := chosen.order_le.1
    refine stays_bind (stays_update.2 fun s h => h.withSf ⟨below_some.2 (by omega), below_some.2 (by omega), fun d e => ?_,
      below_some.2 (by omega)⟩) fun _ => ?_
    · cases e
      omega
    · cases choice with
      | constant w => simp
      | verbatim w => simp
      | fixed w o => simp (maxDischargeDepth := 100)
      | lpc w r =>
        exact stays_bind (stays_setPredictor_regs hcfg (chosen.lpc w r rfl)) fun _ => by simp (maxDischargeDepth := 100)

@[simp] theorem stays_stereoSelect_regs (sel : Selections) : Stays b (State.RegsInv N) (stereoSelect sel) := by
  refine stays_bind (stays_needMode _) fun _ => stays_bind (stays_readReg _) fun _ => stays_bind (stays_check _ _) fun _ =>
    stays_bind (stays_readReg _) fun _ => stays_bind (stays_readReg _) fun _ => stays_bind (by simp) fun _ =>
    stays_bind (by simp) fun _ => stays_bind (stays_update.2 fun s h => ?_) fun _ => stays_pure _
  exact ⟨h.rows, h.counters, h.fh, ⟨below_none _, below_none _, (fun _ e => by cases e), below_none _⟩,
    ⟨below_none _, below_none _, by simp, by simp, below_none _, below_none _, by simp [RcRegs.reset], by simp [RcRegs.reset]⟩,
    h.config, h.numbers⟩

end Sys2Proof.Machine

/-! PROOFS. The sequencers and every instruction keep the registers within their ranges, and every step keeps the invariant of a
session. -/

namespace Sys2Proof.Machine

variable {α : Type} {b : Prop} {N : Nat → Nat → Prop}

/-! ### The encoder -/

theorem provisionalInfo_inWidth {c : EncConfig} (h : ConfigAccepted c) : (provisionalInfo c).InWidth := by
  obtain ⟨h1, h2, h3, h4, h5, h6, h7, h8, h9, h10, h11, h12, _⟩ := h
  refine ⟨?_, ?_, ?_, ?_, ?_, ?_, ?_, ?_, ?_, ?_⟩ <;> simp only [provisionalInfo] <;> omega

@[simp] theorem stays_encoderFails_regs (e : Exc) : Stays b (State.RegsInv N) (encoderFails e : Op Unit) :=
  stays_bind (fun _ h => h.of_regs rfl) fun _ => stays_raise e

@[simp] theorem stays_encInit_regs : Stays True (State.RegsInv N) encInit := by
  refine stays_bind (stays_needMode _) fun _ => stays_bind (stays_look _) fun _ => stays_bind (stays_check _ _) fun _ =>
    stays_bind stays_payloadConfig fun c => ?_
  split
  next => exact stays_encoderFails_regs _
  next ok =>
    refine stays_asIssued True.intro (stays_bind (stays_update.2 fun s h => ?_) fun _ => stays_bind (by simp) fun _ =>
      stays_bind (by simp) fun _ => stays_bind (by simp) fun _ => stays_update.2 fun s h => h.of_regs rfl)
    have info := h.withSi (provisionalInfo_inWidth (accepted_of_configError ok))
    exact ⟨info.rows, info.counters, info.fh, info.sf, info.coding, fun k e => by cases e; exact ok, info.numbers⟩

@[simp] theorem stays_chDecorrFwd_regs (ca : Nat) : Stays b (State.RegsInv N) (chDecorrFwd ca) := by
  refine stays_bind_yields (stays_check _ _) yields_check fun _ hca => stays_bind (stays_readReg _) fun channels =>
    stays_bind (stays_check _ _) fun _ => stays_bind (stays_readReg _) fun n => ?_
  have tail : Stays b (State.RegsInv N) (update fun s => { s with fh := { s.fh with chanAssign := some ca } }) := by
    refine stays_update.2 fun s h => ?_
    obtain ⟨h1, h2, h3, _, rest⟩ := h.fh
    exact h.withFh ⟨h1, h2, h3, below_some.2 (by omega), rest⟩
  split
  next => exact stays_bind (by simp) fun _ => stays_bind (by simp) fun _ => stays_bind (by simp) fun _ => stays_bind (by simp) fun _ => tail
  next => exact tail

@[simp] theorem stays_sfEncode_regs (t : SfType) : Stays b (State.RegsInv N) (sfEncode t) := by cases t <;> simp [sfEncode]

@[simp] theorem stays_encodeSubframe_regs (sel : Selections) (c : Nat) : Stays b (State.RegsInv N) (encodeSubframe sel c) := by
  simp (maxDischargeDepth := 100) [encodeSubframe]

/-- Frame assembly, where the numbers it writes into the header fit (R345). -/
theorem stays_assembleFrame_regs (sel : Selections) (fits : ∀ f k, N f k → f < 2 ^ 36 ∧ k < 2 ^ 36) :
    Stays b (State.RegsInv N) (assembleFrame sel) := by
  refine stays_bind (stays_look _) fun start => stays_bind (stays_readReg _) fun cfg =>
    stays_bind (stays_update.2 fun s h => ?_) fun _ => stays_bind (by simp) fun _ => stays_bind (stays_readReg _) fun channels =>
    stays_bind (by simp) fun _ => stays_bind (by simp) fun _ => stays_bind (stays_look _) fun _ =>
    stays_bind (fun s h => blind_regsInv.crc16 s _ h) fun _ => by simp (maxDischargeDepth := 100)
  obtain ⟨frames, samples⟩ := fits _ _ h.numbers
  obtain ⟨_, h2, h3, h4, h5, _, rest⟩ := h.fh
  refine h.withFh ?_
  split
  · exact ⟨below_some.2 (by omega), h2, h3, h4, h5, below_some.2 frames, rest⟩
  · exact ⟨below_some.2 (by omega), h2, h3, h4, h5, below_some.2 samples, rest⟩

/-- The numbers of the frame to come fit (R343). -/
def Numbered (n frames samples : Nat) : Prop := frames < 2 ^ 31 ∧ samples + n < 2 ^ 36

theorem State.RegsInv.numbered {s : State} {n : Nat} (h : s.RegsInv N) (k : Numbered n s.encFrameNo s.encSamples) :
    s.RegsInv (Numbered n) := ⟨h.rows, h.counters, h.fh, h.sf, h.coding, h.config, k⟩

/-- The counters after a frame (R343). -/
theorem State.RegsInv.countFrame {s : State} {n : Nat} (h : s.RegsInv (Numbered n)) (len : Nat) :
    State.RegsInv (fun _ _ => True) (countFrame n len s) := by
  obtain ⟨hsi, hmb, hmbc, hres, hfr, hsa, _, hmin, hmax⟩ := h.counters
  obtain ⟨_, samples⟩ := h.numbers
  have min' : min s.encMinFs len < 2 ^ 24 := by omega
  unfold Machine.countFrame
  split
  next small =>
    exact ⟨h.rows, ⟨hsi, hmb, hmbc, hres, hfr, hsa, samples, min', by dsimp only; omega⟩, h.fh, h.sf, h.coding, h.config,
      True.intro⟩
  next =>
    exact ⟨h.rows, ⟨hsi, hmb, hmbc, hres, hfr, hsa, samples, min', BitVec.isLt _⟩, h.fh, h.sf, h.coding, h.config, True.intro⟩

theorem loadRows_length : ∀ (rows vs : List (List Int)), (loadRows rows vs).length = rows.length
  | [], _ => by simp [loadRows]
  | _ :: _, [] => by simp [loadRows]
  | _ :: rows, _ :: vs => by simp [loadRows, loadRows_length rows vs]

/-- The channel assignment that `ENC_BLOCK` takes (R343). -/
def chooseAssignment (sel : Selections) (cfg : EncConfig) : Op Nat :=
  if cfg.channels = 2 ∧ cfg.stereoTrial = true then stereoSelect sel else pure (cfg.channels - 1)

/-- What `ENC_BLOCK` does with a block it accepts (R343), answering the frame's length. -/
def encodeBlock (sel : Selections) (cfg : EncConfig) (block : PcmIn) (rest : List PcmIn) : Op Nat := do
  update fun s =>
    { s with
      pcmIn := rest
      smp := loadRows s.smp block.samples
      fh := { s.fh with
        channels := some cfg.channels
        bps := some cfg.bps
        blocksize := some block.blocksize
        sampleRate := some cfg.sampleRate
        valid := true } }
  md5UpdatePcm
  let ca ← chooseAssignment sel cfg
  chDecorrFwd ca
  assembleFrame sel

@[simp] theorem stays_chooseAssignment_regs (sel : Selections) (cfg : EncConfig) :
    Stays b (State.RegsInv N) (chooseAssignment sel cfg) := by simp [chooseAssignment]

theorem stays_encodeBlock_regs (sel : Selections) {cfg : EncConfig} {block : PcmIn} (rest : List PcmIn) (hcfg : ConfigAccepted cfg)
    (sized : block.blocksize ≤ cfg.maxBlocksize) :
    Stays b (State.RegsInv (Numbered block.blocksize)) (encodeBlock sel cfg block rest) := by
  refine stays_bind (stays_update.2 fun s h => ?_) fun _ => stays_bind (by simp) fun _ => stays_bind (by simp) fun ca =>
    stays_bind (by simp) fun _ => stays_assembleFrame_regs sel fun f k h => by obtain ⟨hf, hk⟩ := h; omega
  obtain ⟨h1, h2, h3, h4, h5, h6, _, _, _, _, h11, h12⟩ := h.fh
  obtain ⟨_, ch8, _, d32, _, rate, _, _, big, _⟩ := hcfg
  have rows := h.withSmp (rows := loadRows s.smp block.samples) (loadRows_length _ _)
  refine (rows.withFh (fh := { s.fh with
    channels := some cfg.channels, bps := some cfg.bps, blocksize := some block.blocksize, sampleRate := some cfg.sampleRate
    valid := true }) ?_).of_regs rfl
  exact ⟨h1, h2, h3, h4, h5, h6, below_some.2 (by omega), below_some.2 (by omega), below_some.2 (by omega),
    below_some.2 (by omega), h11, h12⟩

/-- A block that passes the checks of `ENC_BLOCK` is encoded (R343). -/
theorem encBlock_run (sel : Selections) {s : State} {cfg : EncConfig} {blk : PcmIn} {rest : List PcmIn} (mode : s.mode = .encode)
    (ready : s.estate = .ready) (hcfg : s.cfg = some cfg) (hq : s.pcmIn = blk :: rest)
    (sized : cfg.minBlocksize ≤ blk.blocksize ∧ blk.blocksize ≤ cfg.maxBlocksize)
    (numbered : s.encSamples + blk.blocksize < 2 ^ 36 ∧ s.encFrameNo < 2 ^ 31)
    (fit : ∀ row ∈ blk.samples, ∀ v ∈ row, fitsS v cfg.bps) :
    encBlock sel s = (do
      let len ← asIssued (encodeBlock sel cfg blk rest)
      update (countFrame blk.blocksize len)
      pure len : Op Nat) s := by
  have fine : ¬ (blk.blocksize < cfg.minBlocksize ∨ cfg.maxBlocksize < blk.blocksize) := by omega
  have fine2 : ¬ (2 ^ 36 ≤ s.encSamples + blk.blocksize ∨ 2 ^ 31 ≤ s.encFrameNo) := by omega
  rw [encBlock, needReady_ok _ mode ready, look_bind, hq]
  simp only [readReg_bind, hcfg, written_some_bind, if_neg fine, if_neg fine2, look_bind]
  rw [check_bind_true _ _ _ fit, encodeBlock, chooseAssignment]
  by_cases trial : cfg.channels = 2 ∧ cfg.stereoTrial = true
  · simp only [if_pos trial]
  · simp only [if_neg trial]

/-- Everything `ENC_BLOCK` can do before it encodes (R343). -/
theorem encBlock_cases (sel : Selections) (s : State) :
    (∃ r, encBlock sel s = r ∧ ((∃ e, r = .error (.exc e) s) ∨ r = .ok 0 s ∨
      s.estate = .ready ∧ ∃ e, r = .error (.exc (.config e)) s.sessionFailed)) ∨
    ∃ cfg blk rest, s.estate = .ready ∧ s.cfg = some cfg ∧ blk.blocksize ≤ cfg.maxBlocksize ∧
      Numbered blk.blocksize s.encFrameNo s.encSamples ∧ encBlock sel s = (do
        let len ← asIssued (encodeBlock sel cfg blk rest)
        update (countFrame blk.blocksize len)
        pure len : Op Nat) s := by
  by_cases start : s.mode ≠ .encode ∨ s.estate ≠ .ready
  · exact .inl ⟨_, rfl, .inl ⟨_, encBlock_refused sel start⟩⟩
  · obtain ⟨mode, ready⟩ : s.mode = .encode ∧ s.estate = .ready := by
      simpa only [not_or, not_not] using start
    cases hq : s.pcmIn with
    | nil => exact .inl ⟨_, rfl, .inr (.inl (encBlock_empty sel mode ready hq))⟩
    | cons blk rest =>
      cases hcfg : s.cfg with
      | none =>
        refine .inl ⟨_, rfl, .inl ⟨.logic .unwrittenState, ?_⟩⟩
        rw [encBlock, needReady_ok _ mode ready, look_bind, hq]
        simp only [readReg_bind, hcfg]
        rfl
      | some cfg =>
        by_cases sized : cfg.minBlocksize ≤ blk.blocksize ∧ blk.blocksize ≤ cfg.maxBlocksize
        · by_cases numbered : s.encSamples + blk.blocksize < 2 ^ 36 ∧ s.encFrameNo < 2 ^ 31
          · by_cases fit : ∀ row ∈ blk.samples, ∀ v ∈ row, fitsS v cfg.bps
            · exact .inr ⟨cfg, blk, rest, ready, rfl, sized.2, ⟨numbered.2, numbered.1⟩,
                encBlock_run sel mode ready hcfg hq sized numbered fit⟩
            · push Not at fit
              exact .inl ⟨_, rfl, .inl ⟨_, encBlock_sample sel mode ready hcfg hq sized numbered fit⟩⟩
          · exact .inl ⟨_, rfl, .inr (.inr ⟨ready, _, encBlock_streamTooLong sel mode ready hcfg hq sized numbered⟩)⟩
        · exact .inl ⟨_, rfl, .inr (.inr ⟨ready, _, encBlock_blockSize sel mode ready hcfg hq sized⟩)⟩

@[simp] theorem stays_encBlock_regs (sel : Selections) : Stays True (State.RegsInv fun _ _ => True) (encBlock sel) := by
  intro s h
  rcases encBlock_cases sel s with ⟨r, run, ⟨e, done⟩ | done | ⟨_, e, done⟩⟩ | ⟨cfg, blk, rest, _, hcfg, sized, numbered, run⟩
  · rw [run, done]
    exact h
  · rw [run, done]
    exact h
  · rw [run, done]
    exact h.of_regs rfl
  · have inner := stays_asIssued True.intro
      (stays_encodeBlock_regs sel rest (accepted_of_configError (h.config _ hcfg)) sized) s (h.numbered numbered)
    rw [run, bind_run]
    cases encoded : asIssued (encodeBlock sel cfg blk rest) s with
    | ok len t =>
      rw [encoded] at inner
      exact inner.countFrame len
    | error e t =>
      rw [encoded] at inner
      refine Meets.mono (I := State.RegsInv (Numbered blk.blocksize)) (r := (.error e t : EStateM.Result Stop State Nat)) ?_ ?_
      · cases e <;> exact inner
      · exact fun u k => ⟨k.rows, k.counters, k.fh, k.sf, k.coding, k.config, True.intro⟩

/-- The final StreamInfo (R347). -/
@[simp] theorem stays_encFinish_regs : Stays True (State.RegsInv N) encFinish := by
  refine stays_bind (stays_needMode _) fun _ => stays_bind (stays_look _) fun _ => stays_bind (stays_check _ _) fun _ =>
    stays_asIssued True.intro (stays_bind (by simp) fun digest => stays_bind_yields (P := StreamInfo.InWidth) (stays_readReg _)
      (yields_readReg fun _ v h e => h.counters.1 v e) fun si hsi =>
      stays_bind_yields (P := StreamInfo.InWidth) (stays_look _) ?_ fun final hfinal => stays_update.2 fun s h => ?_)
  · intro s a t h e
    cases e
    obtain ⟨h1, h2, h3, h4, h5, h6, h7, h8, h9, _⟩ := hsi
    obtain ⟨_, _, _, _, _, _, total, min', max'⟩ := h.counters
    refine ⟨h1, h2, ?_, ?_, h5, h6, h7, h8, h9, total⟩
    · dsimp only
      split
      · exact min'
      · exact h3
    · dsimp only
      split
      · exact max'
      · exact h4
  · exact (h.withSi hfinal).of_regs rfl

/-! ### The decoder -/

@[simp] theorem stays_undoAt_regs (ca i : Nat) : Stays b (State.RegsInv N) (undoAt ca i) := by
  simp (maxDischargeDepth := 100) [undoAt]
@[simp] theorem stays_chDecorrInv_regs : Stays b (State.RegsInv N) chDecorrInv := by
  simp (maxDischargeDepth := 100) [chDecorrInv]
@[simp] theorem stays_decFrame_regs : Stays b (State.RegsInv N) decFrame := by
  simp (maxDischargeDepth := 100) [decFrame]

@[simp] theorem stays_fatal_regs (e : Exc) (p : Nat) : Stays b (State.RegsInv N) (fatal e p) := fun _ h => h.of_regs rfl
@[simp] theorem stays_recordOnly_regs (e : Exc) (p : Nat) : Stays b (State.RegsInv N) (recordOnly e p) := fun _ h => h.of_regs rfl
@[simp] theorem stays_metadataFault_regs (e : Exc) (p : Nat) : Stays b (State.RegsInv N) (metadataFault e p) := by
  simp [metadataFault]

theorem stays_metadataOp {I : State → Prop} {m : Op α} {next : α → Op Unit} (allowed : b) (h : Stays b I m)
    (k : ∀ a, Stays b I (next a)) (fault : ∀ e p, Stays b I (metadataFault e p)) : Stays b I (metadataOp m next) := by
  refine stays_bind (stays_look _) fun _ => stays_bind (stays_attempt allowed h) fun r => ?_
  split
  · exact k _
  · exact fault _ _

@[simp] theorem stays_enterResync_regs (sub : SyncSub) (p : Nat) : Stays b (State.RegsInv N) (enterResync sub p) := fun s h =>
  (h.withFh (fh := { s.fh with valid := false }) h.fh).of_regs rfl

@[simp] theorem stays_finishDecode_regs : Stays b (State.RegsInv N) finishDecode := by
  refine stays_bind (by simp) fun _ => stays_bind (stays_readReg _) fun si => stays_bind (stays_update.2 fun s h => ?_) fun _ =>
    stays_bind (stays_look _) fun _ => stays_bind (stays_update.2 fun s h => ?_) fun _ => stays_update.2 fun s h => h.of_regs rfl
  · unfold checkTotals
    split
    · exact h.of_regs rfl
    · exact h
  · unfold recordVerdict
    split
    · exact h.of_regs rfl
    · exact h

@[simp] theorem stays_afterBlock_regs (last : Bool) : Stays b (State.RegsInv N) (afterBlock last) := fun _ h => by
  cases last <;> exact h.of_regs rfl

@[simp] theorem stays_stepInit_regs : Stays True (State.RegsInv N) stepInit :=
  stays_metadataOp True.intro (by simp) (fun _ _ h => h.of_regs rfl) (by simp)

@[simp] theorem stays_stepReadStreamInfo_regs : Stays True (State.RegsInv N) stepReadStreamInfo := by
  refine stays_bind (stays_look _) fun _ => stays_metadataOp True.intro (by simp) (fun h => ?_) (by simp)
  refine stays_ite (by simp) (stays_ite (by simp) (stays_bind (stays_look _) fun body => ?_))
  refine stays_metadataOp True.intro (by simp) (fun _ => stays_metadataOp True.intro (by simp) (fun _ => ?_) (by simp)) (by simp)
  exact stays_bind (fun _ h => h.of_regs rfl) fun _ => stays_afterBlock_regs _

@[simp] theorem stays_stepReadMetadata_regs : Stays True (State.RegsInv N) stepReadMetadata := by
  refine stays_bind (stays_look _) fun _ => stays_metadataOp True.intro (by simp) (fun h => ?_) (by simp)
  exact stays_ite (by simp) (stays_metadataOp True.intro (by simp) (fun _ => by simp (maxDischargeDepth := 100)) (by simp))

@[simp] theorem stays_emitBlock_regs : Stays b (State.RegsInv N) emitBlock := by
  refine stays_bind (by simp) fun _ => stays_bind (stays_readReg _) fun _ => stays_bind (stays_readReg _) fun n =>
    stays_bind (stays_readReg _) fun _ => stays_bind (stays_readReg _) fun _ => stays_bind (stays_readReg _) fun _ =>
    stays_bind (by simp) fun _ => stays_bind (fun _ h => h.of_regs rfl) fun _ => stays_update.2 fun s h => ?_
  obtain ⟨hsi, hmb, hmbc, hres, _, _, rest⟩ := h.counters
  refine h.withCounters ⟨hsi, hmb, hmbc, hres, ?_, ?_, rest⟩ rfl
  · dsimp only
    split
    next small => exact small
    next => exact BitVec.isLt _
  · dsimp only
    split
    next small => exact small
    next => exact BitVec.isLt _

@[simp] theorem stays_stepSynced_regs : Stays True (State.RegsInv N) stepSynced := by
  refine stays_bind (stays_look _) fun _ => stays_bind (stays_look _) fun _ => stays_bind (stays_look _) fun _ => ?_
  refine stays_ite (by simp (maxDischargeDepth := 100) [sequencerWork]) ?_
  refine stays_bind (by simp) fun r => ?_
  split <;> simp (maxDischargeDepth := 100) [sequencerWork]

theorem State.RegsInv.endResync {s : State} (h : s.RegsInv N) (stop pos : Nat) (how : ResyncHow) :
    State.RegsInv N (endResync stop pos how s) := by
  obtain ⟨hsi, hmb, hmbc, _, rest⟩ := h.counters
  unfold Machine.endResync
  split
  next small => exact h.withCounters ⟨hsi, hmb, hmbc, small, rest⟩ rfl
  next => exact h.withCounters ⟨hsi, hmb, hmbc, BitVec.isLt _, rest⟩ rfl

@[simp] theorem stays_stepResync_regs : Stays True (State.RegsInv N) stepResync := by
  refine stays_bind (stays_look _) fun p => stays_bind (stays_look _) fun input => stays_bind (stays_look _) fun ended => ?_
  split
  next j _ => exact fun s h => (h.endResync j (8 * j) .found).of_regs rfl
  next =>
    refine stays_ite (stays_bind (fun s h => h.endResync _ _ _) fun _ => ?_) stays_hold
    simp (maxDischargeDepth := 100) [sequencerWork]

@[simp] theorem stays_decStep_regs : Stays True (State.RegsInv N) decStep := by
  refine stays_bind (stays_needMode _) fun _ => stays_bind (stays_look _) fun d => ?_
  cases d <;> simp (maxDischargeDepth := 100)

@[simp] theorem stays_decFlush_regs : Stays b (State.RegsInv N) decFlush := by
  refine stays_bind (stays_needMode _) fun _ => stays_bind (stays_look _) fun _ => stays_bind (stays_check _ _) fun _ =>
    stays_update.2 fun s h => ?_
  exact (h.withFh (fh := { s.fh with valid := false }) h.fh).of_regs rfl

/-! ### The wire structures -/

/-- The structure handed over is read from an input of its own. -/
theorem stays_presented {I : State → Prop} {m : Op α} (bits : List Bool) (h : Stays b I m)
    (reading : ∀ s bs p, I s → I (s.reading bs p)) : Stays b I (presented bits m) := by
  intro s hs
  have k := h _ (reading s (bitsBytes (bits ++ List.replicate (alignGap bits.length) false)) 0 hs)
  unfold presented
  cases run : m (s.reading (bitsBytes (bits ++ List.replicate (alignGap bits.length) false)) 0) with
  | ok a t =>
    rw [run] at k
    exact reading t _ _ k
  | error e t =>
    rw [run] at k
    cases e with
    | issued l => exact k
    | hold => exact reading t _ _ k
    | exc e => exact reading t _ _ k

@[simp] theorem stays_presented_regs {m : Op α} (bits : List Bool) (h : Stays b (State.RegsInv N) m) :
    Stays b (State.RegsInv N) (presented bits m) := stays_presented bits h fun _ _ _ h => h.of_regs rfl

@[simp] theorem stays_readSubframeByte_regs : Stays b (State.RegsInv N) readSubframeByte := by
  refine stays_bind stays_notEncode fun _ => stays_bind_yields (by simp) yields_sfHeader fun x ht =>
    stays_bind (stays_setSfType_regs ht) fun _ => stays_ite (stays_update.2 fun s h => ?_) (stays_pure _)
  obtain ⟨order, _, rest⟩ := h.sf
  exact h.withSf ⟨order, below_some.2 (by omega), rest⟩

@[simp] theorem stays_wireFrameHeader_regs : Stays b (State.RegsInv N) (do
    notEncode
    headerStart
    let h ← fhFixed
    update fun t =>
      { t with fh := { t.fh with
          variable_ := some h.variable_
          bsCode := some h.bsCode
          srCode := some h.srCode
          chanAssign := some h.chanAssign
          bpsCode := some h.bpsCode
          reserved := some h.reserved } }
    pure Result.none) := by
  refine stays_bind stays_notEncode fun _ => stays_bind (by simp) fun _ => stays_bind_yields (by simp) yields_fhFixed fun h hh =>
    stays_bind (stays_update.2 fun s k => ?_) fun _ => stays_pure _
  obtain ⟨_, _, _, _, _, h6, h7, h8, h9, h10, _, h12⟩ := k.fh
  exact k.withFh ⟨below_some.2 hh.variable_, below_some.2 hh.bsCode, below_some.2 hh.srCode, below_some.2 hh.chanAssign,
    below_some.2 hh.bpsCode, h6, h7, h8, h9, h10, below_some.2 hh.reserved, h12⟩

end Sys2Proof.Machine

/-! PROOFS. Every instruction and every step keep the invariant of a session (10_state.md R24 to R52), which holds at reset. -/

namespace Sys2Proof.Machine

variable {b : Prop} {I : State → Prop} {N : Nat → Nat → Prop}

/-! ### Delivery -/

/-- `I` outlives the delivery of an outcome; where the operation may end as a failed sequencer (`b`), the failure too. -/
structure Delivered (b : Prop) (I : State → Prop) : Prop where
  reply : ∀ s r, I s → I { s with reply := r }
  record : ∀ s e pos, I s → I (s.record e pos)
  failed : b → ∀ s e, I s → I (s.sequencerFailed e)

section
variable {side : Side} {op : Op Result} {s t : State} (d : Delivered b I)
include d

theorem Delivered.takeException {u : State} (hs : I s) (hu : I u) (e : Exc) : I (s.takeException u side e) := by
  unfold State.takeException
  split
  · exact d.reply _ _ (d.record _ _ _ hs)
  · exact d.reply _ _ (d.record _ _ _ hu)

variable (stays : Stays b I op) (hs : I s)
include stays hs

theorem keeps_issueAlways (e : issueAlways side op s = .next t) : I t := by
  have h := stays s hs
  cases e
  cases run : op s with
  | ok r u =>
    rw [run] at h
    exact d.reply u _ h
  | error x u =>
    rw [run] at h
    cases x with
    | hold => exact d.reply s _ hs
    | exc x => exact d.takeException hs h x
    | issued l => exact d.failed h _ _ (d.takeException hs hs _)

/-- An operation that keeps `I` is issued keeping it. -/
theorem keeps_issue (e : issue side op s = .next t) : I t := by
  unfold issue at e
  split at e
  · cases e
    exact d.reply s _ hs
  · exact keeps_issueAlways d stays hs e

end

/-! ### The registers under every instruction -/

theorem delivered_regsInv : Delivered b (State.RegsInv N) where
  reply := fun _ _ h => h.of_regs rfl
  record := fun _ _ _ h => h.of_regs rfl
  failed := fun _ s e h => by
    unfold State.sequencerFailed
    split <;> exact h.of_regs rfl

theorem regsInv_reset : State.RegsInv (fun _ _ => True) State.reset := by
  refine ⟨rfl, ?_, ?_, ?_, ?_, ?_, True.intro⟩
  · simp [State.CountersInWidth, State.reset]
  · simp [FhRegs.InWidth, State.reset, FhRegs.reset]
  · simp [SfRegs.InRange, State.reset, SfRegs.reset]
  · simp [State.CodingInRange, RcRegs.InWidth, State.reset, RcRegs.reset]
  · simp [State.ConfigValid, State.reset]

/-- Updates outside the registers that the invariant looks at. -/
theorem stays_update_regs {f : State → State} (h : ∀ s, (f s).regs = s.regs) : Stays b (State.RegsInv N) (update f) :=
  fun s k => k.of_regs (h s)

theorem stays_leaving_regs {m : Op Unit} (h : Stays b (State.RegsInv N) m) :
    Stays b (State.RegsInv N) (leaving (fun s t => { s with brPos := t.brPos, smp := t.smp }) m) :=
  stays_leaving h fun _ _ hs ht => ⟨ht.rows, hs.counters, hs.fh, hs.sf, hs.coding, hs.config, hs.numbers⟩

theorem exec_streamReset_cases {m : Nat} {s t : State} (e : exec (.streamReset m) s = .next t) :
    (∃ mode, t = { State.reset with mode := mode, cmdq := s.cmdq, payload := s.payload, reply := some (.ok .none) }) ∨
      t = s.takeException s (.none (.streamReset m)) (.logic .badOperand) := by
  change execStreamReset m s = _ at e
  unfold execStreamReset issueAlways at e
  cases mode : modeOf m with
  | some md =>
    rw [mode] at e
    cases e
    exact .inl ⟨md, rfl⟩
  | none =>
    rw [mode] at e
    cases e
    exact .inr rfl

/-- What `IN_PUSH` leaves, where it leaves a next state (R80). -/
theorem exec_inPush_cases {n : Nat} {s t : State} (e : exec (.inPush n) s = .next t) :
    issue .read (do
        let ended ← look State.inEof
        check (ended = false) (.logic .badOperand)
        let bs ← payloadBytes n
        update fun t => { t with input := t.input ++ bs }
        pure .none) s = .next t ∧
      (t.input.length = s.input.length ∨ t.input.length < Config.streamBytesLimit) := by
  change execInPush n s = _ at e
  unfold execInPush at e
  split at e
  next u run =>
    split at e
    next small => cases e; exact ⟨run, small⟩
    next => cases e
  next => cases e
  next => cases e

theorem exec_regs {i : Instr} {s t : State} (e : exec i s = .next t) (h : s.RegsInv fun _ _ => True) :
    t.RegsInv fun _ _ => True := by
  cases i
  case streamReset m =>
    rcases exec_streamReset_cases e with ⟨mode, rfl⟩ | rfl
    · exact regsInv_reset.of_regs rfl
    · exact (delivered_regsInv (b := True)).takeException h h _
  case inPush n =>
    refine keeps_issue (b := True) delivered_regsInv ?_ h (exec_inPush_cases e).1
    exact stays_bind (stays_look _) fun _ => stays_bind (stays_check _ _) fun _ => stays_bind (stays_payloadBytes _) fun _ =>
      stays_bind (stays_update_regs fun _ => rfl) fun _ => stays_pure _
  case outPull | pcmPop | mdPop | reportPop | siPop =>
    refine keeps_issueAlways (b := True) delivered_regsInv ?_ h e
    exact stays_bind (stays_look _) fun _ => stays_bind (stays_update_regs fun _ => rfl) fun _ => stays_pure _
  all_goals refine keeps_issue (b := True) delivered_regsInv ?_ h e
  case inEof | crc8Reset | crc16Reset | md5Reset =>
    exact stays_bind (stays_update_regs fun _ => rfl) fun _ => stays_pure _
  case crc8Update | crc16Update =>
    exact stays_bind (stays_payloadBytes _) fun _ => stays_bind (stays_update_regs fun _ => rfl) fun _ =>
      stays_bind (stays_look _) fun _ => stays_pure _
  case pcmPush =>
    exact stays_bind (stays_needMode _) fun _ => stays_bind (stays_look _) fun _ => stays_bind (stays_check _ _) fun _ =>
      stays_bind (stays_check _ _) fun _ => stays_bind (stays_readReg _) fun _ => stays_bind (stays_payloadSamples _ _) fun _ =>
        stays_bind (stays_update_regs fun _ => rfl) fun _ => stays_pure _
  case wireFrameHeader => exact stays_presented_regs _ stays_wireFrameHeader_regs
  all_goals simp (maxDischargeDepth := 100) [stays_leaving_regs, -stays_update]

/-! ### The streams and `STATUS` -/

/-- The part of the invariant that speaks of the streams and `STATUS`. -/
structure State.Streams (s : State) : Prop where
  cursors : s.CursorsInside
  reserved : s.ReservedClear

theorem Frame.streams {s t : State} (f : Frame s t) (h : s.Streams) : t.Streams := by
  obtain ⟨cursor, pulled⟩ := h.cursors
  have len := f.appended.length_le
  refine ⟨⟨?_, ?_⟩, fun i hi => ?_⟩
  · rw [f.input]
    exact (f.cursor cursor).2
  · rw [f.outRd]
    omega
  · rw [f.reserved i hi]
    exact h.reserved i hi

theorem delivered_streams : Delivered b State.Streams where
  reply := fun _ _ h => ⟨h.cursors, h.reserved⟩
  record := fun s e pos h => (frame_record s e pos).streams h
  failed := fun _ s e h => (frame_sequencerFailed s e).streams h

theorem exec_streams {i : Instr} {s t : State} (e : exec i s = .next t) (h : s.Streams) : t.Streams := by
  cases moves : movesPorts i with
  | false => exact (exec_frame moves e).streams h
  | true =>
    cases i <;> cases moves
    case streamReset.refl m =>
      rcases exec_streamReset_cases e with ⟨mode, rfl⟩ | rfl
      · exact ⟨⟨Nat.zero_le _, Nat.zero_le _⟩, fun i _ => BitVec.getLsbD_zero⟩
      · exact (delivered_streams (b := True)).takeException h h _
    case inPush.refl n =>
      refine keeps_issue (b := True) delivered_streams ?_ h (exec_inPush_cases e).1
      refine stays_bind (stays_look _) fun _ => stays_bind (stays_check _ _) fun _ => stays_bind (stays_payloadBytes _) fun bs =>
        stays_bind (stays_update.2 fun s k => ⟨⟨?_, k.cursors.2⟩, k.reserved⟩) fun _ => stays_pure _
      have inside := k.cursors.1
      dsimp only
      rw [List.length_append]
      omega
    case inEof.refl =>
      refine keeps_issue (b := True) delivered_streams ?_ h e
      exact stays_bind (stays_update.2 fun s k => ⟨k.cursors, k.reserved⟩) fun _ => stays_pure _
    case outPull.refl =>
      refine keeps_issueAlways (b := True) delivered_streams ?_ h e
      refine stays_bind (stays_look _) fun _ => stays_bind (stays_update.2 fun s k => ⟨⟨k.cursors.1, ?_⟩, k.reserved⟩) fun _ =>
        stays_pure _
      dsimp only
      omega
    case decFlush.refl =>
      refine keeps_issue (b := True) delivered_streams ?_ h e
      refine stays_bind (stays_bind (stays_needMode _) fun _ => stays_bind (stays_look _) fun _ => stays_bind (stays_check _ _) fun _ =>
          stays_update.2 fun s k => ⟨⟨Nat.zero_le _, k.cursors.2⟩, ?_⟩) fun _ => stays_pure _
      exact ((frame_setFlag s .partial_).streams k).reserved

theorem delivered_inputInSpec : Delivered b State.InputInSpec where
  reply := fun _ _ h => h
  record := fun _ _ _ h => h
  failed := fun _ s e h => by
    unfold State.sequencerFailed
    split <;> exact h

/-- The input grows at `IN_PUSH` alone, which stops short of 2^61 bytes (R42). -/
theorem exec_inputInSpec {i : Instr} {s t : State} (e : exec i s = .next t) (h : s.InputInSpec) : t.InputInSpec := by
  cases moves : movesPorts i with
  | false => simpa only [State.InputInSpec, (exec_frame moves e).input] using h
  | true =>
    cases i <;> cases moves
    case streamReset.refl m =>
      rcases exec_streamReset_cases e with ⟨mode, rfl⟩ | rfl
      · exact Nat.two_pow_pos 61
      · exact (delivered_inputInSpec (b := True)).takeException h h _
    case inPush.refl n =>
      rcases (exec_inPush_cases e).2 with same | small
      · exact same.trans_lt h
      · exact small
    case inEof.refl =>
      refine keeps_issue (b := True) delivered_inputInSpec ?_ h e
      exact stays_bind (stays_update.2 fun _ k => k) fun _ => stays_pure _
    case outPull.refl =>
      refine keeps_issueAlways (b := True) delivered_inputInSpec ?_ h e
      exact stays_bind (stays_look _) fun _ => stays_bind (stays_update.2 fun _ k => k) fun _ => stays_pure _
    case decFlush.refl =>
      refine keeps_issue (b := True) delivered_inputInSpec ?_ h e
      exact stays_bind (stays_bind (stays_needMode _) fun _ => stays_bind (stays_look _) fun _ => stays_bind (stays_check _ _) fun _ =>
          stays_update.2 fun _ _ => Nat.two_pow_pos 61) fun _ => stays_pure _

/-! ### Every step -/

theorem inv_iff (s : State) : s.Inv ↔ s.InputInSpec ∧ s.Streams ∧ s.RegsInv fun _ _ => True := by
  constructor
  · rintro ⟨input, cursors, reserved, rows, counters, fh, sf, coding, config⟩
    exact ⟨input, ⟨cursors, reserved⟩, rows, counters, fh, sf, coding, config, True.intro⟩
  · rintro ⟨input, ⟨cursors, reserved⟩, rows, counters, fh, sf, coding, config, -⟩
    exact ⟨input, cursors, reserved, rows, counters, fh, sf, coding, config⟩

theorem exec_inv {i : Instr} {s t : State} (e : exec i s = .next t) (h : s.Inv) : t.Inv := by
  obtain ⟨input, streams, regs⟩ := (inv_iff s).1 h
  exact (inv_iff t).2 ⟨exec_inputInSpec e input, exec_streams e streams, exec_regs e regs⟩

theorem delivered_inv : Delivered b State.Inv where
  reply := fun _ _ h => h
  record := fun s e pos h => by
    obtain ⟨input, streams, regs⟩ := (inv_iff s).1 h
    exact (inv_iff _).2 ⟨input, (frame_record s e pos).streams streams, regs.of_regs rfl⟩
  failed := fun hb s e h => by
    obtain ⟨input, streams, regs⟩ := (inv_iff s).1 h
    exact (inv_iff _).2 ⟨delivered_inputInSpec.failed hb s e input, delivered_streams.failed hb s e streams,
      delivered_regsInv.failed hb s e regs⟩

/-- A word that is no operation is refused like any exception. -/
theorem badCommand_inv {c : Code} {why : Reject} {s t : State} (e : badCommand c why s = .next t) (h : s.Inv) : t.Inv := by
  unfold badCommand at e
  split at e
  · split at e
    · exact keeps_issueAlways (b := True) delivered_inv (stays_raise _) h e
    · exact keeps_issue (b := True) delivered_inv (stays_raise _) h e
  all_goals exact keeps_issue (b := True) delivered_inv (stays_raise _) h e

/-- Settles O55: the invariant is kept by the streams and `STATUS` (`exec_streams`), by the input (`exec_inputInSpec`) and by the
registers (`exec_regs`), for every instruction and for every word that is none. -/
theorem stateInvariantKept : Obligations.StateInvariantKept := by
  intro s t h e
  unfold step takeIssue at e
  cases q : s.cmdq with
  | nil =>
    rw [q] at e
    cases e
    exact h
  | cons next rest =>
    rw [q] at e
    have k : State.Inv { s with cmdq := rest, payload := next.payload } := h
    cases d : decode next.code with
    | ok i =>
      simp only [d] at e
      exact exec_inv e k
    | error why =>
      simp only [d] at e
      exact badCommand_inv e k

/-- Settles O56. -/
theorem stateInvariantAtReset : Obligations.StateInvariantAtReset :=
  (inv_iff _).2 ⟨Nat.two_pow_pos 61, ⟨⟨Nat.zero_le _, Nat.zero_le _⟩, fun _ _ => BitVec.getLsbD_zero⟩, regsInv_reset⟩

end Sys2Proof.Machine

/-! PROOFS. What no operation but `STREAM_RESET` takes back (10_state.md R21, R25, R29, R31, R50; 46_decoder_pipeline.md R311). -/

namespace Sys2Proof.Machine

variable {α : Type} {b : Prop}

/-! ### What lasts -/

/-- `s` comes after `d` with `i`: what `d` holds of the queues (but for one that `i` pops), the mode, the configuration in use, the
validated StreamInfo of a decode and a terminal state, `s` still holds. -/
def Past (i : Instr) (d s : State) : Prop :=
  s.mode = d.mode ∧ (i ≠ .reportPop → d.report <+: s.report) ∧ (i ≠ .pcmPop → d.pcmOut <+: s.pcmOut) ∧
    (i ≠ .mdPop → d.mdOut <+: s.mdOut) ∧ (i ≠ .siPop → d.siOut <+: s.siOut) ∧
    (d.estate ≠ .idle → s.cfg = d.cfg ∧ s.estate ≠ .idle) ∧
    (d.mode ≠ .encode → d.siValid = true → s.si = d.si ∧ s.siValid = true) ∧
    (d.dstate = .done ∨ d.dstate = .fatalError →
      s.dstate = d.dstate ∧ s.verdict = d.verdict ∧ s.fatalCode = d.fatalCode ∧ s.fatalSub = d.fatalSub) ∧
    (d.estate = .finished ∨ d.estate = .failed → s.estate = d.estate)

theorem Past.refl (i : Instr) (s : State) : Past i s s :=
  ⟨rfl, fun _ => List.prefix_rfl, fun _ => List.prefix_rfl, fun _ => List.prefix_rfl, fun _ => List.prefix_rfl, fun h => ⟨rfl, h⟩, fun _ h => ⟨rfl, h⟩,
    fun _ => ⟨rfl, rfl, rfl, rfl⟩, fun _ => rfl⟩

variable {act : Instr} {d : State}

theorem blind_past : Blind (Past act d) :=
  ⟨fun _ _ h => h, fun _ _ h => h, fun _ _ h => h, fun _ _ h => h, fun _ _ h => h, fun _ _ h => h, fun _ _ h => h, fun _ _ h => h⟩


/-! ### Operations on working registers -/

@[simp] theorem stays_mbhRead_past : Stays b (Past act d) mbhRead := by
  refine stays_bind stays_notEncode fun _ => stays_bind stays_readAligned fun _ => stays_bind (stays_starve _) fun _ =>
    stays_bind (stays_readU blind_past _) fun _ => stays_bind (stays_readU blind_past _) fun _ =>
    stays_bind (stays_readU blind_past _) fun _ => stays_bind (stays_update.2 fun s h => ?_) fun _ => stays_pure _
  split <;> exact h
@[simp] theorem stays_headerStart_past : Stays b (Past act d) headerStart := fun _ h => h
@[simp] theorem stays_fhParse_past : Stays b (Past act d) fhParse := by
  simp (maxDischargeDepth := 100) [fhParse, Past, blind_past]
@[simp] theorem stays_fhValidate_past : Stays b (Past act d) fhValidate := by
  simp (maxDischargeDepth := 100) [fhValidate, Past]
@[simp] theorem stays_fhWrite_past : Stays b (Past act d) fhWrite := by
  simp (maxDischargeDepth := 100) [fhWrite, Past, blind_past]
@[simp] theorem stays_readResHeader_past (n o : Nat) : Stays b (Past act d) (readResHeader n o) := by
  simp (maxDischargeDepth := 100) [readResHeader, Past, blind_past]
@[simp] theorem stays_writeEntry_past (i : Nat) (c : PartChoice) : Stays b (Past act d) (writeEntry i c) := fun _ h => h
@[simp] theorem stays_readPartition_past (m i cnt idx : Nat) : Stays b (Past act d) (readPartition m i cnt idx) := by
  simp (maxDischargeDepth := 100) [readPartition, blind_past]
@[simp] theorem stays_readPartitions_past (n o m p : Nat) : ∀ left i idx, Stays b (Past act d) (readPartitions n o m p left i idx)
  | 0, _, _ => stays_pure ()
  | left + 1, _, _ => stays_bind (stays_readPartition_past _ _ _ _) fun _ => stays_readPartitions_past n o m p left _ _
@[simp] theorem stays_resDecode_past : Stays b (Past act d) resDecode := by simp (maxDischargeDepth := 100) [resDecode]
@[simp] theorem stays_writeSmp_past (c i : Nat) (v : Int) : Stays b (Past act d) (writeSmp c i v) := fun _ h => h
@[simp] theorem stays_writeRow_past (c : Nat) (vs : List Int) : Stays b (Past act d) (writeRow c vs) := fun _ h => h
@[simp] theorem stays_readSamples_past (c bps : Nat) : ∀ cnt i, Stays b (Past act d) (readSamples c bps cnt i)
  | 0, _ => stays_pure ()
  | cnt + 1, _ => stays_bind (stays_readS blind_past _) fun _ => stays_bind (stays_writeSmp_past _ _ _) fun _ =>
    stays_readSamples_past c bps cnt _
@[simp] theorem stays_readCoefs_past (prec : Nat) : ∀ cnt j, Stays b (Past act d) (readCoefs prec cnt j)
  | 0, _ => stays_pure ()
  | cnt + 1, _ => stays_bind (stays_readS blind_past _) fun _ => stays_bind (fun _ h => h) fun _ => stays_readCoefs_past prec cnt _
@[simp] theorem stays_sfDecConstant_past : Stays b (Past act d) sfDecConstant := by
  simp (maxDischargeDepth := 100) [sfDecConstant, blind_past]
@[simp] theorem stays_sfDecVerbatim_past : Stays b (Past act d) sfDecVerbatim := by
  simp (maxDischargeDepth := 100) [sfDecVerbatim]
@[simp] theorem stays_fixedRestore_past : Stays b (Past act d) fixedRestore := by
  simp (maxDischargeDepth := 100) [fixedRestore]
@[simp] theorem stays_lpcRestore_past : Stays b (Past act d) lpcRestore := by
  simp (maxDischargeDepth := 100) [lpcRestore]
@[simp] theorem stays_sfDecFixed_past : Stays b (Past act d) sfDecFixed := by
  simp (maxDischargeDepth := 100) [sfDecFixed]
@[simp] theorem stays_sfDecLpc_past : Stays b (Past act d) sfDecLpc := by
  simp (maxDischargeDepth := 100) [sfDecLpc, Past, blind_past]
@[simp] theorem stays_finishSubframe_past (c n bps w : Nat) : Stays b (Past act d) (finishSubframe c n bps w) := by
  simp (maxDischargeDepth := 100) [finishSubframe]
@[simp] theorem stays_setSfType_past (t : Nat) : Stays b (Past act d) (setSfType t) := by
  unfold setSfType
  split
  · exact stays_bind (fun _ h => h) fun _ => stays_pure _
  · exact stays_raise _
@[simp] theorem stays_sfBody_past (t : SfType) : Stays b (Past act d) (sfBody t) := by cases t <;> simp [sfBody]
@[simp] theorem stays_sfDec_past (c : Nat) : Stays b (Past act d) (sfDec c) := by
  simp (maxDischargeDepth := 100) [sfDec, Past, blind_past]
@[simp] theorem stays_fixedResidual_past (o : Nat) : Stays b (Past act d) (fixedResidual o) := by
  simp (maxDischargeDepth := 100) [fixedResidual, Past]
@[simp] theorem stays_sfEncFixed_past : Stays b (Past act d) sfEncFixed := by
  simp (maxDischargeDepth := 100) [sfEncFixed, blind_past]
@[simp] theorem stays_writeTable_past (param : Nat → Reg Nat → Fin 31) (raw : Nat → Reg Nat → Fin 32) :
    ∀ cs i, Stays b (Past act d) (writeTable param raw cs i)
  | [], _ => stays_pure ()
  | _ :: rest, i => stays_bind (fun _ h => h) fun _ => stays_writeTable_past param raw rest (i + 1)
@[simp] theorem stays_partSelect_past (sel : Selections) : Stays b (Past act d) (partSelect sel) := by
  simp (maxDischargeDepth := 100) [partSelect, Past]
@[simp] theorem stays_setPredictor_past (p : Nat) (r : LpcResult) : Stays b (Past act d) (setPredictor p r) := fun _ h => h
@[simp] theorem stays_lpcAnalyze_past (sel : Selections) : Stays b (Past act d) (lpcAnalyze sel) := by
  refine stays_bind (stays_readReg _) fun _ => stays_bind (by simp) fun _ => ?_
  split <;> simp
@[simp] theorem stays_sfSelect_past (sel : Selections) (c : Nat) : Stays b (Past act d) (sfSelect sel c) := by
  refine stays_bind (stays_needMode _) fun _ => stays_bind (stays_readReg _) fun _ => stays_bind (stays_readReg _) fun _ =>
    stays_bind (stays_check _ _) fun _ => stays_bind (stays_readReg _) fun _ => stays_bind (stays_readReg _) fun _ =>
    stays_bind (by simp) fun _ => ?_
  dsimp only
  refine stays_bind (fun _ h => h) fun _ => ?_
  split <;> simp (maxDischargeDepth := 100) [blind_past]
@[simp] theorem stays_stereoSelect_past (sel : Selections) : Stays b (Past act d) (stereoSelect sel) := by
  simp (maxDischargeDepth := 100) [stereoSelect, Past]
@[simp] theorem stays_chDecorrFwd_past (ca : Nat) : Stays b (Past act d) (chDecorrFwd ca) := by
  simp (maxDischargeDepth := 100) [chDecorrFwd, Past]
@[simp] theorem stays_sfEncode_past (t : SfType) : Stays b (Past act d) (sfEncode t) := by cases t <;> simp [sfEncode, blind_past]
@[simp] theorem stays_encodeSubframe_past (sel : Selections) (c : Nat) : Stays b (Past act d) (encodeSubframe sel c) := by
  simp (maxDischargeDepth := 100) [encodeSubframe]
@[simp] theorem stays_assembleFrame_past (sel : Selections) : Stays b (Past act d) (assembleFrame sel) := by
  refine stays_bind (stays_look _) fun _ => stays_bind (stays_readReg _) fun _ => stays_bind (fun _ h => h) fun _ => ?_
  simp (maxDischargeDepth := 100) [blind_past, Past]
@[simp] theorem stays_undoAt_past (ca i : Nat) : Stays b (Past act d) (undoAt ca i) := by
  simp (maxDischargeDepth := 100) [undoAt]
@[simp] theorem stays_chDecorrInv_past : Stays b (Past act d) chDecorrInv := by simp (maxDischargeDepth := 100) [chDecorrInv]
@[simp] theorem stays_decFrame_past : Stays b (Past act d) decFrame := by
  simp (maxDischargeDepth := 100) [decFrame, blind_past]
@[simp] theorem stays_readSubframeByte_past : Stays b (Past act d) readSubframeByte := by
  refine stays_bind stays_notEncode fun _ => stays_bind (by simp [blind_past]) fun x =>
    stays_bind (stays_setSfType_past _) fun _ => stays_ite (fun _ h => h) (stays_pure _)

/-! ### Operations that add to a queue or write a StreamInfo -/

section
variable {s : State} (h : Past act d s)
include h

theorem Past.mode : s.mode = d.mode := by
  obtain ⟨mode, _⟩ := h
  exact mode

/-- Until the encoder has started, the session it starts in has no configuration in use. -/
theorem Past.idle (k : s.estate = .idle) : d.estate = .idle := by
  obtain ⟨_, _, _, _, _, cfg, _⟩ := h
  by_contra started
  exact (cfg started).2 k

theorem Past.unvalidated (k : s.siValid = false) : d.mode = .encode ∨ d.siValid = false := by
  obtain ⟨_, _, _, _, _, _, si, _⟩ := h
  by_contra validated
  rw [not_or, Bool.not_eq_false] at validated
  exact absurd ((si validated.1 validated.2).2) (by simp [k])

theorem Past.record (e : Exc) (pos : Nat) : Past act d (s.record e pos) := by
  obtain ⟨mode, report, rest⟩ := h
  exact ⟨mode, fun k => (report k).trans (List.prefix_append _ _), rest⟩

theorem Past.withSi (free : d.mode = .encode ∨ d.siValid = false) (x : Reg StreamInfo) : Past act d { s with si := x } := by
  obtain ⟨mode, report, pcm, md, so, cfg, si, dec, enc⟩ := h
  refine ⟨mode, report, pcm, md, so, cfg, fun m v => ?_, dec, enc⟩
  rcases free with e | e
  · exact absurd e m
  · exact absurd v (by simp [e])

theorem Past.withSiValid : Past act d { s with siValid := true } := by
  obtain ⟨mode, report, pcm, md, so, cfg, si, dec, enc⟩ := h
  exact ⟨mode, report, pcm, md, so, cfg, fun m v => ⟨(si m v).1, rfl⟩, dec, enc⟩

theorem Past.addMetadata (e : List MdBlock) : Past act d { s with mdOut := s.mdOut ++ e } := by
  obtain ⟨mode, report, pcm, md, rest⟩ := h
  exact ⟨mode, report, pcm, fun k => (md k).trans (List.prefix_append _ _), rest⟩

end

/-- A part that looks at the state, and goes on with what a state that meets `I` may show. -/
theorem stays_look_bind {α β : Type} {I : State → Prop} {g : State → α} {f : α → Op β}
    (h : ∀ s, I s → Stays b I (f (g s))) : Stays b I (look g >>= f) := fun s hs => h s hs s hs

/-- Behind a check its condition holds. -/
theorem stays_check_bind {β : Type} {I : State → Prop} {c : Prop} [Decidable c] {e : Exc} {f : Unit → Op β}
    (h : c → Stays b I (f ())) : Stays b I (check c e >>= f) := by
  unfold check
  split
  next holds => exact stays_bind (stays_pure _) fun _ => h holds
  next => exact fun s hs => hs

@[simp] theorem stays_siRead_past : Stays b (Past act d) siRead := by
  refine stays_bind stays_notEncode fun _ => stays_bind stays_readAligned fun _ => stays_look_bind fun s h =>
    stays_check_bind fun unvalidated => stays_bind (stays_starve _) fun _ =>
    stays_bind (stays_readStreamInfo blind_past) fun si => stays_update.2 fun t k => ?_
  exact k.withSi (h.unvalidated unvalidated) _

@[simp] theorem stays_siValidate_past : Stays b (Past act d) siValidate :=
  stays_bind (stays_look _) fun _ => stays_bind (stays_check _ _) fun _ => stays_bind (stays_readReg _) fun _ =>
    stays_bind (stays_check _ _) fun _ => stays_update.2 fun _ h => h.withSiValid

@[simp] theorem stays_mbReadBody_past : Stays b (Past act d) mbReadBody :=
  stays_bind stays_notEncode fun _ => stays_bind (stays_readReg _) fun _ => stays_bind (stays_readBytes blind_past _) fun _ =>
    stays_bind (stays_update.2 fun _ h => h.addMetadata _) fun _ => stays_pure _

/-! ### The decoder sequencer -/

/-- The decoder has reached no terminal state. -/
def State.Undecided (s : State) : Prop := ¬ (s.dstate = .done ∨ s.dstate = .fatalError)

section
variable {s : State} (h : Past act d s)
include h

theorem Past.undecided (k : s.Undecided) : d.Undecided := by
  obtain ⟨_, _, _, _, _, _, _, dec, _⟩ := h
  intro terminal
  rw [State.Undecided, (dec terminal).1] at k
  exact k terminal

theorem Past.addReport (e : List ReportEntry) : Past act d { s with report := s.report ++ e } := by
  obtain ⟨mode, report, rest⟩ := h
  exact ⟨mode, fun k => (report k).trans (List.prefix_append _ _), rest⟩

theorem Past.addPcm (e : List PcmBlock) : Past act d { s with pcmOut := s.pcmOut ++ e } := by
  obtain ⟨mode, report, pcm, rest⟩ := h
  exact ⟨mode, report, fun k => (pcm k).trans (List.prefix_append _ _), rest⟩

theorem Past.decide (free : d.Undecided) (x : DState) (v : Verdict) (code sub : Nat) :
    Past act d { s with dstate := x, verdict := v, fatalCode := code, fatalSub := sub } := by
  obtain ⟨mode, report, pcm, md, so, cfg, si, _, enc⟩ := h
  exact ⟨mode, report, pcm, md, so, cfg, si, fun terminal => absurd terminal free, enc⟩

theorem Past.enterFatal (free : d.Undecided) (e : Exc) : Past act d (s.enterFatal e) :=
  (h.addReport _).decide free _ _ _ _

end

section
variable (free : d.Undecided)
include free

theorem stays_fatal_past (e : Exc) (pos : Nat) : Stays b (Past act d) (fatal e pos) := fun _ h => (h.record e pos).enterFatal free e

theorem stays_metadataFault_past (e : Exc) (pos : Nat) : Stays b (Past act d) (metadataFault e pos) :=
  stays_ite (stays_bind (fun _ h => h.record _ _) fun _ => stays_fatal_past free _ _) (stays_fatal_past free _ _)

theorem stays_afterBlock_past (last : Bool) : Stays b (Past act d) (afterBlock last) := stays_update.2 fun s h => by
  cases last <;> exact h.decide free _ _ _ _

theorem stays_stepInit_past (allowed : b) : Stays b (Past act d) stepInit :=
  stays_metadataOp allowed (stays_mkRead blind_past) (fun _ _ h => h.decide free _ _ _ _) (stays_metadataFault_past free)

theorem stays_stepReadStreamInfo_past (allowed : b) : Stays b (Past act d) stepReadStreamInfo := by
  refine stays_bind (stays_look _) fun _ => stays_metadataOp allowed (by simp) (fun x => ?_) (stays_metadataFault_past free)
  refine stays_ite (stays_metadataFault_past free _ _) (stays_ite (stays_metadataFault_past free _ _) (stays_bind (stays_look _) fun _ => ?_))
  refine stays_metadataOp allowed (by simp) (fun _ => ?_) (stays_metadataFault_past free)
  refine stays_metadataOp allowed (by simp) (fun _ => ?_) (stays_metadataFault_past free)
  exact stays_bind (fun _ h => h.addMetadata _) fun _ => stays_afterBlock_past free _

theorem stays_stepReadMetadata_past (allowed : b) : Stays b (Past act d) stepReadMetadata := by
  refine stays_bind (stays_look _) fun _ => stays_metadataOp allowed (by simp) (fun x => ?_) (stays_metadataFault_past free)
  refine stays_ite (stays_metadataFault_past free _ _) (stays_metadataOp allowed (by simp) (fun _ => ?_) (stays_metadataFault_past free))
  simp (maxDischargeDepth := 100) [blind_past, stays_afterBlock_past free]

theorem stays_finishDecode_past : Stays b (Past act d) finishDecode := by
  refine stays_bind (stays_md5Final blind_past) fun _ => stays_bind (stays_readReg _) fun si =>
    stays_bind (stays_update.2 fun s h => ?_) fun _ => stays_bind (stays_look _) fun _ =>
    stays_bind (stays_update.2 fun s h => ?_) fun _ => stays_update.2 fun s h => (h.addReport _).decide free _ _ _ _
  · unfold checkTotals
    split <;> exact h
  · unfold recordVerdict
    split
    · exact h.record _ _
    · exact h

theorem stays_enterResync_past (sub : SyncSub) (start : Nat) : Stays b (Past act d) (enterResync sub start) := fun _ h =>
  (h.record (.sync sub) start).decide free .resync _ _ _

omit free in
@[simp] theorem stays_emitBlock_past : Stays b (Past act d) emitBlock := by
  refine stays_bind (stays_md5UpdatePcm blind_past) fun _ => stays_bind (stays_readReg _) fun _ => stays_bind (stays_readReg _) fun n =>
    stays_bind (stays_readReg _) fun _ => stays_bind (stays_readReg _) fun _ => stays_bind (stays_readReg _) fun _ =>
    stays_bind (stays_readSmp _ _) fun _ => stays_bind (fun _ h => h.addPcm _) fun _ => stays_update.2 fun s h => ?_
  exact h

theorem stays_stepSynced_past (allowed : b) : Stays b (Past act d) stepSynced := by
  refine stays_bind (stays_look _) fun _ => stays_bind (stays_look _) fun _ => stays_bind (stays_look _) fun _ => ?_
  refine stays_ite (stays_ite (stays_asIssued allowed (stays_finishDecode_past free)) stays_hold) ?_
  refine stays_bind (stays_attempt allowed stays_decFrame_past) fun r => ?_
  split
  · exact stays_asIssued allowed stays_emitBlock_past
  · exact stays_enterResync_past free _ _
  · exact stays_ite (stays_bind (fun _ h => h.record _ _) fun _ => stays_enterResync_past free _ _) (stays_fatal_past free _ _)

theorem stays_stepResync_past (allowed : b) : Stays b (Past act d) stepResync := by
  have ended (stop pos : Nat) (how : ResyncHow) (t : State) (h : Past act d t) : Past act d (endResync stop pos how t) := by
    unfold endResync
    split <;> exact h.addReport _
  refine stays_bind (stays_look _) fun p => stays_bind (stays_look _) fun input => stays_bind (stays_look _) fun _ => ?_
  split
  · exact stays_update.2 fun s h => (ended _ _ _ s h).decide free .synced _ _ _
  · refine stays_ite (stays_bind (ended _ _ _) fun _ => stays_bind (stays_look _) fun _ => ?_) stays_hold
    exact stays_ite (stays_fatal_past free _ _) (stays_asIssued allowed (stays_finishDecode_past free))

end

/-- A sequencer that has reached no terminal state may fail (60_exceptions.md R374). -/
def State.MayFail (d : State) : Prop :=
  if d.mode = .encode then ¬ (d.estate = .finished ∨ d.estate = .failed) else d.Undecided

theorem stays_decStep_past : Stays d.MayFail (Past act d) decStep := by
  by_cases mode : d.mode = .decode
  · refine stays_bind (stays_needMode _) fun _ => stays_look_bind fun s h => ?_
    have allowed (k : s.Undecided) : d.MayFail := by simpa [State.MayFail, mode] using h.undecided k
    unfold State.Undecided at allowed
    have free := h.undecided
    unfold State.Undecided at free
    cases e : s.dstate <;> simp only [e] at allowed free ⊢
    case done | fatalError => exact stays_look _
    case init => exact stays_bind (stays_stepInit_past (free (by decide)) (allowed (by decide))) fun _ => stays_look _
    case readStreamInfo =>
      exact stays_bind (stays_stepReadStreamInfo_past (free (by decide)) (allowed (by decide))) fun _ => stays_look _
    case readMetadata =>
      exact stays_bind (stays_stepReadMetadata_past (free (by decide)) (allowed (by decide))) fun _ => stays_look _
    case synced => exact stays_bind (stays_stepSynced_past (free (by decide)) (allowed (by decide))) fun _ => stays_look _
    case resync => exact stays_bind (stays_stepResync_past (free (by decide)) (allowed (by decide))) fun _ => stays_look _
  · intro s h
    rw [decStep, bind_run, needMode_refused fun e => mode (h.mode.symm.trans e)]
    exact h

@[simp] theorem stays_decFlush_past : Stays b (Past act d) decFlush :=
  stays_bind (stays_needMode _) fun _ => stays_look_bind fun s h => stays_check_bind fun frames => stays_update.2 fun t k =>
    k.decide (h.undecided (by rcases frames with e | e <;> simp [State.Undecided, e])) .resync t.verdict t.fatalCode t.fatalSub

/-! ### The encoder sequencer -/

/-- The encoder has reached no terminal state. -/
def State.Encoding (s : State) : Prop := ¬ (s.estate = .finished ∨ s.estate = .failed)

section
variable {s : State} (h : Past act d s)
include h

theorem Past.encoding (k : s.Encoding) : d.Encoding := by
  obtain ⟨_, _, _, _, _, _, _, _, enc⟩ := h
  intro terminal
  rw [State.Encoding, enc terminal] at k
  exact k terminal

theorem Past.encode (free : d.Encoding) {x : EState} (hx : x ≠ .idle) : Past act d { s with estate := x } := by
  obtain ⟨mode, report, pcm, md, so, cfg, si, dec, _⟩ := h
  exact ⟨mode, report, pcm, md, so, fun k => ⟨(cfg k).1, hx⟩, si, dec, fun terminal => absurd terminal free⟩

theorem Past.configure (idle : d.estate = .idle) (c : Reg EncConfig) : Past act d { s with cfg := c } := by
  obtain ⟨mode, report, pcm, md, so, cfg, rest⟩ := h
  exact ⟨mode, report, pcm, md, so, fun k => absurd idle k, rest⟩

theorem Past.addSi (e : List (List Byte)) : Past act d { s with siOut := s.siOut ++ e } := by
  obtain ⟨mode, report, pcm, md, so, rest⟩ := h
  exact ⟨mode, report, pcm, md, fun k => (so k).trans (List.prefix_append _ _), rest⟩

end

/-- Outside its mode an operation is refused. -/
theorem stays_needMode_bind {β : Type} {m : Mode} {f : Unit → Op β} (h : d.mode = m → Stays b (Past act d) (f ())) :
    Stays b (Past act d) (needMode m >>= f) := by
  intro s hs
  by_cases mode : s.mode = m
  · rw [bind_ok (needMode_ok mode)]
    exact h (hs.mode.symm.trans mode) s hs
  · rw [bind_run, needMode_refused mode]
    exact hs

theorem mayFail_of_encoding (mode : d.mode = .encode) (free : d.Encoding) : d.MayFail := by
  rw [State.MayFail, if_pos mode]
  exact free

theorem stays_encInit_past : Stays d.MayFail (Past act d) encInit := by
  refine stays_needMode_bind fun mode => stays_look_bind fun s h => stays_check_bind fun idle => ?_
  have idle := h.idle idle
  have free : d.Encoding := by simp [State.Encoding, idle]
  refine stays_bind stays_payloadConfig fun c => ?_
  split
  · exact stays_bind (fun _ k => k.encode free (by decide)) fun _ => stays_raise _
  · exact stays_asIssued (mayFail_of_encoding mode free) (stays_bind
      (stays_update.2 fun _ k => ((k.configure idle (some c)).withSi (.inl mode) (some (provisionalInfo c))).withSiValid) fun _ => stays_bind (stays_mkWrite blind_past) fun _ =>
      stays_bind (stays_mbhWrite blind_past _ _) fun _ => stays_bind (stays_siWrite blind_past) fun _ _ k => k.encode free (by decide))

theorem stays_encFinish_past : Stays d.MayFail (Past act d) encFinish := by
  refine stays_needMode_bind fun mode => stays_look_bind fun s h => stays_check_bind fun ready => ?_
  have free := h.encoding (by simp [State.Encoding, ready])
  refine stays_asIssued (mayFail_of_encoding mode free) (stays_bind (stays_md5Final blind_past) fun _ =>
    stays_bind (stays_readReg _) fun _ => stays_bind (stays_look _) fun counted => stays_update.2 fun s k => ?_)
  exact ((k.withSi (.inl mode) (some counted)).addSi [bitsBytes counted.bits]).encode free (by decide)

theorem stays_encodeBlock_past (sel : Selections) (cfg : EncConfig) (block : PcmIn) (rest : List PcmIn) :
    Stays b (Past act d) (encodeBlock sel cfg block rest) :=
  stays_bind (fun _ k => k) fun _ => stays_bind (stays_md5UpdatePcm blind_past) fun _ =>
    stays_bind (stays_ite (stays_stereoSelect_past _) (stays_pure _)) fun _ => stays_bind (stays_chDecorrFwd_past _) fun _ =>
    stays_assembleFrame_past _

theorem stays_encBlock_past (sel : Selections) : Stays d.MayFail (Past act d) (encBlock sel) := by
  intro s h
  by_cases mode : s.mode = .encode
  · rcases encBlock_cases sel s with ⟨r, run, ⟨e, done⟩ | done | ⟨ready, e, done⟩⟩ | ⟨cfg, blk, rest, ready, _, _, _, run⟩
    · rw [run, done]
      exact h
    · rw [run, done]
      exact h
    · rw [run, done]
      exact h.encode (h.encoding (by simp [State.Encoding, ready])) (by decide)
    · rw [run]
      have allowed := mayFail_of_encoding (h.mode.symm.trans mode) (h.encoding (by simp [State.Encoding, ready]))
      refine stays_bind (stays_asIssued allowed (stays_encodeBlock_past sel cfg blk rest)) (fun len => stays_bind (stays_update.2
        fun s k => ?_) fun _ => stays_pure _) s h
      unfold countFrame
      split <;> exact k
  · rw [encBlock_refused sel (.inl mode)]
    exact h

/-! ### Every instruction -/

theorem delivered_past : Delivered d.MayFail (Past act d) where
  reply := fun _ _ h => h
  record := fun _ e pos h => h.record e pos
  failed := fun mayFail s e h => by
    unfold State.MayFail at mayFail
    unfold State.sequencerFailed
    split
    next mode =>
      rw [if_pos (h.mode.symm.trans mode)] at mayFail
      exact h.encode mayFail (by decide)
    all_goals
      next mode =>
        rw [if_neg (by simp [← h.mode, mode])] at mayFail
        exact h.enterFatal mayFail e

@[simp] theorem stays_leaving_past {m : Op Unit} (h : Stays b (Past act d) m) :
    Stays b (Past act d) (leaving (fun s t => { s with brPos := t.brPos, smp := t.smp }) m) := stays_leaving h fun _ _ hs _ => hs

@[simp] theorem stays_presented_past {m : Op α} (bits : List Bool) (h : Stays b (Past act d) m) :
    Stays b (Past act d) (presented bits m) := stays_presented bits h fun _ _ _ h => h

theorem exec_past {s t : State} (other : ∀ m, act ≠ .streamReset m) (e : exec act s = .next t) : Past act s t := by
  have h := Past.refl act s
  cases act
  case streamReset m => exact absurd rfl (other m)
  case inPush n =>
    refine keeps_issue delivered_past ?_ h (exec_inPush_cases e).1
    exact stays_bind (stays_look _) fun _ => stays_bind (stays_check _ _) fun _ => stays_bind (stays_payloadBytes _) fun _ =>
      stays_bind (fun _ k => k) fun _ => stays_pure _
  case outPull =>
    refine keeps_issueAlways delivered_past ?_ h e
    exact stays_bind (stays_look _) fun _ => stays_bind (fun _ k => k) fun _ => stays_pure _
  case reportPop =>
    refine keeps_issueAlways delivered_past ?_ h e
    refine stays_bind (stays_look _) fun _ => stays_bind (stays_update.2 fun _ k => ?_) fun _ => stays_pure _
    obtain ⟨mode, _, pcm, md, so, rest⟩ := k
    exact ⟨mode, fun k => absurd rfl k, pcm, md, so, rest⟩
  case pcmPop =>
    refine keeps_issueAlways delivered_past ?_ h e
    refine stays_bind (stays_look _) fun _ => stays_bind (stays_update.2 fun _ k => ?_) fun _ => stays_pure _
    obtain ⟨mode, report, _, md, so, rest⟩ := k
    exact ⟨mode, report, fun k => absurd rfl k, md, so, rest⟩
  case mdPop =>
    refine keeps_issueAlways delivered_past ?_ h e
    refine stays_bind (stays_look _) fun _ => stays_bind (stays_update.2 fun _ k => ?_) fun _ => stays_pure _
    obtain ⟨mode, report, pcm, _, so, rest⟩ := k
    exact ⟨mode, report, pcm, fun k => absurd rfl k, so, rest⟩
  case siPop =>
    refine keeps_issueAlways delivered_past ?_ h e
    refine stays_bind (stays_look _) fun _ => stays_bind (stays_update.2 fun _ k => ?_) fun _ => stays_pure _
    obtain ⟨mode, report, pcm, md, _, rest⟩ := k
    exact ⟨mode, report, pcm, md, fun k => absurd rfl k, rest⟩
  all_goals refine keeps_issue delivered_past ?_ h e
  case inEof | crc8Reset | crc16Reset | md5Reset => exact stays_bind (fun _ k => k) fun _ => stays_pure _
  case crc8Update | crc16Update =>
    exact stays_bind (stays_payloadBytes _) fun _ => stays_bind (fun _ k => k) fun _ => stays_bind (stays_look _) fun _ => stays_pure _
  case pcmPush =>
    exact stays_bind (stays_needMode _) fun _ => stays_bind (stays_look _) fun _ => stays_bind (stays_check _ _) fun _ =>
      stays_bind (stays_check _ _) fun _ => stays_bind (stays_readReg _) fun _ => stays_bind (stays_payloadSamples _ _) fun _ =>
        stays_bind (fun _ k => k) fun _ => stays_pure _
  case decStep => exact stays_bind stays_decStep_past fun _ => stays_pure _
  case encInit => exact stays_bind (stays_check _ _) fun _ => stays_bind stays_encInit_past fun _ => stays_pure _
  case encBlock => exact stays_bind (stays_encBlock_past _) fun _ => stays_pure _
  case encFinish => exact stays_bind stays_encFinish_past fun _ => stays_pure _
  all_goals simp (maxDischargeDepth := 100) [blind_past, Past]

/-! ### The streams and the flags -/

/-- Flags, output, input and cursor of `t`, which `i` reached from `s` (10_state.md R25, R29). -/
def Grown (i : Instr) (s t : State) : Prop :=
  (∀ f, s.flag f = true → t.flag f = true) ∧ s.out <+: t.out ∧
    (i ≠ .decFlush → s.input <+: t.input ∧ (s.inEof = true → t.inEof = true) ∧
      (s.CursorsInside → s.brPos ≤ t.brPos ∧ t.brPos ≤ 8 * t.input.length))

theorem Grown.refl (i : Instr) (s : State) : Grown i s s :=
  ⟨fun _ h => h, List.prefix_rfl, fun _ => ⟨List.prefix_rfl, fun h => h, fun h => ⟨Nat.le_refl _, h.1⟩⟩⟩

theorem Grown.frame {s t u : State} (h : Grown act s t) (f : Frame t u) : Grown act s u := by
  obtain ⟨flags, out, streams⟩ := h
  refine ⟨fun x k => f.sticky _ (flags x k), out.trans f.appended, fun k => ?_⟩
  obtain ⟨input, ended, cursor⟩ := streams k
  rw [f.input, f.inEof]
  refine ⟨input, ended, fun inside => ?_⟩
  obtain ⟨onward, within⟩ := cursor inside
  obtain ⟨onward', within'⟩ := f.cursor within
  exact ⟨onward.trans onward', within'⟩

theorem delivered_grown {s : State} : Delivered b (Grown act s) where
  reply := fun _ _ h => h
  record := fun t e pos h => h.frame (frame_record t e pos)
  failed := fun _ t e h => h.frame (frame_sequencerFailed t e)

theorem exec_grown {s t : State} (other : ∀ m, act ≠ .streamReset m) (e : exec act s = .next t) : Grown act s t := by
  have h := Grown.refl act s
  cases moves : movesPorts act with
  | false => exact h.frame (exec_frame moves e)
  | true =>
    cases act <;> cases moves
    case streamReset.refl m => exact absurd rfl (other m)
    case inPush.refl n =>
      refine keeps_issue (b := True) delivered_grown ?_ h (exec_inPush_cases e).1
      refine stays_bind (stays_look _) fun _ => stays_bind (stays_check _ _) fun _ => stays_bind (stays_payloadBytes _) fun bs =>
        stays_bind (stays_update.2 fun t k => ?_) fun _ => stays_pure _
      obtain ⟨flags, out, streams⟩ := k
      refine ⟨flags, out, fun other => ?_⟩
      obtain ⟨input, ended, cursor⟩ := streams other
      refine ⟨input.trans (List.prefix_append _ _), ended, fun inside => ⟨(cursor inside).1, ?_⟩⟩
      have within := (cursor inside).2
      rw [List.length_append]
      dsimp only
      omega
    case inEof.refl =>
      refine keeps_issue (b := True) delivered_grown ?_ h e
      refine stays_bind (stays_update.2 fun t k => ?_) fun _ => stays_pure _
      obtain ⟨flags, out, streams⟩ := k
      exact ⟨flags, out, fun other => ⟨(streams other).1, fun _ => rfl, (streams other).2.2⟩⟩
    case outPull.refl =>
      refine keeps_issueAlways (b := True) delivered_grown ?_ h e
      exact stays_bind (stays_look _) fun _ => stays_bind (fun _ k => k) fun _ => stays_pure _
    case decFlush.refl =>
      refine keeps_issue (b := True) delivered_grown ?_ h e
      refine stays_bind (stays_bind (stays_needMode _) fun _ => stays_bind (stays_look _) fun _ => stays_bind (stays_check _ _) fun _ =>
        stays_update.2 fun t k => ?_) fun _ => stays_pure _
      obtain ⟨flags, out, _⟩ := k.frame (frame_setFlag t .partial_)
      exact ⟨flags, out, fun other => absurd rfl other⟩

/-- Settles O58: the streams and the flags by `exec_grown`, the rest by `exec_past`. -/
theorem onlyResetTakesBack : Obligations.OnlyResetTakesBack := by
  intro i s t other e
  obtain ⟨flags, out, streams⟩ := exec_grown other e
  obtain ⟨mode, report, pcm, md, so, cfg, si, dec, enc⟩ := exec_past other e
  refine ⟨flags, out, fun k => ?_, report, pcm, md, so, mode, fun k => (cfg k).1, si, dec, enc⟩
  obtain ⟨input, ended, cursor⟩ := streams k
  exact ⟨input, ended, fun inside => (cursor inside).1⟩

end Sys2Proof.Machine

/-! PROOFS. `RES_ENCODE`, `RICE_PARAM_SELECT` and `PART_SELECT` issued by the host (45_residual.md R289 to R292). -/

namespace Sys2Proof.Machine

variable {α : Type} {s : State}

/-! ### `RES_ENCODE` -/

/-- The limits of a residual (R293). -/
theorem residualOk_iff (r : Int) : residualOk r ↔ -(2 ^ 31) < r ∧ r < 2 ^ 31 := by
  simp only [residualOk, Config.residualMin, Config.residualMax]
  omega

theorem forEach_ok {f : α → Op Unit} : ∀ l : List α, (∀ x ∈ l, f x s = .ok () s) → forEach f l s = .ok () s
  | [], _ => rfl
  | a :: l, h => (bind_ok (h a List.mem_cons_self)).trans (forEach_ok l fun x hx => h x (List.mem_cons_of_mem _ hx))

theorem entryChoice_ok {e : RcEntry} {c : PartChoice} (h : e.choice = some c) : entryChoice e s = .ok c s := by
  obtain ⟨esc, param, raw⟩ := e
  cases esc with
  | true =>
    obtain ⟨nb, rfl, rfl⟩ := Option.map_eq_some_iff.1 h
    rfl
  | false =>
    obtain ⟨k, rfl, rfl⟩ := Option.map_eq_some_iff.1 h
    rfl

theorem entryChoices_ok : ∀ {es : List RcEntry} {cs : List PartChoice}, es.map RcEntry.choice = cs.map some →
    entryChoices es s = .ok cs s
  | [], [], _ => rfl
  | e :: es, c :: cs, h => by
    rw [List.map_cons, List.map_cons, List.cons.injEq] at h
    rw [entryChoices, bind_ok (entryChoice_ok h.1), bind_ok (entryChoices_ok h.2), pure_run]

theorem checkChoice_ok {m : Nat} {x : List Int × PartChoice} (h : choiceFits m x.1 x.2 = true) : checkChoice m x s = .ok () s := by
  obtain ⟨run, c⟩ := x
  cases c with
  | rice k => exact check_true _ _ (choiceFits_rice h)
  | esc nb => exact check_true _ _ (choiceFits_esc h).2

@[simp] theorem escBits_length (nb : Nat) (r : Int) : (escBits nb r).length = nb := by
  unfold escBits
  split <;> exact natBits_length _ _

theorem partBits_length (m : Nat) (run : List Int) (c : PartChoice) : (partBits m run c).length = partSize m run c := by
  cases c with
  | rice k => simp [partBits, partSize, riceCost, List.length_flatMap]
  | esc nb =>
    simp [partBits, partSize, List.length_flatMap, Nat.add_assoc]

theorem sectionBits_length (n o : Nat) (res : List Int) (t : PartTable) : (sectionBits n o res t).length = tableSize n o res t := by
  simp [sectionBits, tableSize, List.length_flatMap, partBits_length]
  omega

section
variable {n o : Nat} {t : PartTable} (hn : s.fh.blocksize = some n) (ho : s.sf.order = some o) (table : TableIs s t)
include hn ho table

/-- `RES_ENCODE` behind the reading of its registers (R289). -/
def encodeSection (n o : Nat) (res : List Int) (t : PartTable) : Op Nat := do
  forEach (checkChoice t.method) ((partitions n o t.porder res).zip t.parts)
  check (∀ r ∈ res, residualOk r) (.logic .valueOutOfRange)
  emit (sectionBits n o res t)
  pure (sectionBits n o res t).length

theorem resEncode_porder (bad : ¬ porderValid n o t.porder) : resEncode s = .error (.exc (.logic .badOperand)) s := by
  rw [resEncode, bind_ok (blockGeometry_ok hn ho)]
  dsimp only
  rw [readReg_bind, table.2.1, written_some_bind, check_bind_false _ _ _ bad]

theorem resEncode_run (valid : porderValid n o t.porder) (parts : t.parts.length = 2 ^ t.porder) (len : n - o ≤ s.res.length) :
    resEncode s = encodeSection n o (s.res.take (n - o)) t s := by
  obtain ⟨method, porder, entries⟩ := table
  have there : 2 ^ t.porder ≤ s.rc.table.length := by
    have := congrArg List.length entries
    simp only [List.length_map, List.length_take, parts] at this
    omega
  rw [resEncode, bind_ok (blockGeometry_ok hn ho)]
  dsimp only
  rw [readReg_bind, porder, written_some_bind, check_bind_true _ _ _ valid,
    readReg_bind, method, written_some_bind, look_bind, readEntries_bind_ok _ _ there, bind_ok (entryChoices_ok entries), look_bind,
    readEntries_bind_ok _ _ len]
  rfl

end

theorem encodeSection_ok {n o : Nat} {res : List Int} {t : PartTable} (fits : TableFits n o res t) :
    encodeSection n o res t s = .ok (tableSize n o res t) (s.appendOut (sectionBits n o res t)) := by
  obtain ⟨_, _, _, _, _, _, lim, each⟩ := fits
  rw [List.all_eq_true] at each
  rw [encodeSection, bind_ok (forEach_ok _ fun x hx => checkChoice_ok (each x hx)), check_bind_true _ _ _ (fun r hr => (residualOk_iff r).2 (lim r hr)), emit_bind, pure_run,
    sectionBits_length]
  rfl

/-- Settles O35. -/
theorem residualSectionWritten : Obligations.ResidualSectionWritten := by
  unfold Obligations.ResidualSectionWritten
  intro s n o t live hn ho table len
  refine ⟨fun fits => ⟨sectionBits_length _ _ _ _, ?_⟩, fun bad => ?_, fun p8 whole room parts bad => ?_,
    fun zero ho' one fine bad => ?_⟩
  · have ⟨_, p8, whole, room, _, parts, _⟩ := fits
    exact issue_ok live (bind_ok ((resEncode_run hn ho table ⟨p8, whole, room⟩ parts len).trans (encodeSection_ok fits)))
  · refine issue_exc live (bind_error (resEncode_porder hn ho table ?_))
    rintro ⟨p8, whole, room⟩
    have : t.porder ≤ 8 := p8
    omega
  · obtain ⟨k, head, big⟩ := bad
    refine issue_exc live (bind_error ((resEncode_run hn ho table ⟨p8, whole, room⟩ parts len).trans ?_))
    obtain ⟨cs, hcs⟩ : ∃ cs, t.parts = .rice k :: cs := List.head?_eq_some_iff.1 head
    obtain ⟨run, runs, hruns⟩ : ∃ run runs, partitions n o t.porder (s.res.take (n - o)) = run :: runs :=
      List.exists_cons_of_length_pos (by rw [partitions_length]; exact Nat.two_pow_pos _)
    rw [encodeSection, hcs, hruns, List.zip_cons_cons, forEach, seq_assoc]
    exact bind_error (check_false _ _ (Nat.not_le.2 big))
  · obtain ⟨k, parts, small⟩ := fine
    have valid : porderValid n o t.porder := zero ▸ porderValid_zero ho'
    refine issue_exc live (bind_error ((resEncode_run hn ho table valid (by rw [zero, one]; rfl) len).trans ?_))
    have unfit : ¬ ∀ r ∈ s.res.take (n - o), residualOk r := fun lim => by
      obtain ⟨r, hr, out⟩ := bad
      exact out ((residualOk_iff r).1 (lim r hr))
    rw [encodeSection, bind_ok (forEach_ok _ fun x hx => ?_), check_bind_false _ _ _ unfit]
    obtain ⟨_, second⟩ := List.of_mem_zip hx
    rw [parts, List.mem_singleton] at second
    refine checkChoice_ok ?_
    rw [second]
    exact decide_eq_true small

/-! ### `RICE_PARAM_SELECT` -/

section
variable {n o kmax first count : Nat} (hn : s.fh.blocksize = some n) (ho : s.sf.order = some o)
include hn ho

theorem riceParamSelect_badOperand (bad : 30 < kmax ∨ n < first + count + o) :
    riceParamSelect kmax first count s = .error (.exc (.logic .badOperand)) s := by
  rw [riceParamSelect]
  by_cases small : kmax ≤ Config.riceParamMax
  · rw [check_bind_true _ _ _ small, bind_ok (blockGeometry_ok hn ho)]
    have : kmax ≤ 30 := small
    exact check_bind_false _ _ _ (by omega)
  · exact check_bind_false _ _ _ small

theorem riceParamSelect_run (small : kmax ≤ 30) (inside : first + count + o ≤ n) :
    riceParamSelect kmax first count s = (do
      let run ← readEntries (s.res.drop first) count
      pure (bestRice kmax run) : Op (Nat × Nat)) s := by
  rw [riceParamSelect, check_bind_true _ _ _ (show kmax ≤ Config.riceParamMax from small), bind_ok (blockGeometry_ok hn ho)]
  exact check_bind_true _ _ _ inside

end

/-- Settles O37: the reference parameter is the least one of least cost (`bestRice_best`). -/
theorem riceParameterIsLeastOfLeastCost : Obligations.RiceParameterIsLeastOfLeastCost := by
  unfold Obligations.RiceParameterIsLeastOfLeastCost
  intro s n o kmax first count live hn ho
  refine ⟨fun small inside there => ?_, fun bad => ?_, fun small inside short pos => ?_⟩
  · intro cost
    have read : readEntries (s.res.drop first) count s = .ok ((s.res.drop first).take count) s :=
      readEntries_ok (by rw [List.length_drop]; omega) s
    obtain ⟨below, best, least, before⟩ := bestRice_best kmax ((s.res.drop first).take count)
    refine ⟨_, Nat.lt_succ_iff.1 below, fun j hj => ?_, fun j hj => ?_, ?_⟩
    · exact best.symm.trans_le (least j (Nat.lt_succ_of_le hj))
    · exact best.symm.trans_lt (before j hj)
    · have answers : Answers (exec (.riceParamSelect kmax first count) s) s (.riceParam _ _) :=
        issue_ok live (bind_ok ((riceParamSelect_run hn ho small inside).trans (bind_ok read)))
      rwa [best] at answers
  · exact issue_exc live (bind_error (riceParamSelect_badOperand hn ho bad))
  · refine issue_exc live (bind_error ((riceParamSelect_run hn ho small inside).trans (bind_error ?_)))
    exact if_neg (by rw [List.length_drop]; omega)

/-! ### `PART_SELECT` -/

/-- The table's entries behind the writes of `writeTable`. -/
def selectedTable (param : Nat → Reg Nat → Fin 31) (raw : Nat → Reg Nat → Fin 32) (table : List RcEntry) (i : Nat) :
    List PartChoice → List RcEntry
  | [] => table
  | c :: cs =>
    selectedTable param raw (setAt table i (selectedEntry (param i) (raw i) (table.getD i ⟨false, none, none⟩) c)) (i + 1) cs

theorem writeTable_run (param : Nat → Reg Nat → Fin 31) (raw : Nat → Reg Nat → Fin 32) : ∀ (cs : List PartChoice) (i : Nat) (s : State),
    writeTable param raw cs i s = .ok () { s with rc := { s.rc with table := selectedTable param raw s.rc.table i cs } }
  | [], _, _ => rfl
  | _ :: cs, i, _ => writeTable_run param raw cs (i + 1) _

/-- An entry that `PART_SELECT` wrote for a choice: both registers hold values of their ranges (10_state.md R36). -/
def RcEntry.Selected (e : RcEntry) : Prop := ∃ k nb, e.param = some k ∧ k ≤ 30 ∧ e.raw = some nb ∧ nb ≤ 31

theorem selectedEntry_choice (param : Reg Nat → Fin 31) (raw : Reg Nat → Fin 32) (old : RcEntry) (c : PartChoice) :
    (selectedEntry param raw old c).choice = some c := by cases c <;> rfl

theorem selectedEntry_selected (param : Reg Nat → Fin 31) (raw : Reg Nat → Fin 32) (old : RcEntry) {c : PartChoice}
    (h : choiceInWidth c) : (selectedEntry param raw old c).Selected := by
  cases c with
  | rice k => exact ⟨_, _, rfl, Nat.le_of_lt_succ h, rfl, Nat.le_of_lt_succ (raw old.raw).isLt⟩
  | esc nb => exact ⟨_, _, rfl, Nat.le_of_lt_succ (param old.param).isLt, rfl, Nat.le_of_lt_succ h⟩

theorem selectedTable_take (param : Nat → Reg Nat → Fin 31) (raw : Nat → Reg Nat → Fin 32) :
    ∀ (cs : List PartChoice) (table : List RcEntry) (i : Nat), i ≤ table.length → (∀ c ∈ cs, choiceInWidth c) →
      ∃ es, (selectedTable param raw table i cs).take (i + cs.length) = table.take i ++ es ∧ es.length = cs.length ∧
        es.map RcEntry.choice = cs.map some ∧ ∀ e ∈ es, e.Selected
  | [], table, i, _, _ => ⟨[], by simp [selectedTable]⟩
  | c :: cs, table, i, le, ok => by
    obtain ⟨es, front, len, choices, each⟩ := selectedTable_take param raw cs
      (setAt table i (selectedEntry (param i) (raw i) (table.getD i ⟨false, none, none⟩) c)) (i + 1) (by simp [setAt]; omega)
      fun x hx => ok x (List.mem_cons_of_mem _ hx)
    refine ⟨selectedEntry (param i) (raw i) (table.getD i ⟨false, none, none⟩) c :: es, ?_, by simp [len],
      by simp [selectedEntry_choice, choices], fun e he => ?_⟩
    · rw [selectedTable, List.length_cons, show i + (cs.length + 1) = i + 1 + cs.length by omega, front]
      simp [setAt, List.take_append, Nat.min_eq_left le]
    · rcases List.mem_cons.1 he with rfl | mem
      · exact selectedEntry_selected _ _ _ (ok c List.mem_cons_self)
      · exact each e mem

theorem selectedTable_whole (param : Nat → Reg Nat → Fin 31) (raw : Nat → Reg Nat → Fin 32) (table : List RcEntry)
    {cs : List PartChoice} (ok : ∀ c ∈ cs, choiceInWidth c) :
    ((selectedTable param raw table 0 cs).take cs.length).map RcEntry.choice = cs.map some ∧
      ∀ e ∈ (selectedTable param raw table 0 cs).take cs.length, e.Selected := by
  obtain ⟨es, front, _, choices, each⟩ := selectedTable_take param raw cs table 0 (Nat.zero_le _) ok
  rw [Nat.zero_add, List.take_zero, List.nil_append] at front
  rw [front]
  exact ⟨choices, each⟩

/-- The state behind `PART_SELECT` (R291). -/
def State.withSelected (s : State) (cfg : EncConfig) (n o : Nat) (res : List Int) (t : PartTable) : State :=
  { s with rc := ⟨some t.method, some t.porder,
      selectedTable (Config.otherParam cfg n o res) (Config.otherRaw cfg n o res) s.rc.table 0 t.parts⟩ }

section
variable {cfg : EncConfig} {n o : Nat} (sel : Selections) (mode : s.mode = .encode) (hcfg : s.cfg = some cfg)
  (hn : s.fh.blocksize = some n) (ho : s.sf.order = some o)
include mode hcfg hn ho

theorem partSelect_order (big : n < o) : partSelect sel s = .error (.exc (.logic .badOperand)) s := by
  rw [partSelect, bind_ok (needMode_ok mode), readReg_bind, hcfg, written_some_bind, bind_ok (blockGeometry_ok hn ho)]
  exact check_bind_false _ _ _ (Nat.not_le.2 big)

theorem partSelect_ok (small : o ≤ n) (len : n - o ≤ s.res.length) {t : PartTable}
    (ht : selectPartitioning sel cfg n o (s.res.take (n - o)) = t) :
    partSelect sel s = .ok (tableSize n o (s.res.take (n - o)) t) (s.withSelected cfg n o (s.res.take (n - o)) t) := by
  rw [partSelect, bind_ok (needMode_ok mode), readReg_bind, hcfg, written_some_bind, bind_ok (blockGeometry_ok hn ho)]
  dsimp only
  rw [check_bind_true _ _ _ small, look_bind, readEntries_bind_ok _ _ len, ht, update_bind, bind_ok (writeTable_run _ _ _ _ _)]
  rfl

end

theorem TableChosen.inWidth {cfg : EncConfig} {n o : Nat} {res : List Int} {t : PartTable} (h : TableChosen cfg n o res t)
    (method : cfg.method ≤ 1) {c : PartChoice} (mem : c ∈ t.parts) : choiceInWidth c := by
  obtain ⟨run, fits⟩ := h.fits mem
  exact inWidth_of_choiceFits (by rw [h.method]; omega) fits

theorem tableIs_selected {cfg : EncConfig} {n o : Nat} {res : List Int} {t : PartTable} (h : TableChosen cfg n o res t)
    (method : cfg.method ≤ 1) : TableIs (s.withSelected cfg n o res t) t := by
  refine ⟨rfl, rfl, ?_⟩
  rw [← h.parts]
  exact (selectedTable_whole _ _ _ fun c mem => h.inWidth method mem).1

/-- No partition of escapable residuals is larger than its escaped form, at any width that holds it (R292). -/
theorem partSize_le {m : Nat} {run : List Int} {c : PartChoice} (ok : choiceOk m run c = true)
    (range : ∀ r ∈ run, -(2 ^ 30) ≤ r ∧ r < 2 ^ 30) {nb : Nat} (fits : ∀ r ∈ run, zz r < 2 ^ nb) :
    partSize m run c ≤ 4 + m + 5 + run.length * nb := by
  simp only [choiceOk, Bool.and_eq_true, decide_eq_true_eq] at ok
  have bound := ok.2 range
  have least : leastRawWidth run ≤ nb := leastWidthFrom_least _ 0 nb (Nat.zero_le _) fun r hr => (escFits_iff nb r).2 (fits r hr)
  have wider := Nat.mul_le_mul_left run.length least
  have width : partSize m run (.esc (leastRawWidth run)) = 4 + m + 5 + run.length * leastRawWidth run := rfl
  omega

/-- Settles O38: the table is inside the contract whatever the partitioning function is (`tableChosen_selectPartitioning`), and its
entries are written whole (`selectedTable_whole`). -/
theorem partitioningKeepsTheBound : Obligations.PartitioningKeepsTheBound := by
  unfold Obligations.PartitioningKeepsTheBound
  intro s cfg n o live mode hcfg method hn ho
  refine ⟨fun small len => ?_, fun big => issue_exc live (bind_error (partSelect_order _ mode hcfg hn ho big))⟩
  have chosen := tableChosen_selectPartitioning Config.selections (cfg := cfg) (res := s.res.take (n - o)) small
  refine ⟨_, _, issue_ok live (bind_ok (partSelect_ok _ mode hcfg hn ho small len rfl)), tableIs_selected chosen method, rfl,
    chosen.method, chosen.valid.1, chosen.valid.2.1, chosen.valid.2.2, chosen.parts, fun e he => ?_, fun x hx => ?_, rfl⟩
  · rw [← chosen.parts] at he
    exact (selectedTable_whole _ _ _ fun c mem => chosen.inWidth method mem).2 e he
  · exact ⟨choiceFits_of_choiceOk (chosen.each x hx), fun range nb fits => partSize_le (chosen.each x hx) range fits⟩

end Sys2Proof.Machine

/-! PROOFS. `LPC_ANALYZE`, `SF_SELECT` and `STEREO_SELECT` issued by the host (44_predictor.md R262, R271, R274; 47_encoder.md R346). -/

namespace Sys2Proof.Machine

variable {s : State}

theorem overwrite_take {α : Type} (l xs : List α) : (overwrite l xs).take xs.length = xs := by
  rw [← splice_zero, take_splice]

theorem overwrite_length {α : Type} (l xs : List α) : xs.length ≤ (overwrite l xs).length := by
  rw [← splice_zero]
  exact length_splice l xs

/-! ### `LPC_ANALYZE` -/

/-- The state behind the taking over of a predictor (R262). -/
def State.withLpcResult (s : State) (prec : Nat) (r : LpcResult) : State :=
  { s with
    sf := { s.sf with order := some r.coefs.length }
    qlp := overwrite s.qlp r.coefs
    qlpPrec := some prec
    qlpShift := some r.shift }

/-- What `LPC_ANALYZE` answers with a predictor, and leaves in its registers (R262). -/
theorem lpcAnalyze_run (sel : Selections) {cfg : EncConfig} {xs : List Int} (hcfg : s.cfg = some cfg)
    (coded : codedSamples s = .ok xs s) : lpcAnalyze sel s = match analyzeLpc sel cfg xs with
      | none => .ok none s
      | some r => .ok (some r.coefs.length) (s.withLpcResult cfg.qlpPrec r) := by
  rw [lpcAnalyze, bind_ok (readReg_some hcfg), bind_ok coded]
  cases analyzeLpc sel cfg xs <;> rfl

/-! ### `SF_SELECT` -/

/-- The subframe registers of a choice (R271). -/
def choiceRegs (depth c : Nat) (x : SfChoice) : SfRegs :=
  ⟨some (choiceType x), some (choiceOrder x), some (choiceWasted x), some (depth - choiceWasted x), some c⟩

/-- What `SF_SELECT` issues for its choice. -/
def codeChoice (sel : Selections) (cfg : EncConfig) : SfChoice → Op Unit
  | .constant _ | .verbatim _ => pure ()
  | .fixed _ o => do
    let _ ← fixedResidual o
    let _ ← partSelect sel
    pure ()
  | .lpc _ r => do
    setPredictor cfg.qlpPrec r
    let _ ← lpcResidual
    let _ ← partSelect sel
    pure ()

theorem sfSelect_run (sel : Selections) {cfg : EncConfig} {n ch c ca : Nat} (mode : s.mode = .encode) (hcfg : s.cfg = some cfg)
    (hch : s.fh.channels = some ch) (hc : c < ch) (hn : s.fh.blocksize = some n) (hca : s.fh.chanAssign = some ca)
    (long : n ≤ (s.row c).length) {choice : SfChoice}
    (chosen : selectSubframe sel cfg (cfg.bps + sideBit ca c) ((s.row c).take n) = choice) {u : State}
    (coded : codeChoice sel cfg choice { s with sf := choiceRegs (cfg.bps + sideBit ca c) c choice } = .ok () u) :
    sfSelect sel c s =
      .ok (choiceSize (selectPartitioning sel) cfg (cfg.bps + sideBit ca c) ((s.row c).take n) choice) u := by
  rw [sfSelect, bind_ok (needMode_ok mode), bind_ok (readReg_some hcfg), bind_ok (readReg_some hch), check_bind_true _ _ _ hc,
    bind_ok (readReg_some hn), bind_ok (readReg_some hca), bind_ok (readRow_ok long)]
  dsimp only
  rw [chosen, update_bind]
  generalize hsize : choiceSize (selectPartitioning sel) cfg (cfg.bps + sideBit ca c) ((s.row c).take n) choice = size
  have run : (codeChoice sel cfg choice >>= fun _ => (pure size : Op Nat))
      { s with sf := choiceRegs (cfg.bps + sideBit ca c) c choice } = .ok size u := bind_ok coded
  cases choice <;> simp only [codeChoice, seq_assoc, pure_bind] at run <;> exact run

/-- The state behind `SF_SELECT` of a choice with a predictor: residual and partition table of the choice (R271). -/
def State.withCoded (s : State) (cfg : EncConfig) (n : Nat) (xs : List Int) (choice : SfChoice) (t : PartTable) : State :=
  (s.withResidual (choiceResidual xs choice)).withSelected cfg n (choiceOrder choice) (choiceResidual xs choice) t

theorem choiceResidual_length (xs : List Int) {x : SfChoice} (h : choiceType x = .fixed ∨ choiceType x = .lpc) :
    (choiceResidual xs x).length = xs.length - choiceOrder x := by
  cases x <;> simp_all [choiceType, choiceResidual, choiceOrder, shiftDown]

/-- `PART_SELECT` behind the residual that fills the block (R291). -/
theorem partSelect_withResidual (sel : Selections) {cfg : EncConfig} {n o : Nat} (mode : s.mode = .encode) (hcfg : s.cfg = some cfg)
    (hn : s.fh.blocksize = some n) (ho : s.sf.order = some o) (on : o ≤ n) {res : List Int} (len : res.length = n - o)
    {t : PartTable} (ht : selectPartitioning sel cfg n o res = t) :
    partSelect sel (s.withResidual res) = .ok (tableSize n o res t) ((s.withResidual res).withSelected cfg n o res t) := by
  have taken : (s.withResidual res).res.take (n - o) = res := by rw [← len, State.withResidual_take]
  have run := partSelect_ok (s := s.withResidual res) (t := t) sel mode hcfg hn ho on (len ▸ overwrite_length _ _) (by rw [taken, ht])
  rwa [taken] at run

section
variable (sel : Selections) {cfg : EncConfig} {n c w o depth : Nat} {xs : List Int} (mode : s.mode = .encode)
  (hcfg : s.cfg = some cfg) (hn : s.fh.blocksize = some n) (long : n ≤ (s.row c).length) (hxs : xs = (s.row c).take n)
include mode hcfg hn long hxs

/-- `SF_SELECT` with a Fixed predictor. -/
theorem codeChoice_fixed (hsf : s.sf = choiceRegs depth c (.fixed w o)) (o4 : o ≤ 4) (on : o ≤ n) {t : PartTable}
    (ht : selectPartitioning sel cfg n o (choiceResidual xs (.fixed w o)) = t) :
    codeChoice sel cfg (.fixed w o) s = .ok () (s.withCoded cfg n xs (.fixed w o) t) := by
  have coded : shiftDown w xs = ((s.row c).take n).map (· / 2 ^ w) := by rw [hxs, shiftDown]
  have len : (choiceResidual xs (.fixed w o)).length = n - o := by
    rw [choiceResidual_length xs (.inl rfl), hxs, List.length_take_of_le long, choiceOrder]
  have order : s.sf.order = some o := by rw [hsf]; rfl
  obtain ⟨m, residual⟩ := fixedResidual_ok hn (by rw [hsf]; rfl) (by rw [hsf]; rfl) long coded order o4 on
  rw [codeChoice, bind_ok residual]
  exact bind_ok (partSelect_withResidual sel mode hcfg hn order on len ht)

/-- `SF_SELECT` with an LPC predictor. -/
theorem codeChoice_lpc {r : LpcResult} (hsf : s.sf = choiceRegs depth c (.lpc w r)) (range : LpcInRange cfg n r) {t : PartTable}
    (ht : selectPartitioning sel cfg n r.coefs.length (choiceResidual xs (.lpc w r)) = t) :
    codeChoice sel cfg (.lpc w r) s = .ok () ((s.withLpcResult cfg.qlpPrec r).withCoded cfg n xs (.lpc w r) t) := by
  have coded : shiftDown w xs = ((s.row c).take n).map (· / 2 ^ w) := by rw [hxs, shiftDown]
  have len : (choiceResidual xs (.lpc w r)).length = n - r.coefs.length := by
    rw [choiceResidual_length xs (.inr rfl), hxs, List.length_take_of_le long, choiceOrder]
  obtain ⟨m, residual⟩ := lpcResidual_ok (s := s.withLpcResult cfg.qlpPrec r) (c := c) (w := w) hn
    (show s.sf.ch = some c by rw [hsf]; rfl) (show s.sf.wasted = some w by rw [hsf]; rfl) long coded rfl
    ⟨range.order1, range.order32, range.orderBlock⟩ rfl (overwrite_length _ _)
  rw [show (s.withLpcResult cfg.qlpPrec r).qlp.take r.coefs.length = r.coefs from overwrite_take _ _] at residual
  rw [codeChoice, setPredictor, update_bind]
  exact (bind_ok residual).trans (bind_ok
    (partSelect_withResidual (s := s.withLpcResult cfg.qlpPrec r) sel mode hcfg hn rfl range.orderBlock len ht))

end

theorem TableChosen.tableFits {cfg : EncConfig} {n o : Nat} {res : List Int} {t : PartTable} (h : TableChosen cfg n o res t)
    (method : cfg.method ≤ 1) (len : res.length = n - o) (lim : ∀ r ∈ res, residualOk r) : TableFits n o res t := by
  obtain ⟨p8, whole, room⟩ := h.valid
  refine ⟨h.method.trans_le method, p8, whole, room, len, h.parts, fun r hr => (residualOk_iff r).1 (lim r hr), ?_⟩
  rw [List.all_eq_true]
  exact fun x hx => choiceFits_of_choiceOk (h.each x hx)

theorem selectStereo_mem (sel : Selections) (cfg : EncConfig) (l r : List Int) :
    selectStereo sel cfg l r = 1 ∨ selectStereo sel cfg l r = 8 ∨ selectStereo sel cfg l r = 9 ∨ selectStereo sel cfg l r = 10 := by
  have ref : refStereo sel cfg l r = 1 ∨ refStereo sel cfg l r = 8 ∨ refStereo sel cfg l r = 9 ∨ refStereo sel cfg l r = 10 := by
    simp only [refStereo, cheapest]
    split <;> split <;> split <;> simp
  unfold selectStereo
  split
  · split
    next ok => exact ok
    next => exact ref
  · exact ref

section
variable (sel : Selections) {cfg : EncConfig} {n : Nat} (mode : s.mode = .encode) (hcfg : s.cfg = some cfg)
  (hn : s.fh.blocksize = some n) (left : n ≤ (s.row 0).length) (right : n ≤ (s.row 1).length)
include mode

theorem stereoSelect_channels {ch : Nat} (hch : s.fh.channels = some ch) (h : ch ≠ 2) :
    stereoSelect sel s = .error (.exc (.logic .badOperand)) s := by
  rw [stereoSelect, bind_ok (needMode_ok mode), bind_ok (readReg_some hch)]
  exact check_bind_false _ _ _ h

include hcfg hn left right in
theorem stereoSelect_ok (hch : s.fh.channels = some 2) :
    stereoSelect sel s = .ok (selectStereo sel cfg ((s.row 0).take n) ((s.row 1).take n))
      { s with sf := SfRegs.reset, qlp := [], qlpPrec := none, qlpShift := none, rc := RcRegs.reset, res := [] } := by
  rw [stereoSelect, bind_ok (needMode_ok mode), bind_ok (readReg_some hch), check_bind_true _ _ _ rfl, bind_ok (readReg_some hcfg),
    bind_ok (readReg_some hn), bind_ok (readRow_ok left), bind_ok (readRow_ok right)]
  rfl

end

/-! ### The contracts -/

/-- What `SF_SELECT` leaves of a choice with a predictor: residual and table in their registers, within the limits, and the size
of their section (R271, R274). -/
theorem withCoded_contract (sel : Selections) {cfg : EncConfig} {n depth : Nat} {xs : List Int} {x : SfChoice}
    (chosen : SubframeChosen cfg depth xs x) (method : cfg.method ≤ 1) (len : xs.length = n)
    (predicted : choiceType x = .fixed ∨ choiceType x = .lpc) {u : State} {t : PartTable}
    (ht : selectPartitioning sel cfg n (choiceOrder x) (choiceResidual xs x) = t) (hu : u = s.withCoded cfg n xs x t) :
    TableIs u t ∧ TableFits n (choiceOrder x) (u.res.take (n - choiceOrder x)) t ∧
      choiceSection (selectPartitioning sel) cfg xs x = tableSize n (choiceOrder x) (u.res.take (n - choiceOrder x)) t ∧
      n - choiceOrder x ≤ u.res.length ∧ ∀ r ∈ u.res.take (n - choiceOrder x), -(2 ^ 31) < r ∧ r < 2 ^ 31 := by
  have resLen : (choiceResidual xs x).length = n - choiceOrder x := by rw [choiceResidual_length xs predicted, len]
  have taken : u.res.take (n - choiceOrder x) = choiceResidual xs x := by
    rw [hu, ← resLen]
    exact overwrite_take _ _
  have table : TableChosen cfg n (choiceOrder x) (choiceResidual xs x) t :=
    ht ▸ tableChosen_selectPartitioning sel (len ▸ chosen.order_le.2)
  rw [taken]
  refine ⟨hu ▸ tableIs_selected table method, table.tableFits method resLen chosen.residual, ?_, ?_,
    fun r hr => (residualOk_iff r).1 (chosen.residual r hr)⟩
  · rw [choiceSection, len, ht]
  · rw [hu, ← resLen]
    exact overwrite_length _ _

theorem SubframeChosen.wasted_cases {cfg : EncConfig} {depth : Nat} {xs : List Int} {x : SfChoice}
    (h : SubframeChosen cfg depth xs x) :
    choiceWasted x = 0 ∨ (choiceWasted x < depth ∧ ∀ y ∈ xs, y % 2 ^ choiceWasted x = 0) :=
  h.wasted.imp_right fun ⟨_, lt, low, _⟩ => ⟨lt, low⟩

/-- Settles O39: each selection is inside its contract whatever the implementation's functions are. -/
theorem selectionsStayInsideTheirContracts : Obligations.SelectionsStayInsideTheirContracts := by
  unfold Obligations.SelectionsStayInsideTheirContracts
  refine ⟨fun s cfg n c w live hcfg hn hc hw long => ?_,
    fun s cfg n ch c ca depth xs live mode hcfg hch hc hn hca long hxs hdepth method => ?_,
    fun s cfg n live mode hcfg hn left right => ⟨fun hch => ?_, fun ch hch other => ?_⟩⟩
  · have run := lpcAnalyze_run Config.selections hcfg (codedSamples_ok hn hc hw long rfl)
    cases found : analyzeLpc Config.selections cfg (((s.row c).take n).map (· / 2 ^ w)) with
    | none =>
      rw [found] at run
      exact .inl (issue_ok live (bind_ok run))
    | some r =>
      rw [found] at run
      have range := analyzeLpc_inRange found
      have order := range.orderBlock
      rw [List.length_map, List.length_take_of_le long] at order
      refine .inr ⟨_, r.coefs.length, r.shift, issue_ok live (bind_ok run), rfl, range.order1, range.order32, range.orderMax, order,
        rfl, overwrite_length _ _, fun q hq => range.coefs q ?_, rfl, rfl, range.shift, rfl⟩
      rwa [State.withLpcResult, overwrite_take] at hq
  · have len : xs.length = n := by rw [hxs, List.length_take_of_le long]
    have run := fun {choice} chosen {u} coded => sfSelect_run Config.selections (choice := choice) (u := u) mode hcfg hch hc hn hca
      long chosen coded
    rw [← hxs, ← hdepth] at run
    have chosen := subframeChosen Config.selections cfg depth xs
    generalize hx : selectSubframe Config.selections cfg depth xs = x at chosen
    cases x with
    | constant w =>
      refine ⟨_, _, w, 0, .constant, issue_ok live (bind_ok (run hx rfl)), rfl, fun _ => rfl, by simp, by simp, rfl,
        chosen.wasted_cases, fun _ => chosen.constant rfl, by simp, by simp, by simp, fun _ => rfl, rfl⟩
    | verbatim w =>
      refine ⟨_, _, w, 0, .verbatim, issue_ok live (bind_ok (run hx rfl)), rfl, by simp, fun _ => by rw [choiceSize, len]; rfl, by simp,
        rfl, chosen.wasted_cases, by simp, by simp, by simp, by simp, fun _ => rfl, rfl⟩
    | fixed w o =>
      obtain ⟨o4, on⟩ := chosen.fixed w o rfl
      rw [len] at on
      let v : State := { s with sf := choiceRegs depth c (.fixed w o) }
      have coded := codeChoice_fixed (s := v) Config.selections mode hcfg hn long hxs rfl o4 on rfl
      obtain ⟨isTable, fits, size, enough, lim⟩ := withCoded_contract (s := v) Config.selections chosen method len (.inl rfl) rfl rfl
      refine ⟨_, _, w, o, .fixed, issue_ok live (bind_ok (run hx coded)), rfl, by simp, by simp, fun _ => ⟨_, isTable, fits, ?_⟩, rfl,
        chosen.wasted_cases, by simp, fun _ => ⟨o4, on⟩, by simp, fun _ => ⟨enough, lim⟩, by simp, rfl⟩
      rw [choiceSize, size]
      rfl
    | lpc w r =>
      let v : State := { s with sf := choiceRegs depth c (.lpc w r) }
      have range := chosen.lpc w r rfl
      rw [len] at range
      have coded := codeChoice_lpc (s := v) Config.selections mode hcfg hn long hxs rfl range rfl
      obtain ⟨isTable, fits, size, enough, lim⟩ := withCoded_contract (s := v.withLpcResult cfg.qlpPrec r) Config.selections chosen
        method len (.inr rfl) rfl rfl
      refine ⟨_, _, w, r.coefs.length, .lpc, issue_ok live (bind_ok (run hx coded)), rfl, by simp, by simp,
        fun _ => ⟨_, isTable, fits, ?_⟩, rfl, chosen.wasted_cases, by simp, by simp,
        fun _ => ⟨range.order1, range.order32, range.orderBlock, rfl⟩, fun _ => ⟨enough, lim⟩, by simp, ?_⟩
      · rw [choiceSize, size, if_pos rfl]
        simp only [choiceWasted, Config.qlpPrecBits, Config.qlpShiftBits, Nat.add_assoc]
        rfl
      · simp only [State.withCoded, State.withSelected, State.withResidual, State.withLpcResult, v]
  · refine ⟨_, selectStereo_mem _ _ _ _, issue_ok live (bind_ok (stereoSelect_ok _ mode hcfg hn left right hch))⟩
  · exact issue_exc live (bind_error (stereoSelect_channels _ mode hch other))

end Sys2Proof.Machine

/-! PROOFS. The predictor issued by the host: analysis and synthesis follow the same recurrence (44_predictor.md R256 to R261, R272). -/

namespace Sys2Proof.Machine

variable {s : State}

/-! ### Prediction, sample by sample -/

/-- A prediction from the samples before (newest first) is the recurrence `at_` of the spec on a row, from entry `o` on. -/
def Predicts (predict : List Int → Int) (at_ : List Int → Nat → Int) (o : Nat) : Prop :=
  ∀ (xs : List Int) (i : Nat), o ≤ i → i ≤ xs.length → predict (xs.take i).reverse = at_ xs i

/-- The `j`-th newest of the first `i` samples. -/
theorem getD_reverse_take {xs : List Int} {i j : Nat} (hi : i ≤ xs.length) (hj : j < i) :
    (xs.take i).reverse.getD j 0 = sampleAt xs (i - 1 - j) := by
  have len : (xs.take i).length = i := List.length_take_of_le hi
  simp only [List.getD_eq_getElem?_getD]
  rw [List.getElem?_reverse (by omega), len, List.getElem?_take_of_lt (by omega)]

theorem fixedPredict_predicts {o : Nat} (h : o ≤ 4) : Predicts (fixedPredict o) (fixedAt o) o := by
  intro xs i hi len
  have entry (j : Nat) (hj : j < o) : (xs.take i).reverse.getD j 0 = sampleAt xs (i - (j + 1)) := by
    rw [getD_reverse_take len (by omega), Nat.sub_sub, Nat.add_comm 1 j]
  match o, h with
  | 0, _ => rfl
  | 1, _ => exact entry 0 (by decide)
  | 2, _ => simp only [fixedPredict, fixedAt, entry 0 (by decide), entry 1 (by decide)]
  | 3, _ => simp only [fixedPredict, fixedAt, entry 0 (by decide), entry 1 (by decide), entry 2 (by decide)]
  | 4, _ => simp only [fixedPredict, fixedAt, entry 0 (by decide), entry 1 (by decide), entry 2 (by decide), entry 3 (by decide)]

theorem zipWith_mul_take {qlp hist : List Int} {o : Nat} (hq : o ≤ qlp.length) (hh : o ≤ hist.length) :
    List.zipWith (· * ·) (qlp.take o) hist = (List.range o).map fun j => qlp.getD j 0 * hist.getD j 0 := by
  refine List.ext_getElem ?_ fun j h1 h2 => ?_
  · simp only [List.length_zipWith, List.length_take, List.length_map, List.length_range]
    omega
  · rw [List.length_map, List.length_range] at h2
    simp only [List.getElem_zipWith, List.getElem_take, List.getElem_map, List.getElem_range]
    rw [List.getD_eq_getElem _ _ (by omega), List.getD_eq_getElem _ _ (by omega)]

theorem lpcPredict_predicts {qlp : List Int} {o : Nat} (shift : Nat) (h : o ≤ qlp.length) :
    Predicts (lpcPredict (qlp.take o) shift) (lpcAt qlp shift o) o := by
  intro xs i hi len
  rw [lpcPredict, zipWith_mul_take h (by rw [List.length_reverse, List.length_take_of_le len]; exact hi), lpcAt]
  congr 2
  refine List.map_congr_left fun j hj => ?_
  rw [List.mem_range] at hj
  rw [getD_reverse_take len (by omega)]

/-! ### Analysis and synthesis, entry by entry -/

theorem residualRun_getElem? (predict : List Int → Int) : ∀ (hist xs : List Int) (k : Nat), k < xs.length →
    (residualRun predict hist xs)[k]? = some (sampleAt xs k - predict ((xs.take k).reverse ++ hist))
  | _, [], k, h => absurd h (Nat.not_lt_zero k)
  | hist, x :: xs, 0, _ => by simp [residualRun]
  | hist, x :: xs, k + 1, h => by
    rw [residualRun, List.getElem?_cons_succ, residualRun_getElem? predict (x :: hist) xs k (Nat.lt_of_succ_lt_succ h)]
    simp

/-- Each residual is its sample minus the prediction (R260, R261). -/
theorem residualOf_getElem? {predict : List Int → Int} {at_ : List Int → Nat → Int} {o : Nat} (h : Predicts predict at_ o)
    {xs : List Int} {i : Nat} (hi : o ≤ i) (len : i < xs.length) :
    (residualOf predict o xs)[i - o]? = some (sampleAt xs i - at_ xs i) := by
  have index : o + (i - o) = i := Nat.add_sub_cancel' hi
  rw [residualOf, residualRun_getElem? _ _ _ _ (by rw [List.length_drop]; omega), ← List.reverse_append]
  congr 2
  · simp only [List.getD_eq_getElem?_getD, List.getElem?_drop, index]
  · rw [← h xs i hi len.le, ← List.take_add, index]

theorem residualRun_restoreRun (predict : List Int → Int) : ∀ (hist res : List Int),
    residualRun predict hist (restoreRun predict hist res) = res
  | _, [] => rfl
  | hist, r :: res => by
    rw [restoreRun, residualRun, residualRun_restoreRun predict _ res, Int.add_sub_cancel]

theorem restoreRun_length (predict : List Int → Int) : ∀ hist res : List Int, (restoreRun predict hist res).length = res.length
  | _, [] => rfl
  | hist, r :: res => by rw [restoreRun, List.length_cons, List.length_cons, restoreRun_length]

theorem overwrite_getElem?_lt {α : Type} {l xs : List α} {i : Nat} (h : i < xs.length) : (overwrite l xs)[i]? = xs[i]? := by
  rw [overwrite, List.getElem?_append_left h]

theorem overwrite_getElem?_ge {α : Type} {l xs : List α} {i : Nat} (h : xs.length ≤ i) : (overwrite l xs)[i]? = l[i]? := by
  rw [overwrite, List.getElem?_append_right h, List.getElem?_drop, Nat.add_sub_cancel' h]

/-- A row rebuilt from its first `o` samples and the residual of a block of `n` (R257, R258). -/
def restoredRow (predict : List Int → Int) (o n : Nat) (row res : List Int) : List Int :=
  overwrite row (row.take o ++ restoreFrom predict (row.take o) (res.take (n - o)))

section
variable {predict : List Int → Int} {o n : Nat} {row res : List Int} (warm : o ≤ row.length) (enough : n - o ≤ res.length)
include warm enough

theorem restored_length : (row.take o ++ restoreFrom predict (row.take o) (res.take (n - o))).length = o + (n - o) := by
  rw [List.length_append, restoreFrom, restoreRun_length, List.length_take_of_le warm, List.length_take_of_le enough]

/-- The warm-up and the samples beyond the block stay. -/
theorem restoredRow_outside {i : Nat} (h : i < o ∨ n ≤ i) : (restoredRow predict o n row res)[i]? = row[i]? := by
  have len := restored_length (predict := predict) warm enough
  by_cases start : i < o
  · rw [restoredRow, overwrite_getElem?_lt (by omega),
      List.getElem?_append_left (by rw [List.length_take_of_le warm]; exact start), List.getElem?_take_of_lt start]
  · exact overwrite_getElem?_ge (by omega)

/-- Each sample is its residual plus the prediction from the row. -/
theorem restoredRow_inside {at_ : List Int → Nat → Int} (h : Predicts predict at_ o) {i : Nat} (hi : o ≤ i) (hn : i < n) :
    (restoredRow predict o n row res)[i]? = some (sampleAt res (i - o) + at_ (restoredRow predict o n row res) i) := by
  have len := restored_length (predict := predict) warm enough
  generalize hys : row.take o ++ restoreFrom predict (row.take o) (res.take (n - o)) = ys at len
  have front : ys.take o = row.take o := by
    rw [← hys, List.take_left' (List.length_take_of_le warm)]
  have back : residualOf predict o ys = res.take (n - o) := by
    rw [residualOf, front, ← hys, List.drop_left' (List.length_take_of_le warm), restoreFrom, residualRun_restoreRun]
  have entry := residualOf_getElem? h hi (show i < ys.length by omega)
  rw [back, List.getElem?_take_of_lt (by omega)] at entry
  have same : at_ (restoredRow predict o n row res) i = at_ ys i := by
    rw [← h _ i hi (by rw [restoredRow, hys]; exact le_trans (by omega) (overwrite_length row ys)), ← h ys i hi (by omega),
      restoredRow, hys, overwrite, List.take_append_of_le_length (by omega)]
  rw [same, restoredRow, hys, overwrite_getElem?_lt (by omega)]
  have sample : ys[i]? = some (ys.getD i 0) := by
    rw [List.getD_eq_getElem?_getD, List.getElem?_eq_getElem (by omega), Option.getD_some]
  have residual : res.getD (i - o) 0 = ys.getD i 0 - at_ ys i := by
    rw [List.getD_eq_getElem?_getD, entry, Option.getD_some]
  rw [sample, show sampleAt res (i - o) = _ from residual, Int.sub_add_cancel]

end

/-! ### `FIXED_RESTORE` and `LPC_RESTORE` -/

theorem modify_eq_set {α : Type} (f : α → α) (d : α) : ∀ (l : List α) (c : Nat), l.modify c f = l.set c (f (l.getD c d))
  | [], _ => by simp
  | a :: l, 0 => rfl
  | a :: l, c + 1 => by simp [modify_eq_set f d l c]

theorem written_none_bind {α β : Type} (g : α → Op β) : (written (none : Reg α) >>= g) s = .error (.exc (.logic .unwrittenState)) s :=
  bind_error (written_none s)

theorem readEntries_unwritten {α : Type} {l : List α} {n : Nat} (h : l.length < n) :
    readEntries l n s = .error (.exc (.logic .unwrittenState)) s := if_neg (Nat.not_le.2 h)

/-- What both restore operations do behind the reading of the predictor. -/
def restoreRow (predict : List Int → Int) (c n o : Nat) : Op Unit := do
  let warmup ← readRow c o
  let res ← look State.res
  let res ← readEntries res (n - o)
  writeRow c (warmup ++ restoreFrom predict warmup res)

/-- The state with channel `c` rebuilt (R257, R258). -/
def State.restored (s : State) (predict : List Int → Int) (c o n : Nat) : State :=
  { s with smp := s.smp.set c (restoredRow predict o n (s.row c) s.res) }

section
variable {predict : List Int → Int} {c n o : Nat}

theorem restoreRow_ok (warm : o ≤ (s.row c).length) (enough : n - o ≤ s.res.length) :
    restoreRow predict c n o s = .ok () (s.restored predict c o n) := by
  rw [restoreRow, bind_ok (readRow_ok warm), look_bind, readEntries_bind_ok _ _ enough, writeRow, update_run, modify_eq_set _ []]
  rfl

theorem restoreRow_unwritten (h : (s.row c).length < o ∨ s.res.length < n - o) :
    restoreRow predict c n o s = .error (.exc (.logic .unwrittenState)) s := by
  by_cases warm : o ≤ (s.row c).length
  · rw [restoreRow, bind_ok (readRow_ok warm), look_bind]
    exact bind_error (readEntries_unwritten (by omega))
  · exact bind_error (readEntries_unwritten (Nat.not_le.1 warm))

/-- With no sample behind the warm-up the row stays. -/
theorem restored_whole (h : n ≤ o) : s.restored predict c o n = s := by
  have row : restoredRow predict o n (s.row c) s.res = s.row c := by
    rw [restoredRow, Nat.sub_eq_zero_of_le h, List.take_zero, restoreFrom, restoreRun, List.append_nil, overwrite, List.length_take]
    refine List.ext_getElem? fun i => ?_
    grind
  rw [State.restored, row, ← modify_eq_set (fun row => row), modify_same]

variable {type : SfType} (hn : s.fh.blocksize = some n) (hc : s.sf.ch = some c) (htype : s.sf.type = some type) (ho : s.sf.order = some o)
include hn hc htype ho

theorem fixedRestore_run (h : type = .fixed ∧ o ≤ 4) :
    fixedRestore s = (if n ≤ o then pure () else restoreRow (fixedPredict o) c n o) s := by
  rw [fixedRestore, bind_ok (readReg_some hn), bind_ok (readReg_some hc), bind_ok (readReg_some htype), bind_ok (readReg_some ho),
    check_bind_true _ _ _ (by exact h)]
  rfl

theorem fixedRestore_badOperand (h : ¬ (type = .fixed ∧ o ≤ 4)) : fixedRestore s = .error (.exc (.logic .badOperand)) s := by
  rw [fixedRestore, bind_ok (readReg_some hn), bind_ok (readReg_some hc), bind_ok (readReg_some htype), bind_ok (readReg_some ho)]
  exact check_bind_false _ _ _ h

theorem lpcRestore_run (h : type = .lpc ∧ 1 ≤ o ∧ o ≤ 32) :
    lpcRestore s = (if n ≤ o then pure () else do
      let shift ← readReg State.qlpShift
      let qlp ← look State.qlp
      let qlp ← readEntries qlp o
      restoreRow (lpcPredict qlp shift) c n o : Op Unit) s := by
  rw [lpcRestore, bind_ok (readReg_some hn), bind_ok (readReg_some hc), bind_ok (readReg_some htype), bind_ok (readReg_some ho),
    check_bind_true _ _ _ (by exact h)]
  rfl

theorem lpcRestore_badOperand (h : ¬ (type = .lpc ∧ 1 ≤ o ∧ o ≤ 32)) : lpcRestore s = .error (.exc (.logic .badOperand)) s := by
  rw [lpcRestore, bind_ok (readReg_some hn), bind_ok (readReg_some hc), bind_ok (readReg_some htype), bind_ok (readReg_some ho)]
  exact check_bind_false _ _ _ h

end

section
variable {c n o : Nat} (hn : s.fh.blocksize = some n) (hc : s.sf.ch = some c) (ho : s.sf.order = some o)
include hn hc ho

theorem fixedRestore_restored (htype : s.sf.type = some .fixed) (o4 : o ≤ 4) (warm : o ≤ (s.row c).length)
    (enough : n - o ≤ s.res.length) : fixedRestore s = .ok () (s.restored (fixedPredict o) c o n) := by
  rw [fixedRestore_run hn hc htype ho ⟨rfl, o4⟩]
  split
  next h => rw [restored_whole h, pure_run]
  next => exact restoreRow_ok warm enough

theorem lpcRestore_restored {shift : Nat} (htype : s.sf.type = some .lpc) (o1 : 1 ≤ o) (o32 : o ≤ 32) (hshift : s.qlpShift = some shift)
    (coefs : o ≤ s.qlp.length) (warm : o ≤ (s.row c).length) (enough : n - o ≤ s.res.length) :
    lpcRestore s = .ok () (s.restored (lpcPredict (s.qlp.take o) shift) c o n) := by
  rw [lpcRestore_run hn hc htype ho ⟨rfl, o1, o32⟩]
  split
  next h => rw [restored_whole h, pure_run]
  next =>
    rw [bind_ok (readReg_some hshift), look_bind, readEntries_bind_ok _ _ coefs]
    exact restoreRow_ok warm enough

theorem fixedRestore_unwritten (htype : s.sf.type = some .fixed) (o4 : o ≤ 4) (on : o < n)
    (h : (s.row c).length < o ∨ s.res.length < n - o) : fixedRestore s = .error (.exc (.logic .unwrittenState)) s := by
  rw [fixedRestore_run hn hc htype ho ⟨rfl, o4⟩, if_neg (Nat.not_le.2 on), restoreRow_unwritten h]

theorem lpcRestore_unwritten (htype : s.sf.type = some .lpc) (o1 : 1 ≤ o) (o32 : o ≤ 32) (on : o < n)
    (h : s.qlpShift = none ∨ s.qlp.length < o ∨ (s.row c).length < o ∨ s.res.length < n - o) :
    lpcRestore s = .error (.exc (.logic .unwrittenState)) s := by
  rw [lpcRestore_run hn hc htype ho ⟨rfl, o1, o32⟩, if_neg (Nat.not_le.2 on), readReg_bind]
  cases hshift : s.qlpShift with
  | none => exact written_none_bind _
  | some shift =>
    rw [written_some_bind, look_bind]
    by_cases coefs : o ≤ s.qlp.length
    · rw [readEntries_bind_ok _ _ coefs]
      refine restoreRow_unwritten ?_
      rcases h with h | h | h
      · cases hshift.symm.trans h
      · omega
      · exact h
    · exact bind_error (readEntries_unwritten (Nat.not_le.1 coefs))

end

/-- Settles O30. -/
theorem restoreFollowsTheRecurrence : Obligations.RestoreFollowsTheRecurrence := by
  unfold Obligations.RestoreFollowsTheRecurrence
  intro s n c o live hn hc ho _
  refine ⟨fun htype o4 warm enough => ?_, fun shift htype o1 o32 hshift coefs warm enough => ?_,
    fun ty htype => ⟨fun bad => ?_, fun bad => ?_⟩, fun htype o4 on bad => ?_, fun htype o1 o32 on bad => ?_⟩
  · exact ⟨_, issue_unit_ok live (fixedRestore_restored hn hc ho htype o4 warm enough), fun i h => restoredRow_outside warm enough h,
      fun i hi hn => restoredRow_inside warm enough (fixedPredict_predicts o4) hi hn⟩
  · exact ⟨_, issue_unit_ok live (lpcRestore_restored hn hc ho htype o1 o32 hshift coefs warm enough),
      fun i h => restoredRow_outside warm enough h,
      fun i hi hn => restoredRow_inside warm enough (lpcPredict_predicts shift coefs) hi hn⟩
  · refine issue_unit_exc live (fixedRestore_badOperand hn hc htype ho fun ⟨fixed, o4⟩ => ?_)
    rcases bad with other | big
    · exact other fixed
    · omega
  · refine issue_unit_exc live (lpcRestore_badOperand hn hc htype ho fun ⟨lpc, range⟩ => ?_)
    rcases bad with other | big
    · exact other lpc
    · omega
  · exact issue_unit_exc live (fixedRestore_unwritten hn hc ho htype o4 on bad)
  · exact issue_unit_exc live (lpcRestore_unwritten hn hc ho htype o1 o32 on bad)

/-! ### `FIXED_RESIDUAL` and `LPC_RESIDUAL` -/

theorem foldl_max_natAbs : ∀ (l : List Int) (m : Nat), m ≤ l.foldl (fun m r => max m r.natAbs) m ∧
    (∀ r ∈ l, r.natAbs ≤ l.foldl (fun m r => max m r.natAbs) m) ∧
    (l.foldl (fun m r => max m r.natAbs) m = m ∨ ∃ r ∈ l, r.natAbs = l.foldl (fun m r => max m r.natAbs) m)
  | [], m => by simp
  | x :: l, m => by
    obtain ⟨low, bound, hit⟩ := foldl_max_natAbs l (max m x.natAbs)
    rw [List.foldl_cons]
    generalize l.foldl (fun m r => max m r.natAbs) (max m x.natAbs) = big at low bound hit
    refine ⟨(Nat.le_max_left _ _).trans low, fun r hr => ?_, ?_⟩
    · rcases List.mem_cons.1 hr with rfl | mem
      · exact (Nat.le_max_right _ _).trans low
      · exact bound r mem
    · rcases hit with start | ⟨r, mem, e⟩
      · rcases Nat.le_total m x.natAbs with le | le
        · exact .inr ⟨x, List.mem_cons_self, by rw [start, Nat.max_eq_right le]⟩
        · exact .inl (by rw [start, Nat.max_eq_left le])
      · exact .inr ⟨r, List.mem_cons_of_mem _ mem, e⟩

/-- The answer is the largest magnitude of a residual that has one (R260). -/
theorem residualPeak_isLargest (free : Nat) {res : List Int} (h : res ≠ []) : IsLargest (residualPeak free res) res := by
  obtain ⟨_, bound, hit⟩ := foldl_max_natAbs res 0
  rw [residualPeak, if_neg h, largestMagnitude]
  refine ⟨bound, ?_⟩
  rcases hit with zero | hit
  · obtain ⟨r, mem⟩ := List.exists_mem_of_ne_nil res h
    exact ⟨r, mem, le_antisymm (bound r mem) (zero.le.trans (Nat.zero_le _))⟩
  · exact hit

section
variable {n c w : Nat} {xs : List Int} (hn : s.fh.blocksize = some n)

theorem fixedResidual_badOperand {o : Nat} (hn : s.fh.blocksize = some n) (h : 4 < o ∨ n < o) :
    fixedResidual o s = .error (.exc (.logic .badOperand)) s := by
  rw [fixedResidual]
  by_cases o4 : o ≤ Config.fixedOrderMax
  · have : o ≤ 4 := o4
    rw [check_bind_true _ _ _ o4, bind_ok (readReg_some hn)]
    exact check_bind_false _ _ _ (by omega)
  · exact check_bind_false _ _ _ o4

theorem lpcResidual_badOperand {o : Nat} (hn : s.fh.blocksize = some n) (ho : s.sf.order = some o) (h : o = 0 ∨ 32 < o ∨ n < o) :
    lpcResidual s = .error (.exc (.logic .badOperand)) s := by
  rw [lpcResidual, bind_ok (readReg_some hn), bind_ok (readReg_some ho)]
  refine check_bind_false _ _ _ fun ⟨o1, o32, on⟩ => ?_
  have : o ≤ 32 := o32
  omega

variable (hc : s.sf.ch = some c) (hw : s.sf.wasted = some w) (long : n ≤ (s.row c).length)
  (hxs : xs = ((s.row c).take n).map (· / 2 ^ w))

include long hxs in
theorem coded_length : xs.length = n := by rw [hxs, List.length_map, List.length_take_of_le long]

include hn hc hw long hxs

theorem fixedResidual_run {o : Nat} (o4 : o ≤ 4) (on : o ≤ n) :
    fixedResidual o s = .ok (residualPeak (Config.emptyPeak none xs) (residualOf (fixedPredict o) o xs))
      { s with
        res := residualOf (fixedPredict o) o xs ++ s.res.drop (n - o)
        sf := { s.sf with order := some o } } := by
  rw [fixedResidual, check_bind_true _ _ _ (show o ≤ Config.fixedOrderMax from o4), bind_ok (readReg_some hn),
    check_bind_true _ _ _ on, bind_ok (codedSamples_ok hn hc hw long hxs), update_bind, pure_run, overwrite, residualOf_length,
    coded_length long hxs]

theorem lpcResidual_run {o shift : Nat} (ho : s.sf.order = some o) (range : 1 ≤ o ∧ o ≤ 32 ∧ o ≤ n) (hshift : s.qlpShift = some shift)
    (enough : o ≤ s.qlp.length) :
    lpcResidual s = .ok (residualPeak (Config.emptyPeak (some (s.qlp.take o, shift)) xs) (residualOf (lpcPredict (s.qlp.take o) shift) o xs))
      { s with res := residualOf (lpcPredict (s.qlp.take o) shift) o xs ++ s.res.drop (n - o) } := by
  rw [lpcResidual, bind_ok (readReg_some hn), bind_ok (readReg_some ho), check_bind_true _ _ _ (by exact range),
    bind_ok (readReg_some hshift), look_bind, readEntries_bind_ok _ _ enough, bind_ok (codedSamples_ok hn hc hw long hxs), update_bind,
    pure_run, overwrite, residualOf_length, coded_length long hxs]

end

theorem residualOf_ne_nil {predict : List Int → Int} {o n : Nat} {xs : List Int} (len : xs.length = n) (h : o < n) :
    residualOf predict o xs ≠ [] := by
  rw [← List.length_pos_iff, residualOf_length, len]
  omega

/-- Settles O31. -/
theorem residualIsSampleMinusPrediction : Obligations.ResidualIsSampleMinusPrediction := by
  unfold Obligations.ResidualIsSampleMinusPrediction
  intro s n c w xs live hn hc hw long hxs
  have len := coded_length long hxs
  refine ⟨fun o o4 on => ?_, fun o bad => issue_first_exc live (fixedResidual_badOperand hn bad),
    fun o shift ho hshift coefs => ⟨fun o1 o32 on => ?_, fun bad => issue_first_exc live (lpcResidual_badOperand hn ho bad)⟩⟩
  · exact ⟨_, _, by rw [residualOf_length, len], fun h => residualPeak_isLargest _ (residualOf_ne_nil len h),
      fun i hi h => residualOf_getElem? (fixedPredict_predicts o4) hi (h.trans_eq len.symm),
      issue_ok live (bind_ok (fixedResidual_run hn hc hw long hxs o4 on))⟩
  · exact ⟨_, _, by rw [residualOf_length, len], fun h => residualPeak_isLargest _ (residualOf_ne_nil len h),
      fun i hi h => residualOf_getElem? (lpcPredict_predicts shift coefs) hi (h.trans_eq len.symm),
      issue_ok live (bind_ok (lpcResidual_run hn hc hw long hxs ho ⟨o1, o32, on⟩ hshift coefs))⟩

/-! ### Analysis, then synthesis (R272) -/

theorem answerOf_ok {i : Instr} {r : Result} {t : State} (h : exec i s = .next { t with reply := some (.ok r) }) :
    answerOf i s = some (r, { t with reply := some (.ok r) }) := by
  rw [answerOf, h]

/-- A row restored from its warm-up and its own residual, whatever stood behind the warm-up. -/
theorem restoredRow_residualOf {predict : List Int → Int} {o n : Nat} {xs rest : List Int} (len : xs.length = n) (on : o ≤ n)
    (junk : List Int) : (restoredRow predict o n (xs.take o ++ junk) (residualOf predict o xs ++ rest)).take n = xs := by
  have front : (xs.take o ++ junk).take o = xs.take o := List.take_left' (List.length_take_of_le (on.trans_eq len.symm))
  have residual : (residualOf predict o xs ++ rest).take (n - o) = residualOf predict o xs :=
    List.take_left' (by rw [residualOf_length, len])
  rw [restoredRow, front, residual, restoreFrom_residualOf, ← len, overwrite_take]

theorem row_set {rows : List (List Int)} {c : Nat} (h : c < rows.length) (row : List Int) : (rows.set c row).getD c [] = row := by
  rw [List.getD_eq_getElem _ _ (by rwa [List.length_set]), List.getElem_set_self]

section
variable {predict : List Int → Int} {n c o : Nat} (junk : List Int) {t : State} (inside : c < t.smp.length)
  (long : n ≤ (t.row c).length) (on : o ≤ n)

/-- The state with the samples behind the warm-up of channel `c` replaced. -/
def State.scrambled (s : State) (c o : Nat) (junk : List Int) : State := { s with smp := s.smp.set c ((s.row c).take o ++ junk) }

include inside in
theorem scrambled_row : (t.scrambled c o junk).row c = (t.row c).take o ++ junk := row_set inside _

include inside long on in
theorem scrambled_warm : o ≤ ((t.scrambled c o junk).row c).length := by
  rw [scrambled_row junk inside, List.length_append, List.length_take_of_le (on.trans long)]
  exact Nat.le_add_right _ _

include inside long on in
/-- Whatever stands behind the warm-up, the row is rebuilt from its residual. -/
theorem scrambled_restored {rest : List Int} (hres : t.res = residualOf predict o ((t.row c).take n) ++ rest) :
    (((t.scrambled c o junk).restored predict c o n).row c).take n = (t.row c).take n := by
  have len : ((t.row c).take n).length = n := List.length_take_of_le long
  have row : (t.scrambled c o junk).row c = ((t.row c).take n).take o ++ junk := by
    rw [scrambled_row junk inside, List.take_take, Nat.min_eq_left on]
  rw [State.row, State.restored, row_set (by simpa [State.scrambled] using inside), row]
  rw [show (t.scrambled c o junk).res = t.res from rfl, hres]
  exact restoredRow_residualOf len on junk

variable (live : t.faulted = false) (hn : t.fh.blocksize = some n) (hc : t.sf.ch = some c) (ho : t.sf.order = some o) {rest : List Int}
include inside long on live hn hc ho

theorem fixedRestore_scrambled (htype : t.sf.type = some .fixed) (o4 : o ≤ 4)
    (hres : t.res = residualOf (fixedPredict o) o ((t.row c).take n) ++ rest) :
    ∃ u, answerOf .fixedRestore (t.scrambled c o junk) = some (.none, u) ∧ (u.row c).take n = (t.row c).take n := by
  have enough : n - o ≤ t.res.length := by
    rw [hres, List.length_append, residualOf_length, List.length_take_of_le long]
    exact Nat.le_add_right _ _
  have run := fixedRestore_restored (s := t.scrambled c o junk) hn hc ho htype o4 (scrambled_warm junk inside long on) enough
  exact ⟨_, answerOf_ok (issue_unit_ok (side := .read) live run), scrambled_restored junk inside long on hres⟩

theorem lpcRestore_scrambled {shift : Nat} (htype : t.sf.type = some .lpc) (o1 : 1 ≤ o) (o32 : o ≤ 32)
    (hshift : t.qlpShift = some shift) (coefs : o ≤ t.qlp.length)
    (hres : t.res = residualOf (lpcPredict (t.qlp.take o) shift) o ((t.row c).take n) ++ rest) :
    ∃ u, answerOf .lpcRestore (t.scrambled c o junk) = some (.none, u) ∧ (u.row c).take n = (t.row c).take n := by
  have enough : n - o ≤ t.res.length := by
    rw [hres, List.length_append, residualOf_length, List.length_take_of_le long]
    exact Nat.le_add_right _ _
  have run := lpcRestore_restored (s := t.scrambled c o junk) hn hc ho htype o1 o32 hshift coefs
    (scrambled_warm junk inside long on) enough
  exact ⟨_, answerOf_ok (issue_unit_ok (side := .read) live run), scrambled_restored junk inside long on hres⟩

end

/-- Settles O32: the residual that analysis leaves is that of the block, from which the block is rebuilt. -/
theorem predictionIsLossless : Obligations.PredictionIsLossless := by
  unfold Obligations.PredictionIsLossless
  intro s n c o junk live hn hc hw inside long on _
  have hxs : (s.row c).take n = ((s.row c).take n).map (· / 2 ^ 0) := by simp
  refine ⟨fun htype o4 => ?_, fun shift htype ho o1 o32 hshift coefs => ?_⟩
  · have analysis : Answers (exec (.fixedResidual o) s) _ (.nat _) :=
      issue_ok live (bind_ok (fixedResidual_run hn hc hw long hxs o4 on))
    refine ⟨_, _, answerOf_ok analysis, ?_⟩
    exact fixedRestore_scrambled junk inside long on live hn hc rfl htype o4 rfl
  · have analysis : Answers (exec .lpcResidual s) _ (.nat _) :=
      issue_ok live (bind_ok (lpcResidual_run hn hc hw long hxs ho ⟨o1, o32, on⟩ hshift coefs))
    refine ⟨_, _, answerOf_ok analysis, ?_⟩
    exact lpcRestore_scrambled junk inside long on live hn hc ho htype o1 o32 hshift coefs rfl

end Sys2Proof.Machine

/-! PROOFS. The bodies of predicted subframes read, and the subframes written, by the host's operations (44_predictor.md R254, R255,
R267 to R270). -/

namespace Sys2Proof.Machine

variable {s : State}

/-! ### A body that is refused -/

/-- An operation that reads a body is refused wholly (20_memory.md R78). -/
theorem raises_body {m : Op Unit} {t : State} {e : Exc} (live : s.faulted = false) (mode : s.mode ≠ .encode)
    (h : m s = .error (.exc e) t) : Raises (issue .read (do notEncode; atomically m; pure .none) s) s .read e :=
  issue_exc live ((notEncode_bind mode).trans (bind_error (by rw [atomically, h])))

section
variable {n c b o : Nat} {xs : List Int} (hn : s.fh.blocksize = some n) (hc : s.sf.ch = some c) (hb : s.sf.bps = some b)
  (ho : s.sf.order = some o)
include hn hc hb ho

theorem sfDecFixed_order (big : n < o) : sfDecFixed s = .error (.exc (.sync .badResidual)) s := by
  rw [sfDecFixed, bind_ok (readReg_some hn), bind_ok (readReg_some hc), bind_ok (readReg_some hb), bind_ok (readReg_some ho)]
  exact check_bind_false _ _ _ (Nat.not_le.2 big)

theorem sfDecLpc_order (big : n < o) : sfDecLpc s = .error (.exc (.sync .badResidual)) s := by
  rw [sfDecLpc, bind_ok (readReg_some hn), bind_ok (readReg_some hc), bind_ok (readReg_some hb), bind_ok (readReg_some ho)]
  exact check_bind_false _ _ _ (Nat.not_le.2 big)

/-- `SF_DEC_LPC` behind its warm-up. -/
def lpcBody (o : Nat) : Op Unit := do
  let p ← readU Config.qlpPrecBits
  check (p < Config.qlpPrecMax) (.sync .subframeReserved)
  update fun s => { s with qlpPrec := some (p + 1) }
  let shift ← readS Config.qlpShiftBits
  check (0 ≤ shift) (.sync .subframeReserved)
  update fun s => { s with qlpShift := some shift.toNat }
  readCoefs (p + 1) o 0
  resDecode
  lpcRestore

variable (small : o ≤ n) (fits : ∀ x ∈ xs, fitsS x b) (len : xs.length = o)
include small fits len

theorem sfDecLpc_warmup {rest : List Bool} (h : AtCursor s (sampleBits b xs ++ rest)) :
    ∃ t, AtCursor t rest ∧ sfDecLpc s = lpcBody o t := by
  refine ⟨{ s with brPos := s.brPos + xs.length * b, smp := s.smp.modify c fun row => splice row 0 xs }, h.behindSamples, ?_⟩
  have warm := readSamples_atCursor c b xs 0 s fits h.head
  rw [len] at warm
  rw [sfDecLpc, bind_ok (readReg_some hn), bind_ok (readReg_some hc), bind_ok (readReg_some hb), bind_ok (readReg_some ho),
    check_bind_true _ _ _ small, bind_ok warm, len]
  rfl

end

/-- The invalid precision code (R255). -/
theorem lpcBody_precision {o : Nat} (h : AtCursor s (natBits 4 15)) : ∃ t, lpcBody o s = .error (.exc (.sync .subframeReserved)) t := by
  refine ⟨{ s with brPos := s.brPos + 4 }, ?_⟩
  rw [lpcBody, bind_ok (readU_atCursor (n := Config.qlpPrecBits) (by decide) h)]
  exact check_bind_false _ _ _ (by decide)

/-- A negative shift (R255). -/
theorem lpcBody_shift {o p k : Nat} (hp : p < 15) (low : 16 ≤ k) (high : k < 32) (h : AtCursor s (natBits 4 p ++ natBits 5 k)) :
    ∃ t, lpcBody o s = .error (.exc (.sync .subframeReserved)) t := by
  have code : tc 5 ((k : Int) - 32) = k := by
    rw [tc]
    omega
  have shiftAt := h.behind
  rw [← code] at shiftAt
  rw [lpcBody, bind_ok (readU_atCursor (n := Config.qlpPrecBits) (show p < 2 ^ 4 by omega) h.head),
    check_bind_true _ _ _ (show p < Config.qlpPrecMax from hp), update_bind,
    bind_ok (readS_atCursor (n := Config.qlpShiftBits) (v := (k : Int) - 32) ⟨by decide, by simp [Config.qlpShiftBits]; omega,
      by simp [Config.qlpShiftBits]; omega⟩ (by exact shiftAt))]
  exact ⟨_, check_bind_false _ _ _ (by omega)⟩

/-- Settles O29: the bodies by `sfDecFixed_atCursor` and `sfDecLpc_atCursor`. -/
theorem fixedAndLpcBodies : Obligations.FixedAndLpcBodies := by
  unfold Obligations.FixedAndLpcBodies
  intro s n c b o xs t live mode hn hc hb ho _ _ inside
  refine ⟨fun htype o4 on len fits table h => ?_, fun qs prec shift htype count o1 o32 on len p1 p15 s15 coefs fits table h => ?_,
    fun big => ⟨raises_body live mode (sfDecFixed_order hn hc hb ho big), raises_body live mode (sfDecLpc_order hn hc hb ho big)⟩,
    fun small fits len h => ?_, fun p k small fits len hp low high h => ?_⟩
  · subst len
    have run := answers_of_ok live mode (sfDecFixed_atCursor hn hc hb ho inside on fits htype o4 table h)
    obtain ⟨_, _, _, _, len, parts, _⟩ := table
    refine ⟨_, run, rfl, ?_, ?_, tableIs_loaded parts rfl, ?_, rfl⟩
    · simp only [List.length_append, sampleBits_length, sectionBits_length, List.length_take_of_le on, Nat.add_assoc]
    · simp only [splice_zero, overwrite]
    · rw [← len]
      exact take_splice _ _
  · subst len
    have bits : sampleBits b (xs.take o) ++ natBits 4 (prec - 1) ++ natBits 5 shift ++ sampleBits prec qs ++
        sectionBits xs.length o (residualOf (lpcPredict qs shift) o xs) t =
      sampleBits b (xs.take o) ++ (natBits 4 (prec - 1) ++ (natBits 5 shift ++ sampleBits prec qs) ++
        sectionBits xs.length o (residualOf (lpcPredict qs shift) o xs) t) := by simp only [List.append_assoc]
    rw [bits] at h
    have run := answers_of_ok live mode (sfDecLpc_atCursor hn hc hb ho inside on fits htype count.symm o1 o32 p1 p15 s15 coefs table h)
    obtain ⟨_, _, _, _, len, parts, _⟩ := table
    refine ⟨_, run, rfl, ?_, ?_, tableIs_loaded parts rfl, ?_, ?_, rfl, rfl, rfl⟩
    · simp only [List.length_append, sampleBits_length, sectionBits_length, natBits_length, List.length_take_of_le on, count,
        Nat.add_assoc]
    · simp only [splice_zero, overwrite]
    · rw [← len]
      exact take_splice _ _
    · rw [← count]
      exact take_splice _ _
  · obtain ⟨t, at15, run⟩ := sfDecLpc_warmup hn hc hb ho small fits len h
    obtain ⟨u, refused⟩ := lpcBody_precision (o := o) at15
    exact raises_body live mode (run.trans refused)
  · rw [List.append_assoc] at h
    obtain ⟨t, atCodes, run⟩ := sfDecLpc_warmup hn hc hb ho small fits len h
    obtain ⟨u, refused⟩ := lpcBody_shift (o := o) hp low high atCodes
    exact raises_body live mode (run.trans refused)

/-! ### Subframes written -/

theorem writeSamples_unfit {b : Nat} (b1 : 1 ≤ b) : ∀ (xs : List Int) (s : State), (∃ x ∈ xs, ¬ fitsS x b) →
    ∃ t, writeSamples b xs s = .error (.exc (.logic .valueOutOfRange)) t
  | [], _, h => by simp at h
  | x :: xs, s, h => by
    by_cases fits : fitsS x b
    · have rest : ∃ y ∈ xs, ¬ fitsS y b := by
        obtain ⟨y, mem, unfit⟩ := h
        rcases List.mem_cons.1 mem with rfl | mem
        · exact absurd fits unfit
        · exact ⟨y, mem, unfit⟩
      obtain ⟨t, run⟩ := writeSamples_unfit b1 xs { s with out := s.out ++ natBits b (tc b x) } rest
      exact ⟨t, (bind_ok (writeS_ok fits s)).trans run⟩
    · refine ⟨s, bind_error ?_⟩
      rw [writeS, if_neg (by omega)]
      exact check_bind_false _ _ _ fits

/-- A `LogicError` has no effect but its recording, whatever was written before it (60_exceptions.md R374). -/
theorem raises_logic {m : Op Unit} {t : State} {l : LogicSub} {side : Side} (live : s.faulted = false)
    (h : m s = .error (.exc (.logic l)) t) : Raises (issue side (do m; pure .none) s) s side (.logic l) := by
  have raised := issue_unit_exc (side := side) live h
  exact raised

section
variable {n c w b : Nat} {xs : List Int} (hn : s.fh.blocksize = some n) (hc : s.sf.ch = some c) (hw : s.sf.wasted = some w)
  (hb : s.sf.bps = some b) (long : n ≤ (s.row c).length) (hxs : xs = ((s.row c).take n).map (· / 2 ^ w))
include hn hc hw hb long hxs

theorem sfEncConstant_ok (same : ∀ x ∈ xs, x = xs.headD 0) (fits : fitsS (xs.headD 0) b) :
    sfEncConstant s = .ok () (s.appendOut (sfHeaderBits 0 w ++ natBits b (tc b (xs.headD 0)))) := by
  rw [sfEncConstant, bind_ok (codedSamples_ok hn hc hw long hxs), bind_ok (readReg_some hb), bind_ok (readReg_some hw),
    check_bind_true _ _ _ same, bind_ok (emit_appendOut _ s), writeS_ok fits]
  exact congrArg (EStateM.Result.ok ()) (s.appendOut_appendOut _ _)

theorem sfEncConstant_unequal (h : ∃ x ∈ xs, x ≠ xs.headD 0) : sfEncConstant s = .error (.exc (.logic .badOperand)) s := by
  rw [sfEncConstant, bind_ok (codedSamples_ok hn hc hw long hxs), bind_ok (readReg_some hb), bind_ok (readReg_some hw)]
  refine check_bind_false _ _ _ fun same => ?_
  obtain ⟨x, mem, other⟩ := h
  exact other (same x mem)

theorem sfEncVerbatim_ok (fits : ∀ x ∈ xs, fitsS x b) :
    sfEncVerbatim s = .ok () (s.appendOut (sfHeaderBits 1 w ++ sampleBits b xs)) := by
  rw [sfEncVerbatim, bind_ok (codedSamples_ok hn hc hw long hxs), bind_ok (readReg_some hb), bind_ok (readReg_some hw),
    bind_ok (emit_appendOut _ s), writeSamples_ok b xs _ fits, State.appendOut_appendOut]

theorem sfEncVerbatim_unfit (b1 : 1 ≤ b) (h : ∃ x ∈ xs, ¬ fitsS x b) :
    ∃ t, sfEncVerbatim s = .error (.exc (.logic .valueOutOfRange)) t := by
  rw [sfEncVerbatim, bind_ok (codedSamples_ok hn hc hw long hxs), bind_ok (readReg_some hb), bind_ok (readReg_some hw),
    bind_ok (emit_appendOut _ s)]
  exact writeSamples_unfit b1 xs _ h

/-- Behind the residual: the samples are read again, header and warm-up are written, and what the type has behind them. -/
theorem writeHead_ok {o : Nat} (code : Nat) (fits : ∀ x ∈ xs.take o, fitsS x b) (rest : List Int → Op Unit) :
    (do
      let xs ← codedSamples
      let bps ← readReg fun s => s.sf.bps
      let w ← readReg fun s => s.sf.wasted
      emit (sfHeaderBits code w)
      writeSamples bps (xs.take o)
      rest xs : Op Unit) s = rest xs (s.appendOut (sfHeaderBits code w ++ sampleBits b (xs.take o))) := by
  rw [bind_ok (codedSamples_ok hn hc hw long hxs), bind_ok (readReg_some hb), bind_ok (readReg_some hw), bind_ok (emit_appendOut _ _),
    bind_ok (writeSamples_ok b _ _ fits), State.appendOut_appendOut]

end

/-- The residual that an operation recomputed is within the limits (R293). -/
theorem checkResidual_ok {n o : Nat} {res : List Int} (len : res.length = n - o) (lim : ∀ r ∈ res, -(2 ^ 31) < r ∧ r < 2 ^ 31) :
    checkResidual n o (s.withResidual res) = .ok () (s.withResidual res) := by
  have taken : (s.withResidual res).res.take (n - o) = res := by rw [← len, State.withResidual_take]
  rw [checkResidual, look_bind, readEntries_bind_ok _ _ (len ▸ overwrite_length s.res res), taken,
    check_true _ _ fun r hr => (residualOk_iff r).2 (lim r hr)]

/-- `RES_ENCODE` of a recomputed residual, behind the bits already written (R269, R270). -/
theorem resEncode_withResidual {n o : Nat} {res : List Int} {t : PartTable} (hn : s.fh.blocksize = some n) (ho : s.sf.order = some o)
    (table : TableIs s t) (fits : TableFits n o res t) (bits : List Bool) :
    (resEncode >>= fun _ => pure () : Op Unit) ((s.withResidual res).appendOut bits) =
      .ok () ((s.withResidual res).appendOut (bits ++ sectionBits n o res t)) := by
  have ⟨_, p8, whole, room, len, parts, _⟩ := fits
  have taken : ((s.withResidual res).appendOut bits).res.take (n - o) = res := by
    rw [← len]
    exact State.withResidual_take s res
  have run := resEncode_run (s := (s.withResidual res).appendOut bits) hn ho table ⟨p8, whole, room⟩ parts
    (len ▸ overwrite_length s.res res)
  rw [taken] at run
  rw [bind_ok (run.trans (encodeSection_ok fits)), State.appendOut_appendOut]
  rfl

section
variable {n c w b o : Nat} {xs : List Int} {t : PartTable} (hn : s.fh.blocksize = some n) (hc : s.sf.ch = some c)
  (hw : s.sf.wasted = some w) (hb : s.sf.bps = some b) (long : n ≤ (s.row c).length) (hxs : xs = ((s.row c).take n).map (· / 2 ^ w))
  (ho : s.sf.order = some o) (table : TableIs s t) (warm : ∀ x ∈ xs.take o, fitsS x b)
include hn ho

theorem sfEncFixed_order (h : 4 < o ∨ n < o) : sfEncFixed s = .error (.exc (.logic .badOperand)) s := by
  rw [sfEncFixed, bind_ok (blockGeometry_ok hn ho)]
  refine check_bind_false _ _ _ fun ⟨o4, on⟩ => ?_
  have : o ≤ 4 := o4
  omega

include hc hw hb long hxs table warm

theorem sfEncFixed_ok (o4 : o ≤ 4) (on : o ≤ n) (fits : TableFits n o (residualOf (fixedPredict o) o xs) t) :
    sfEncFixed s = .ok () ((s.withResidual (residualOf (fixedPredict o) o xs)).appendOut
      (sfHeaderBits (8 + o) w ++ sampleBits b (xs.take o) ++ sectionBits n o (residualOf (fixedPredict o) o xs) t)) := by
  obtain ⟨m, residual⟩ := fixedResidual_ok hn hc hw long hxs ho o4 on
  have ⟨_, _, _, _, len, _, lim, _⟩ := fits
  rw [sfEncFixed, bind_ok (blockGeometry_ok hn ho)]
  dsimp only
  rw [check_bind_true _ _ _ (by exact ⟨o4, on⟩), bind_ok residual, bind_ok (checkResidual_ok len lim),
    writeHead_ok (s := s.withResidual _) hn hc hw hb long hxs _ warm]
  exact resEncode_withResidual hn ho table fits _

theorem sfEncLpc_ok {prec shift : Nat} (range : 1 ≤ o ∧ o ≤ 32 ∧ o ≤ n) (hprec : s.qlpPrec = some prec) (p1 : 1 ≤ prec) (p15 : prec ≤ 15)
    (hshift : s.qlpShift = some shift) (s15 : shift ≤ 15) (enough : o ≤ s.qlp.length) (coefs : ∀ q ∈ s.qlp.take o, fitsS q prec)
    (fits : TableFits n o (residualOf (lpcPredict (s.qlp.take o) shift) o xs) t) :
    sfEncLpc s = .ok () ((s.withResidual (residualOf (lpcPredict (s.qlp.take o) shift) o xs)).appendOut
      (sfHeaderBits (32 + (o - 1)) w ++ sampleBits b (xs.take o) ++ natBits 4 (prec - 1) ++ natBits 5 shift ++
        sampleBits prec (s.qlp.take o) ++ sectionBits n o (residualOf (lpcPredict (s.qlp.take o) shift) o xs) t)) := by
  obtain ⟨m, residual⟩ := lpcResidual_ok hn hc hw long hxs ho range hshift enough
  have ⟨_, _, _, _, len, _, lim, _⟩ := fits
  have shiftFits : shift < 2 ^ (Config.qlpShiftBits - 1) := by unfold Config.qlpShiftBits; omega
  rw [sfEncLpc, bind_ok (blockGeometry_ok hn ho)]
  dsimp only
  rw [check_bind_true _ _ _ (by exact range), bind_ok (readReg_some hprec), check_bind_true _ _ _ (by exact ⟨p1, p15⟩),
    bind_ok (readReg_some hshift), check_bind_true _ _ _ (by exact s15), look_bind, readEntries_bind_ok _ _ enough,
    check_bind_true _ _ _ coefs, bind_ok residual, bind_ok (checkResidual_ok len lim),
    writeHead_ok (s := s.withResidual _) hn hc hw hb long hxs _ warm,
    bind_ok (writeU_appendOut (n := Config.qlpPrecBits) (by decide) (by unfold Config.qlpPrecBits; omega) _),
    bind_ok (writeS_natCast_appendOut shiftFits (by decide) _), bind_ok (writeSamples_ok prec _ _ coefs)]
  simp only [State.appendOut_appendOut]
  exact resEncode_withResidual hn ho table fits _

end

theorem withResidual_appendOut {n o : Nat} {res : List Int} (len : res.length = n - o) (bits : List Bool) :
    (s.withResidual res).appendOut bits = { s with out := s.out ++ bits, res := res ++ s.res.drop (n - o) } := by
  rw [← len]
  rfl

/-- Settles O33. -/
theorem subframesWritten : Obligations.SubframesWritten := by
  unfold Obligations.SubframesWritten
  intro s n c w b xs live hn hc hw hb b1 _ long hxs
  refine ⟨fun same fits => issue_unit_ok live (sfEncConstant_ok hn hc hw hb long hxs same fits),
    fun bad => raises_logic live (sfEncConstant_unequal hn hc hw hb long hxs bad),
    fun fits => issue_unit_ok live (sfEncVerbatim_ok hn hc hw hb long hxs fits), fun bad => ?_,
    fun o t ho o4 on table fits warm => ?_, fun o prec shift t ho o1 o32 on hprec p1 p15 hshift s15 enough coefs table fits warm => ?_,
    fun o ho bad => raises_logic live (sfEncFixed_order hn ho bad)⟩
  · obtain ⟨t, run⟩ := sfEncVerbatim_unfit hn hc hw hb long hxs b1 bad
    exact raises_logic live run
  · have run := sfEncFixed_ok hn hc hw hb long hxs ho table warm o4 on fits
    have ⟨_, _, _, _, len, _⟩ := fits
    rw [withResidual_appendOut len] at run
    exact issue_unit_ok live run
  · have run := sfEncLpc_ok hn hc hw hb long hxs ho table warm ⟨o1, o32, on⟩ hprec p1 p15 hshift s15 enough coefs fits
    have ⟨_, _, _, _, len, _⟩ := fits
    rw [withResidual_appendOut len] at run
    exact issue_unit_ok live run

end Sys2Proof.Machine

/-! PROOFS. The stereo transforms issued by the host: forward (47_encoder.md R344) and inverse (46_decoder_pipeline.md R318). -/

namespace Sys2Proof.Machine

variable {s : State}

/-! ### The transforms on samples -/

/-- The inverse undoes the forward transform of a pair exactly, the odd bit of the sum being that of the difference. -/
theorem decorrUndo_decorrPair {ca : Nat} (h : ca = 8 ∨ ca = 9 ∨ ca = 10) (l r : Int) :
    decorrUndo ca (decorrPair ca l r).1 (decorrPair ca l r).2 = (l, r) := by
  rcases h with rfl | rfl | rfl
  · simp [decorrUndo, decorrPair]
  · simp [decorrUndo, decorrPair]
  · simp only [decorrUndo, decorrPair, if_true, Prod.mk.injEq, reduceIte, Nat.reduceEqDiff]
    omega

theorem unzip_zipWith_length {α β γ δ : Type} (f : α → β → γ × δ) {l : List α} {r : List β} (h : r.length = l.length) :
    (List.zipWith f l r).unzip.1.length = l.length ∧ (List.zipWith f l r).unzip.2.length = l.length := by
  simp [List.unzip_eq_map, h]

theorem unzip_zipWith_sampleAt (f : Int → Int → Int × Int) {l r : List Int} (h : r.length = l.length) {i : Nat} (hi : i < l.length) :
    sampleAt (List.zipWith f l r).unzip.1 i = (f (sampleAt l i) (sampleAt r i)).1 ∧
      sampleAt (List.zipWith f l r).unzip.2 i = (f (sampleAt l i) (sampleAt r i)).2 := by
  simp [List.unzip_eq_map, List.getD_eq_getElem?_getD, hi, h]

theorem undoRows_decorr {ca : Nat} (h : ca = 8 ∨ ca = 9 ∨ ca = 10) : ∀ (l r : List Int), r.length = l.length →
    undoRows ca (decorr ca l r).1 (decorr ca l r).2 = (l, r)
  | [], [], _ => rfl
  | x :: l, y :: r, len => by
    have rest := undoRows_decorr h l r (Nat.succ.inj len)
    simp only [undoRows, decorr, List.zipWith_cons_cons, List.unzip_cons, decorrUndo_decorrPair h] at rest ⊢
    rw [rest]

theorem sampleAt_of_lt {xs : List Int} {i : Nat} (h : i < xs.length) : sampleAt xs i = xs[i] := List.getD_eq_getElem _ _ h

/-- A list of samples by its entries. -/
theorem eq_map_range {n : Nat} {xs : List Int} (len : xs.length = n) (f : Nat → Int) (h : ∀ i, i < n → sampleAt xs i = f i) :
    xs = (List.range n).map f := by
  refine List.ext_getElem (by simp [len]) fun i h1 h2 => ?_
  rw [List.getElem_map, List.getElem_range, ← h i (len ▸ h1), sampleAt_of_lt h1]

theorem forall_mem_of_sampleAt {n : Nat} {xs : List Int} {P : Int → Prop} (len : xs.length = n)
    (h : ∀ i, i < n → P (sampleAt xs i)) : ∀ x ∈ xs, P x := by
  intro x hx
  obtain ⟨i, hi, rfl⟩ := List.mem_iff_getElem.1 hx
  have := h i (len ▸ hi)
  rwa [sampleAt_of_lt hi] at this

/-! ### Two rows of the block in hand -/

/-- The state with these samples as the first of channels 0 and 1. -/
def State.withPair (s : State) (n : Nat) (a b : List Int) : State :=
  { s with smp := (s.smp.set 0 (a ++ (s.row 0).drop n)).set 1 (b ++ (s.row 1).drop n) }

section
variable {n : Nat} {a b : List Int} (two : 2 ≤ s.smp.length)
include two

theorem exists_rows : ∃ r0 r1 rest, s.smp = r0 :: r1 :: rest := by
  match h : s.smp, two with
  | r0 :: r1 :: rest, _ => exact ⟨r0, r1, rest, rfl⟩

theorem withPair_row : (s.withPair n a b).row 0 = a ++ (s.row 0).drop n ∧ (s.withPair n a b).row 1 = b ++ (s.row 1).drop n := by
  obtain ⟨r0, r1, rest, h⟩ := exists_rows two
  simp [State.withPair, State.row, h]

theorem withPair_withPair {c d : List Int} (ha : a.length = n) (hb : b.length = n) :
    (s.withPair n a b).withPair n c d = s.withPair n c d := by
  obtain ⟨r0, r1, rest, h⟩ := exists_rows two
  simp [State.withPair, State.row, h, List.drop_left' ha, List.drop_left' hb]

end

/-! ### `CH_DECORR_FWD` -/

section
variable {n ch ca : Nat} (hn : s.fh.blocksize = some n) (hch : s.fh.channels = some ch)
include hch

theorem chDecorrFwd_badOperand (h : 10 < ca ∨ (ca ≤ 7 ∧ ca + 1 ≠ ch) ∨ (8 ≤ ca ∧ ch ≠ 2)) :
    chDecorrFwd ca s = .error (.exc (.logic .badOperand)) s := by
  rw [chDecorrFwd]
  by_cases small : ca ≤ 10
  · rw [check_bind_true _ _ _ small, bind_ok (readReg_some hch)]
    exact check_bind_false _ _ _ (by omega)
  · exact check_bind_false _ _ _ small

include hn

theorem chDecorrFwd_independent (h7 : ca ≤ 7) (h : ca + 1 = ch) :
    chDecorrFwd ca s = .ok () { s with fh := { s.fh with chanAssign := some ca } } := by
  rw [chDecorrFwd, check_bind_true _ _ _ (by omega), bind_ok (readReg_some hch), check_bind_true _ _ _ (by omega),
    bind_ok (readReg_some hn), if_neg (by omega)]
  rfl

theorem chDecorrFwd_stereo (h : ca = 8 ∨ ca = 9 ∨ ca = 10) (two : ch = 2) (rows : 2 ≤ s.smp.length) (long0 : n ≤ (s.row 0).length)
    (long1 : n ≤ (s.row 1).length) :
    chDecorrFwd ca s = .ok () { s.withPair n (decorr ca ((s.row 0).take n) ((s.row 1).take n)).1
      (decorr ca ((s.row 0).take n) ((s.row 1).take n)).2 with fh := { s.fh with chanAssign := some ca } } := by
  have len0 : ((s.row 0).take n).length = n := List.length_take_of_le long0
  have len1 : ((s.row 1).take n).length = n := List.length_take_of_le long1
  obtain ⟨lenA, lenB⟩ := unzip_zipWith_length (decorrPair ca) (len1.trans len0.symm)
  obtain ⟨r0, r1, rest, hrows⟩ := exists_rows rows
  rw [chDecorrFwd, check_bind_true _ _ _ (by omega), bind_ok (readReg_some hch), check_bind_true _ _ _ (by omega),
    bind_ok (readReg_some hn), if_pos (by omega)]
  rw [bind_ok (readRow_ok long0), bind_ok (readRow_ok long1)]
  have writes : ((s.smp.modify 0 fun row => overwrite row (decorr ca ((s.row 0).take n) ((s.row 1).take n)).1).modify 1 fun row =>
      overwrite row (decorr ca ((s.row 0).take n) ((s.row 1).take n)).2) =
      (s.withPair n (decorr ca ((s.row 0).take n) ((s.row 1).take n)).1 (decorr ca ((s.row 0).take n) ((s.row 1).take n)).2).smp := by
    simp only [decorr, State.withPair, overwrite, lenA, lenB, len0]
    simp [State.row, hrows]
  simp only [writeRow, update_bind, update_run, writes]
  rfl

end

/-! ### `CH_DECORR_INV` -/

section
variable {n ch ca bps : Nat} (hca : s.fh.chanAssign = some ca) (hn : s.fh.blocksize = some n) (hbps : s.fh.bps = some bps)
  (hch : s.fh.channels = some ch)
include hca hn hbps hch

theorem chDecorrInv_run : chDecorrInv s = countUp (fun i => do undoAt ca i; countUp (checkAt bps i) ch 0) n 0 s := by
  rw [chDecorrInv, bind_ok (readReg_some hca), bind_ok (readReg_some hn), bind_ok (readReg_some hbps), bind_ok (readReg_some hch)]

theorem chDecorrInv_independent (h : ca ≤ 7) (long : ∀ c, c < ch → n ≤ (s.row c).length)
    (fits : ∀ c i, c < ch → i < n → fitsS (sampleAt (s.row c) i) bps) : chDecorrInv s = .ok () s := by
  rw [chDecorrInv_run hca hn hbps hch]
  refine undoLoop_independent (by omega) n 0 fun c j hc _ hj => ?_
  have hj : j < n := by omega
  have inside := hj.trans_le (long c hc)
  exact ⟨_, List.getElem?_eq_getElem inside, sampleAt_of_lt inside ▸ fits c j hc hj⟩

theorem chDecorrInv_stereo (h : ca = 8 ∨ ca = 9 ∨ ca = 10) (two : ch = 2) (rows : 2 ≤ s.smp.length) {a b ra rb : List Int}
    (h0 : s.row 0 = a ++ ra) (h1 : s.row 1 = b ++ rb) (lenA : a.length = n) (lenB : b.length = n)
    (fits0 : ∀ v ∈ (undoRows ca a b).1, fitsS v bps) (fits1 : ∀ v ∈ (undoRows ca a b).2, fitsS v bps) :
    chDecorrInv s = .ok () (s.withPair n (undoRows ca a b).1 (undoRows ca a b).2) := by
  obtain ⟨r0, r1, rest, hrows⟩ := exists_rows rows
  have e0 : r0 = a ++ ra := by rw [← h0, State.row, hrows]; rfl
  have e1 : r1 = b ++ rb := by rw [← h1, State.row, hrows]; rfl
  have loop := undoLoop_stereo h ra rb rest s a b [] [] (lenB.trans lenA.symm) rfl fits0 fits1
  simp only [List.nil_append, List.length_nil] at loop
  have start : { s with smp := (a ++ ra) :: (b ++ rb) :: rest } = s := by rw [← e0, ← e1, ← hrows]
  rw [start, lenA] at loop
  subst two
  rw [chDecorrInv_run hca hn hbps hch, loop, State.withPair, h0, h1, List.drop_left' lenA, List.drop_left' lenB, hrows]
  rfl

end

/-- The range check of one sample of two channels, the first that is outside failing it. -/
theorem checkAt_pair_unfit {bps i : Nat} {p q : Int} (h0 : (s.row 0)[i]? = some p) (h1 : (s.row 1)[i]? = some q)
    (h : ¬ (fitsS p bps ∧ fitsS q bps)) : countUp (checkAt bps i) 2 0 s = .error (.exc (.sync .rangeError)) s := by
  have one (c : Nat) (v : Int) (hv : (s.row c)[i]? = some v) : checkAt bps i c s = check (fitsS v bps) (.sync .rangeError) s := by
    rw [checkAt, readSmpAt, readReg_bind, hv, written_some_bind]
  by_cases first : fitsS p bps
  · rw [countUp, bind_ok ((one 0 p h0).trans (check_true _ _ first))]
    exact bind_error ((one 1 q h1).trans (check_false _ _ fun second => h ⟨first, second⟩))
  · exact bind_error ((one 0 p h0).trans (check_false _ _ first))

/-- A sample that does not fit the depth once the decorrelation is undone: the loop ends there. -/
theorem undoLoop_unfit {ca bps : Nat} (h : ca = 8 ∨ ca = 9 ∨ ca = 10) (ra rb : List Int) (rest : List (List Int)) (s : State) :
    ∀ (as bs xs ys : List Int), bs.length = as.length → ys.length = xs.length →
      (∃ v, (v ∈ (undoRows ca as bs).1 ∨ v ∈ (undoRows ca as bs).2) ∧ ¬ fitsS v bps) →
      ∃ rows, countUp (fun i => do undoAt ca i; countUp (checkAt bps i) 2 0) as.length xs.length
          { s with smp := (xs ++ (as ++ ra)) :: (ys ++ (bs ++ rb)) :: rest } =
        .error (.exc (.sync .rangeError)) { s with smp := rows }
  | [], [], _, _, _, _, bad => by simp [undoRows] at bad
  | a :: as, b :: bs, xs, ys, hl, len, bad => by
    have undone := undoAt_run h xs ys (as ++ ra) (bs ++ rb) a b rest s len
    generalize hp : (decorrUndo ca a b).1 = p at undone
    generalize hq : (decorrUndo ca a b).2 = q at undone
    generalize hu : ({ s with smp := (xs ++ p :: (as ++ ra)) :: (ys ++ q :: (bs ++ rb)) :: rest } : State) = u at undone
    have rowP : (u.row 0)[xs.length]? = some p := by rw [← hu]; simp [State.row]
    have rowQ : (u.row 1)[xs.length]? = some q := by rw [← hu]; simp [State.row, ← len]
    rw [List.length_cons, countUp]
    simp only [List.cons_append]
    by_cases fits : fitsS p bps ∧ fitsS q bps
    · have checked : countUp (checkAt bps xs.length) 2 0 u = .ok () u := by
        refine checkAt_all 2 0 fun d _ hd => ?_
        obtain rfl | rfl : d = 0 ∨ d = 1 := by omega
        · exact ⟨p, rowP, fits.1⟩
        · exact ⟨q, rowQ, fits.2⟩
      have later : ∃ v, (v ∈ (undoRows ca as bs).1 ∨ v ∈ (undoRows ca as bs).2) ∧ ¬ fitsS v bps := by
        obtain ⟨v, mem, unfit⟩ := bad
        simp only [undoRows, List.zipWith_cons_cons, List.unzip_cons, hp, hq, List.mem_cons] at mem
        refine ⟨v, ?_, unfit⟩
        rcases mem with (rfl | mem) | (rfl | mem)
        · exact absurd fits.1 unfit
        · exact .inl mem
        · exact absurd fits.2 unfit
        · exact .inr mem
      obtain ⟨rows, run⟩ := undoLoop_unfit h ra rb rest s as bs (xs ++ [p]) (ys ++ [q]) (Nat.succ.inj hl) (by simp [len]) later
      rw [List.length_append, List.length_singleton] at run
      simp only [List.append_assoc, List.singleton_append, hu] at run
      refine ⟨rows, (bind_ok (a := ()) ?_).trans run⟩
      rw [bind_ok undone, checked]
    · refine ⟨u.smp, bind_error ?_⟩
      rw [bind_ok undone, checkAt_pair_unfit rowP rowQ fits, ← hu]

/-- What `CH_DECORR_INV` makes of the pair of rows `a` and `b`, sample by sample. -/
theorem undoRows_sampleAt {ca n : Nat} {a b : List Int} (lenA : a.length = n) (lenB : b.length = n) {i : Nat} (hi : i < n) :
    sampleAt (undoRows ca a b).1 i = (decorrUndo ca (sampleAt a i) (sampleAt b i)).1 ∧
      sampleAt (undoRows ca a b).2 i = (decorrUndo ca (sampleAt a i) (sampleAt b i)).2 :=
  unzip_zipWith_sampleAt _ (lenB.trans lenA.symm) (lenA ▸ hi)

theorem sampleAt_take {xs : List Int} {n i : Nat} (h : i < n) : sampleAt (xs.take n) i = sampleAt xs i := by
  simp only [List.getD_eq_getElem?_getD, List.getElem?_take_of_lt h]

/-! ### The obligation -/

section
variable {n ch ca bps : Nat} (hn : s.fh.blocksize = some n) (hch : s.fh.channels = some ch) (hbps : s.fh.bps = some bps)
  (inside : ch ≤ s.smp.length) (long : ∀ c, c < ch → n ≤ (s.row c).length)
include hn hch hbps inside long

/-- What the forward transform left is undone exactly, where the block is within its depth. -/
theorem chDecorrInv_chDecorrFwd {t : State} (fits : ∀ c i, c < ch → i < n → fitsS (sampleAt (s.row c) i) bps)
    (fwd : chDecorrFwd ca s = .ok () t) (r : Option Reply) :
    t.faulted = s.faulted ∧ ∃ u, chDecorrInv { t with reply := r } = .ok () u ∧
      (∀ c, c < ch → (u.row c).take n = (s.row c).take n) ∧ { u with smp := t.smp } = { t with reply := r } := by
  by_cases valid : ca ≤ 10 ∧ (ca ≤ 7 → ca + 1 = ch) ∧ (8 ≤ ca → ch = 2)
  swap
  · rw [chDecorrFwd_badOperand hch (by omega)] at fwd
    cases fwd
  obtain ⟨_, independent, stereo⟩ := valid
  by_cases h7 : ca ≤ 7
  · rw [chDecorrFwd_independent hn hch h7 (independent h7)] at fwd
    cases fwd
    exact ⟨rfl, _, chDecorrInv_independent (s := { s with fh := { s.fh with chanAssign := some ca }, reply := r }) rfl hn hbps hch h7 long fits,
      fun _ _ => rfl, rfl⟩
  · have two := stereo (by omega)
    have h : ca = 8 ∨ ca = 9 ∨ ca = 10 := by omega
    subst two
    have long0 := long 0 (by decide)
    have long1 := long 1 (by decide)
    have len0 : ((s.row 0).take n).length = n := List.length_take_of_le long0
    have len1 : ((s.row 1).take n).length = n := List.length_take_of_le long1
    obtain ⟨lenA, lenB⟩ := unzip_zipWith_length (decorrPair ca) (len1.trans len0.symm)
    have undone := undoRows_decorr h _ _ (len1.trans len0.symm)
    rw [chDecorrFwd_stereo hn hch h rfl inside long0 long1] at fwd
    generalize hab : decorr ca ((s.row 0).take n) ((s.row 1).take n) = ab at fwd undone
    change (decorr ca _ _).1.length = _ at lenA
    change (decorr ca _ _).2.length = _ at lenB
    rw [hab, len0] at lenA lenB
    cases fwd
    obtain ⟨row0, row1⟩ := withPair_row (n := n) (a := ab.1) (b := ab.2) inside
    have sample (c : Nat) (hc : c < 2) : ∀ v ∈ (s.row c).take n, fitsS v bps :=
      forall_mem_of_sampleAt (List.length_take_of_le (long c hc)) fun i hi => by
        rw [sampleAt_take hi]
        exact fits c i hc hi
    have inv := chDecorrInv_stereo (s := { s.withPair n ab.1 ab.2 with fh := { s.fh with chanAssign := some ca }, reply := r }) rfl hn hbps hch h rfl
      (by simpa [State.withPair] using inside) row0 row1 lenA lenB (by rw [undone]; exact sample 0 (by decide))
      (by rw [undone]; exact sample 1 (by decide))
    rw [undone] at inv
    refine ⟨rfl, _, inv, fun c hc => ?_, rfl⟩
    obtain ⟨back0, back1⟩ := withPair_row (s := s.withPair n ab.1 ab.2) (n := n) (a := (s.row 0).take n) (b := (s.row 1).take n)
      (by simpa [State.withPair] using inside)
    obtain rfl | rfl : c = 0 ∨ c = 1 := by omega
    · exact (congrArg (List.take n) back0).trans (List.take_left' len0)
    · exact (congrArg (List.take n) back1).trans (List.take_left' len1)

end

theorem of_answerOf_unit {m : Op Unit} {side : Side} {i : Instr} {t : State} (live : s.faulted = false)
    (hi : exec i s = issue side (do m; pure .none) s) (h : answerOf i s = some (.none, t)) :
    ∃ u, m s = .ok () u ∧ t = { u with reply := some (.ok .none) } := by
  obtain ⟨u, run, _⟩ := of_answerOf live hi h
  rw [answerOf, hi, issue_unit_ok live run] at h
  cases h
  exact ⟨u, run, rfl⟩

/-- Settles O40. -/
theorem stereoTransformsAreInverse : Obligations.StereoTransformsAreInverse := by
  unfold Obligations.StereoTransformsAreInverse
  intro s n ch ca bps live hn hch inside long
  refine ⟨fun h7 same => issue_unit_ok live (chDecorrFwd_independent hn hch h7 same), fun h two => ?_,
    fun bad => issue_unit_exc live (chDecorrFwd_badOperand hch bad), fun hbps fits t fwd => ?_,
    fun hbps hca => ⟨fun h7 fits => ?_, fun h two => ?_⟩, fun i hbps hca two hi unfit => ?_⟩
  · subst two
    have long0 := long 0 (by decide)
    have long1 := long 1 (by decide)
    have len0 : ((s.row 0).take n).length = n := List.length_take_of_le long0
    have len1 : ((s.row 1).take n).length = n := List.length_take_of_le long1
    obtain ⟨lenA, lenB⟩ := unzip_zipWith_length (decorrPair ca) (len1.trans len0.symm)
    refine ⟨_, _, issue_unit_ok live (chDecorrFwd_stereo hn hch h rfl inside long0 long1), lenA.trans len0, lenB.trans len0,
      fun i hi => ?_⟩
    obtain ⟨pairA, pairB⟩ := unzip_zipWith_sampleAt (decorrPair ca) (len1.trans len0.symm) (len0.symm ▸ hi)
    rw [sampleAt_take hi, sampleAt_take hi] at pairA pairB
    dsimp only [decorr]
    rw [pairA, pairB]
    rcases h with rfl | rfl | rfl <;> exact ⟨rfl, rfl⟩
  · obtain ⟨v, run, rfl⟩ := of_answerOf_unit (m := chDecorrFwd ca) (side := .write) live rfl fwd
    obtain ⟨alive, u, inv, rows, frame⟩ := chDecorrInv_chDecorrFwd hn hch hbps inside long fits run (some (.ok .none))
    have answered : exec .chDecorrInv { v with reply := some (.ok .none) } = .next { u with reply := some (.ok .none) } :=
      issue_unit_ok (alive.trans live) (by rw [atomically, inv])
    exact ⟨_, answerOf_ok answered, rows, congrArg (fun x : State => { x with reply := some (.ok .none) }) frame⟩
  · have run := chDecorrInv_independent hca hn hbps hch h7 long fits
    exact issue_unit_ok live (by rw [atomically, run])
  · subst two
    intro x y left right fits
    have len0 : ((s.row 0).take n).length = n := List.length_take_of_le (long 0 (by decide))
    have len1 : ((s.row 1).take n).length = n := List.length_take_of_le (long 1 (by decide))
    obtain ⟨lenL, lenR⟩ := unzip_zipWith_length (decorrUndo ca) (len1.trans len0.symm)
    change (undoRows ca _ _).1.length = _ at lenL
    change (undoRows ca _ _).2.length = _ at lenR
    have undone (i : Nat) (hi : i < n) : sampleAt (undoRows ca ((s.row 0).take n) ((s.row 1).take n)).1 i = left i ∧
        sampleAt (undoRows ca ((s.row 0).take n) ((s.row 1).take n)).2 i = right i := by
      obtain ⟨pairL, pairR⟩ := undoRows_sampleAt (ca := ca) len0 len1 hi
      rw [pairL, pairR, sampleAt_take hi, sampleAt_take hi]
      rcases h with rfl | rfl | rfl <;> exact ⟨rfl, rfl⟩
    have run := chDecorrInv_stereo hca hn hbps hch h rfl inside (List.take_append_drop n _).symm (List.take_append_drop n _).symm
      len0 len1 (forall_mem_of_sampleAt (lenL.trans len0) fun i hi => (undone i hi).1 ▸ (fits i hi).1)
      (forall_mem_of_sampleAt (lenR.trans len0) fun i hi => (undone i hi).2 ▸ (fits i hi).2)
    rw [eq_map_range (lenL.trans len0) left fun i hi => (undone i hi).1,
      eq_map_range (lenR.trans len0) right fun i hi => (undone i hi).2] at run
    exact issue_unit_ok live (by rw [atomically, run]; rfl)
  · subst two
    have len0 : ((s.row 0).take n).length = n := List.length_take_of_le (long 0 (by decide))
    have len1 : ((s.row 1).take n).length = n := List.length_take_of_le (long 1 (by decide))
    obtain ⟨-, lenR⟩ := unzip_zipWith_length (decorrUndo 8) (len1.trans len0.symm)
    change (undoRows 8 _ _).2.length = _ at lenR
    have outside : sampleAt (undoRows 8 ((s.row 0).take n) ((s.row 1).take n)).2 i = sampleAt (s.row 0) i - sampleAt (s.row 1) i := by
      rw [(undoRows_sampleAt len0 len1 hi).2, sampleAt_take hi, sampleAt_take hi]
      rfl
    have bad : ∃ v, (v ∈ (undoRows 8 ((s.row 0).take n) ((s.row 1).take n)).1 ∨
        v ∈ (undoRows 8 ((s.row 0).take n) ((s.row 1).take n)).2) ∧ ¬ fitsS v bps := by
      refine ⟨_, .inr (List.getElem_mem (n := i) (by omega)), ?_⟩
      rw [← sampleAt_of_lt, outside]
      exact unfit
    obtain ⟨r0, r1, rest, hrows⟩ := exists_rows inside
    obtain ⟨t, run⟩ := undoLoop_unfit (.inl rfl) ((s.row 0).drop n) ((s.row 1).drop n) rest s ((s.row 0).take n) ((s.row 1).take n)
      [] [] (len1.trans len0.symm) rfl bad
    simp only [List.nil_append, List.take_append_drop, List.length_nil] at run
    have start : { s with smp := s.row 0 :: s.row 1 :: rest } = s := by
      rw [show s.row 0 :: s.row 1 :: rest = s.smp by rw [State.row, State.row, hrows]; rfl]
    rw [start, len0, ← chDecorrInv_run hca hn hbps hch] at run
    exact raises_of_exc live run

end Sys2Proof.Machine

/-! PROOFS. The head of a stream: marker, metadata blocks and StreamInfo, read and written (43_frame_model.md R221 to R226,
R233 to R235); the host's input port and reset (20_memory.md R80, R81; 70_reset_and_hazards.md R420, R421). -/

namespace Sys2Proof.Machine

variable {α : Type} {s t : State}

/-! ### Bytes at the cursor -/

theorem byteBits_eq (b : Byte) : byteBits b = natBits 8 b.toNat := rfl

/-- A byte is known by its bits. -/
theorem bitsBytes_byteBits (b : Byte) (rest : List Bool) : bitsBytes (byteBits b ++ rest) = b :: bitsBytes rest := by
  have value : BitVec.ofNat 8 (bitsNat (natBits 8 b.toNat)) = b := by
    rw [bitsNat_natBits, Nat.mod_eq_of_lt b.isLt]
    exact BitVec.ofNat_toNat _ b
  conv_rhs => rw [← value]
  rfl

theorem bitsBytes_bytesBits (bs : List Byte) : bitsBytes (bytesBits bs) = bs := by
  induction bs with
  | nil => rfl
  | cons b bs ih => exact (bitsBytes_byteBits b (bytesBits bs)).trans (congrArg (b :: ·) ih)

theorem bytesBits_injective {as bs : List Byte} (h : bytesBits as = bytesBits bs) : as = bs := by
  rw [← bitsBytes_bytesBits as, h, bitsBytes_bytesBits]

/-- Bytes whose bits begin with the bits of others begin with those. -/
theorem take_of_bytesBits_prefix {as bs : List Byte} (h : bytesBits as <+: bytesBits bs) : bs.take as.length = as := by
  have split : bytesBits (bs.take as.length) ++ bytesBits (bs.drop as.length) = bytesBits bs := by
    rw [← bytesBits_append, List.take_append_drop]
  have short := h.length_le
  rw [bytesBits_length, bytesBits_length] at short
  have same : (bytesBits (bs.take as.length)).length = (bytesBits as).length := by
    rw [bytesBits_length, bytesBits_length, List.length_take, Nat.min_eq_left (by omega)]
  obtain ⟨rest, e⟩ := h
  exact bytesBits_injective (List.append_inj (split.trans e.symm) same).1

/-- The bytes of the input at an aligned cursor are those whose bits stand there. -/
theorem AtCursor.bytes {bs : List Byte} (aligned : s.brPos % 8 = 0) (h : AtCursor s (bytesBits bs)) :
    (s.input.drop (s.brPos / 8)).take bs.length = bs := by
  rw [AtCursor, bitsFrom, aligned] at h
  exact take_of_bytesBits_prefix h

/-- Bytes that stand at an aligned cursor are read (R167). -/
theorem readBytes_atCursor {bs : List Byte} (aligned : s.brPos % 8 = 0) (inside : s.brPos ≤ 8 * s.input.length)
    (h : AtCursor s (bytesBits bs)) : readBytes bs.length s = .ok bs { s with brPos := s.brPos + 8 * bs.length } := by
  have room : s.brPos + 8 * bs.length ≤ 8 * s.input.length := by
    have len := h.length_le
    rw [bytesBits_length, bitsFrom_length] at len
    omega
  rw [readBytes_ok aligned room, h.bytes aligned]

theorem starve_lacks {n : Nat} (h : Lacks s n) : starve n s = .error s.want s := by
  rcases starve_cases n s with ⟨fits, _⟩ | ⟨_, ended, run⟩ | ⟨_, going, run⟩
  · omega
  · rw [run, State.want, ended]; rfl
  · rw [run, State.want, going]; rfl

theorem readBytes_lacks {n : Nat} (aligned : s.brPos % 8 = 0) (h : Lacks s (8 * n)) : readBytes n s = .error s.want s := by
  rw [readBytes, bind_ok (readAligned_ok aligned), bind_error (starve_lacks h)]

theorem readAligned_refused (h : s.brPos % 8 ≠ 0) : readAligned s = .error (.exc (.logic .notAligned)) s := by
  rw [readAligned, look_bind, check_false _ _ h]

theorem writeAligned_refused (h : s.out.length % 8 ≠ 0) : writeAligned s = .error (.exc (.logic .notAligned)) s := by
  rw [writeAligned, look_bind, check_false _ _ h]

theorem natBits_mod (n v : Nat) : natBits n (v % 2 ^ n) = natBits n v := by
  induction n generalizing v with
  | zero => rfl
  | succ n ih =>
    rw [natBits, natBits, ← ih (v % 2 ^ (n + 1)), ← ih v, Nat.mod_mod_of_dvd _ (Nat.pow_dvd_pow 2 (Nat.le_succ n)),
      Nat.testBit_mod_two_pow]
    simp

@[simp] theorem beBytes_length (n v : Nat) : (beBytes n v).length = n := by
  induction n with
  | zero => rfl
  | succ n ih => rw [beBytes, List.length_cons, ih]

/-- The bytes of a number, most significant first, are its bits. -/
theorem bytesBits_beBytes (n v : Nat) : bytesBits (beBytes n v) = natBits (8 * n) v := by
  induction n with
  | zero => rfl
  | succ n ih =>
    have top : byteBits (BitVec.ofNat 8 (v / 256 ^ n)) = natBits 8 (v / 2 ^ (8 * n)) := by
      rw [byteBits_eq, BitVec.toNat_ofNat, natBits_mod, Nat.pow_mul]
    rw [show 8 * (n + 1) = 8 + 8 * n by omega, natBits_add, ← ih, ← top]
    rfl

/-- The number of some bytes is that of their bits. -/
theorem bitsNat_bytesBits (bs : List Byte) : bitsNat (bytesBits bs) = beNat bs := by
  have one : ∀ (acc : Nat) (b : Byte), (byteBits b).foldl (fun acc b => 2 * acc + b.toNat) acc = 256 * acc + b.toNat :=
    fun acc b => by rw [byteBits_eq, foldl_natBits, Nat.mod_eq_of_lt b.isLt, Nat.mul_comm]; rfl
  rw [bitsNat, bytesBits, List.foldl_flatMap, beNat]
  simp only [one]

theorem beNat_beBytes {n v : Nat} (fits : v < 2 ^ (8 * n)) : beNat (beBytes n v) = v := by
  rw [← bitsNat_bytesBits, bytesBits_beBytes, bitsNat_natBits, Nat.mod_eq_of_lt fits]

/-- A field of whole bytes is read as bytes. -/
theorem readBytes_natBits {n v : Nat} (aligned : s.brPos % 8 = 0) (inside : s.brPos ≤ 8 * s.input.length)
    (h : AtCursor s (natBits (8 * n) v)) : readBytes n s = .ok (beBytes n v) { s with brPos := s.brPos + 8 * n } := by
  have run := readBytes_atCursor aligned inside (bs := beBytes n v) (by rwa [bytesBits_beBytes])
  rwa [beBytes_length] at run

/-! ### Want of input and refusals, issued by the host -/

section
variable {x : Op α} {f : α → Op Result} {side : Side} (live : s.faulted = false)
include live

/-- An operation that raises without a write that stays. -/
theorem raises_first {e : Exc} (h : x s = .error (.exc e) s) : Raises (issue side (x >>= f) s) s side e :=
  issue_exc live (bind_error h)

/-- An operation that lacks input. -/
theorem starves_first (h : x s = .error s.want s) : Starves (issue .read (x >>= f) s) s := by
  constructor <;> intro e <;> rw [State.want, e] at h
  · exact issue_hold live (bind_error h)
  · exact issue_exc live (bind_error h)

end

/-- An operation of the reading side that needs an aligned cursor. -/
theorem notEncode_unaligned {f : Unit → Op α} (mode : s.mode ≠ .encode) (h : s.brPos % 8 ≠ 0) :
    (do notEncode; readAligned >>= f) s = .error (.exc (.logic .notAligned)) s :=
  (notEncode_bind mode).trans (bind_error (readAligned_refused h))

/-! ### Marker and metadata block header -/

section
variable (mode : s.mode ≠ .encode) (aligned : s.brPos % 8 = 0)
include mode aligned

theorem mkRead_atCursor {bs : List Byte} (len : bs.length = 4) (h : AtCursor s (bytesBits bs)) :
    mkRead s = check (bs = Config.streamMarker) (.structural .badMarker) { s with brPos := s.brPos + 32 } := by
  have inside : s.brPos + 32 ≤ 8 * s.input.length := by
    have room := h.inside (List.ne_nil_of_length_pos (by rw [bytesBits_length]; omega))
    rwa [bytesBits_length, len] at room
  have run := readBytes_atCursor aligned (by omega) h
  rw [len] at run
  rw [mkRead, notEncode_bind mode, bind_ok run]

theorem mbhRead_atCursor {last type length : Nat} (h1 : last < 2) (h2 : type < 2 ^ 7) (h3 : length < 2 ^ 24)
    (counted : s.mbCount + 1 < 2 ^ 32) (h : AtCursor s (natBits 1 last ++ natBits 7 type ++ natBits 24 length)) :
    mbhRead s = .ok ⟨last = 1, type, length⟩
      { s with brPos := s.brPos + 32, mb := some ⟨last = 1, type, length⟩, mbCount := s.mbCount + 1 } := by
  have inside : s.brPos + 32 ≤ 8 * s.input.length := by
    simpa using h.inside (List.ne_nil_of_length_pos (by simp))
  rw [List.append_assoc] at h
  have back := h.behind
  rw [mbhRead, notEncode_bind mode, bind_ok (readAligned_ok aligned), bind_ok (starve_ok inside),
    bind_ok (readU_atCursor (show last < 2 ^ 1 from h1) h.head), bind_ok (readU_atCursor h2 back.head),
    bind_ok (readU_atCursor h3 back.behind), update_bind, if_pos counted]
  rfl

theorem mkRead_lacks (h : Lacks s 32) : mkRead s = .error s.want s := by
  rw [mkRead, notEncode_bind mode, readBytes, seq_assoc, bind_ok (readAligned_ok aligned), seq_assoc,
    bind_error (starve_lacks h)]

theorem mbhRead_lacks (h : Lacks s 32) : mbhRead s = .error s.want s := by
  rw [mbhRead, notEncode_bind mode, bind_ok (readAligned_ok aligned), bind_error (starve_lacks h)]

end

theorem mkRead_unaligned (mode : s.mode ≠ .encode) (h : s.brPos % 8 ≠ 0) : mkRead s = .error (.exc (.logic .notAligned)) s := by
  rw [mkRead, readBytes]
  simp only [seq_assoc]
  exact notEncode_unaligned mode h

/-- Settles O22: the marker and the block header at the cursor, cut short, unaligned, and in mode Encode. -/
theorem markerAndBlockHeader : Obligations.MarkerAndBlockHeader := by
  unfold Obligations.MarkerAndBlockHeader
  intro s live
  refine ⟨fun mode aligned => ⟨fun h => ?_, fun bs len other h => ?_, fun last type length h1 h2 h3 counted h => ?_,
    fun lacks => ⟨?_, ?_⟩⟩, fun mode unaligned => ⟨?_, ?_⟩, fun mode => ⟨?_, ?_⟩⟩
  · exact issue_unit_ok live ((mkRead_atCursor mode aligned rfl h).trans (check_true _ _ rfl))
  · exact issue_unit_exc live ((mkRead_atCursor mode aligned len h).trans (check_false _ _ other))
  · exact issue_ok live (bind_ok (mbhRead_atCursor mode aligned h1 h2 h3 counted h))
  · exact starves_first live (mkRead_lacks mode aligned lacks)
  · exact starves_first live (mbhRead_lacks mode aligned lacks)
  · exact raises_first live (mkRead_unaligned mode unaligned)
  · exact raises_first live (notEncode_unaligned mode unaligned)
  · exact raises_first live (bind_error (notEncode_refused mode))
  · exact raises_first live (bind_error (notEncode_refused mode))

/-! ### StreamInfo -/

/-- The low part of a field (R140). -/
theorem readU_low_atCursor {n v : Nat} (h1 : 1 ≤ n) (h2 : n ≤ 32) (h : AtCursor s (natBits n v)) :
    readU n s = .ok (v % 2 ^ n) { s with brPos := s.brPos + n } := by
  rw [readU_eq_readBits h1 h2, readBits_atCursor h1 h]

/-- The StreamInfo body is read back field by field (30_encoding.md R106). -/
theorem readStreamInfo_atCursor {si : StreamInfo} (fits : si.InWidth) (aligned : s.brPos % 8 = 0) (h : AtCursor s si.bits) :
    readStreamInfo s = .ok si { s with brPos := s.brPos + 272 } := by
  obtain ⟨w1, w2, w3, w4, w5, c1, c8, b1, b32, w9⟩ := fits
  have inside : s.brPos + 272 ≤ 8 * s.input.length := by
    simpa [StreamInfo.bits] using h.inside (List.ne_nil_of_length_pos (by simp [StreamInfo.bits]))
  rw [StreamInfo.bits, show natBits 36 si.totalSamples = _ from natBits_add 4 32 si.totalSamples] at h
  simp only [List.append_assoc] at h
  have k2 := h.behind
  have k3 := k2.behind
  have k4 := k3.behind
  have k5 := k4.behind
  have k6 := k5.behind
  have k7 := k6.behind
  have k8 := k7.behind
  have k9 := k8.behind
  have value : BitVec.ofNat 128 (beNat (beBytes 16 si.md5.toNat)) = si.md5 := by
    rw [beNat_beBytes (n := 16) si.md5.isLt, BitVec.ofNat_toNat, BitVec.setWidth_eq]
  have digest := readBytes_natBits (n := 16) (by dsimp only; omega) (by dsimp only; omega) k9.behind
  rw [readStreamInfo, bind_ok (readU_atCursor w1 h.head), bind_ok (readU_atCursor w2 k2.head), bind_ok (readU_atCursor w3 k3.head),
    bind_ok (readU_atCursor w4 k4.head), bind_ok (readU_atCursor w5 k5.head),
    bind_ok (readU_atCursor (show si.channels - 1 < 2 ^ 3 by omega) k6.head),
    bind_ok (readU_atCursor (show si.bps - 1 < 2 ^ 5 by omega) k7.head),
    bind_ok (readU_atCursor (show si.totalSamples / 2 ^ 32 < 2 ^ 4 by omega) k8.head),
    bind_ok (readU_low_atCursor (n := 32) (by decide) (by decide) k9.head)]
  refine (bind_ok digest).trans ?_
  have channels : si.channels - 1 + 1 = si.channels := by omega
  have bps : si.bps - 1 + 1 = si.bps := by omega
  simp only [value, pure_run, channels, bps, Nat.div_add_mod', Nat.add_assoc, Nat.reduceAdd, Nat.reduceMul]

theorem siRead_run (mode : s.mode ≠ .encode) (aligned : s.brPos % 8 = 0) : siRead s =
    (do check (s.siValid = false) (.structural .duplicateStreamInfo)
        starve (8 * Config.streamInfoLen)
        let si ← readStreamInfo
        update fun s => { s with si := some si } : Op Unit) s := by
  rw [siRead, notEncode_bind mode, bind_ok (readAligned_ok aligned), look_bind]

theorem siRead_atCursor {si : StreamInfo} (mode : s.mode ≠ .encode) (aligned : s.brPos % 8 = 0) (first : s.siValid = false)
    (fits : si.InWidth) (h : AtCursor s si.bits) : siRead s = .ok () { s with brPos := s.brPos + 272, si := some si } := by
  have inside : s.brPos + 272 ≤ 8 * s.input.length := by
    simpa [StreamInfo.bits] using h.inside (List.ne_nil_of_length_pos (by simp [StreamInfo.bits]))
  rw [siRead_run mode aligned, check_bind_true _ _ _ first,
    bind_ok (starve_ok (show s.brPos + 8 * Config.streamInfoLen ≤ _ from inside)),
    bind_ok (readStreamInfo_atCursor fits aligned h), update_run]

theorem siRead_duplicate (mode : s.mode ≠ .encode) (aligned : s.brPos % 8 = 0) (valid : s.siValid = true) :
    siRead s = .error (.exc (.structural .duplicateStreamInfo)) s := by
  rw [siRead_run mode aligned, check_bind_false _ _ _ (by simp [valid])]

/-- What makes a StreamInfo inconsistent is what the five conditions exclude (R224). -/
theorem inconsistent_iff (si : StreamInfo) :
    (si.sampleRate = 0 ∨ si.bps < 4 ∨ si.minBlocksize = 0 ∨ si.maxBlocksize < si.minBlocksize ∨
      (si.maxFramesize ≠ 0 ∧ si.maxFramesize < si.minFramesize)) ↔ ¬ si.Consistent := by
  unfold StreamInfo.Consistent
  omega

theorem siValidate_run {si : StreamInfo} (mode : s.mode ≠ .encode) (hsi : s.si = some si) : siValidate s =
    (do check si.Consistent (.structural .inconsistentStreamInfo)
        update fun s => { s with siValid := true } : Op Unit) s := by
  have ran : s.siReadRan = true := by simp [State.siReadRan, hsi, mode]
  rw [siValidate, look_bind, check_bind_true _ _ _ ran, bind_ok (readReg_some hsi)]

theorem siValidate_unwritten (h : s.si = none ∨ s.mode = .encode) : siValidate s = .error (.exc (.logic .unwrittenState)) s := by
  have ran : ¬ s.siReadRan = true := by rcases h with h | h <;> simp [State.siReadRan, h]
  rw [siValidate, look_bind, check_bind_false _ _ _ ran]

/-- Settles O23: the body read back field by field, each refusal of `SI_READ`, and the five conditions. -/
theorem streamInfoReadAndValidated : Obligations.StreamInfoReadAndValidated := by
  unfold Obligations.StreamInfoReadAndValidated
  intro s si live
  refine ⟨fun mode aligned first fits h => ?_, fun mode aligned valid => ?_, fun mode aligned first lacks => ?_,
    fun mode unaligned => ?_, fun mode hsi => ⟨fun bad => ?_, fun good => ?_⟩, fun h => ?_⟩
  · exact issue_unit_ok live (siRead_atCursor mode aligned first fits h)
  · exact raises_first live (siRead_duplicate mode aligned valid)
  · refine starves_first live ((siRead_run mode aligned).trans ?_)
    rw [check_bind_true _ _ _ first, bind_error (starve_lacks (show Lacks s (8 * Config.streamInfoLen) from lacks))]
  · exact raises_first live (notEncode_unaligned mode unaligned)
  · refine raises_first live ((siValidate_run mode hsi).trans ?_)
    rw [check_bind_false _ _ _ ((inconsistent_iff si).1 bad)]
  · refine issue_unit_ok live ((siValidate_run mode hsi).trans ?_)
    rw [check_bind_true _ _ _ (not_not.1 fun bad => good ((inconsistent_iff si).2 bad)), update_run]
  · exact raises_first live (siValidate_unwritten h)

/-! ### Metadata -/

theorem mbReadBody_run {h : MbHeader} (mode : s.mode ≠ .encode) (hmb : s.mb = some h) : mbReadBody s =
    (do let body ← readBytes h.length
        update fun s => { s with mdOut := s.mdOut ++ [⟨h.type, h.last, h.length, body⟩] }
        pure body : Op (List Byte)) s := by
  rw [mbReadBody, notEncode_bind mode, bind_ok (readReg_some hmb)]

/-- The last flag stands on the final block alone (R225). -/
theorem lastFlag_iff (blocks : List MdEntry) :
    ((blocks.filter (·.last)).length = 1 ∧ (blocks.getLast?.map (·.last)) = some true) ↔
      ∃ front b, blocks = front ++ [b] ∧ b.last = true ∧ ∀ x ∈ front, x.last = false := by
  constructor
  · rintro ⟨one, final⟩
    obtain rfl | ⟨front, b, rfl⟩ := List.eq_nil_or_concat' blocks
    · cases one
    · have hb : b.last = true := by simpa using final
      refine ⟨front, b, rfl, hb, fun x mem => ?_⟩
      have none : front.filter (·.last) = [] := by simpa [List.filter_append, hb] using one
      exact Bool.eq_false_iff.2 (List.filter_eq_nil_iff.1 none x mem)
  · rintro ⟨front, b, rfl, hb, rest⟩
    have none : front.filter (·.last) = [] := List.filter_eq_nil_iff.2 fun x mem => by simp [rest x mem]
    simp [List.filter_append, none, hb]

theorem payloadBlocks_ok {blocks : List MdEntry} (h : s.payload = .blocks blocks)
    (fits : ∀ b ∈ blocks, b.type < 2 ^ 7 ∧ b.length < 2 ^ 24) : payloadBlocks blocks.length s = .ok blocks s := by
  simp only [payloadBlocks, h]
  exact if_pos ⟨trivial, fits⟩

theorem mdseqCheck_cons (first : MdEntry) (rest : List MdEntry) : mdseqCheck (first :: rest) s =
    (do check (first.type = 0) (.structural .noStreamInfo)
        check (first.length = 34) (.structural .badStreamInfoLength)
        check (∀ b ∈ rest, b.type ≠ 0) (.structural .duplicateStreamInfo)
        check (((first :: rest).filter (·.last)).length = 1 ∧ ((first :: rest).getLast?.map (·.last)) = some true)
          (.structural .multipleLast) : Op Unit) s := rfl

/-- Settles O24: a body at the cursor, and the checks of a metadata sequence in their order. -/
theorem metadataBodyAndSequence : Obligations.MetadataBodyAndSequence := by
  unfold Obligations.MetadataBodyAndSequence
  intro s live
  refine ⟨fun h body inside mode hmb aligned => ⟨fun len bits => ?_, fun lacks => ?_⟩, fun h mode hmb unaligned => ?_,
    fun mode hmb => ?_, fun blocks carried fits => ?_⟩
  · have read := readBytes_atCursor aligned inside.1 bits
    rw [len] at read
    have run := (mbReadBody_run mode hmb).trans (bind_ok read)
    exact issue_ok live (bind_ok run)
  · exact starves_first live ((mbReadBody_run mode hmb).trans (bind_error (readBytes_lacks aligned lacks)))
  · exact raises_first live ((mbReadBody_run mode hmb).trans (bind_error (bind_error (readAligned_refused unaligned))))
  · refine raises_first live ?_
    rw [mbReadBody, notEncode_bind mode, readReg_bind, hmb, bind_error (written_none s)]
  · have payload := payloadBlocks_ok carried fits
    have raise : ∀ e, mdseqCheck blocks s = .error (.exc e) s →
        Raises (exec (.mdseqCheck blocks.length) s) s .write e := fun e h =>
      issue_exc live ((bind_ok payload).trans (bind_error h))
    intro noInfo badLength second lastOk
    cases blocks with
    | nil =>
      have empty : noInfo := fun b h => by cases h
      exact ⟨fun _ => raise _ rfl, fun h => absurd empty h, fun h => absurd empty h, fun h => absurd empty h,
        fun h => absurd empty h⟩
    | cons first rest =>
      have info : noInfo ↔ ¬ first.type = 0 := by simp [noInfo]
      have length : badLength ↔ ¬ first.length = 34 := by simp [badLength]
      have again : second ↔ ¬ ∀ b ∈ rest, b.type ≠ 0 := by simp [second]
      have last := lastFlag_iff (first :: rest)
      rw [info, length, again, not_not, not_not, not_not]
      refine ⟨fun h => raise _ ?_, fun h1 h => raise _ ?_, fun h1 h2 h => raise _ ?_, fun h1 h2 h3 h => raise _ ?_,
        fun h1 h2 h3 h => issue_ok live ((bind_ok payload).trans (bind_ok (a := ()) ?_))⟩ <;> rw [mdseqCheck_cons]
      · rw [check_bind_false _ _ _ h]
      · rw [check_bind_true _ _ _ h1, check_bind_false _ _ _ h]
      · rw [check_bind_true _ _ _ h1, check_bind_true _ _ _ h2, check_bind_false _ _ _ h]
      · rw [check_bind_true _ _ _ h1, check_bind_true _ _ _ h2, check_bind_true _ _ _ h3, check_false _ _ (fun k => h (last.1 k))]
      · rw [check_bind_true _ _ _ h1, check_bind_true _ _ _ h2, check_bind_true _ _ _ h3, check_true _ _ (last.2 h)]

/-! ### The head of a stream, written -/

theorem mbhWrite_ok {last type length : Nat} (aligned : s.out.length % 8 = 0) (h1 : last < 2) (h2 : type < 2 ^ 7)
    (h3 : length < 2 ^ 24) : mbhWrite last (type * 2 ^ 24 + length) s =
      .ok () (s.appendOut (natBits 1 last ++ natBits 7 type ++ natBits 24 length)) := by
  have type_ : (type * 2 ^ 24 + length) / 2 ^ 24 = type := by omega
  have length_ : (type * 2 ^ 24 + length) % 2 ^ 24 = length := by omega
  rw [mbhWrite, bind_ok (writeAligned_ok aligned), check_bind_true _ _ _ (by constructor <;> omega), type_, length_,
    bind_ok (writeU_appendOut (by decide) (show last < 2 ^ 1 from h1) s), bind_ok (writeU_appendOut (by decide) h2 _),
    writeU_appendOut (by decide) h3, State.appendOut_appendOut, State.appendOut_appendOut, List.append_assoc]

theorem validStreamInfo_refused (h : s.siValid = false) : validStreamInfo s = .error (.exc (.logic .unwrittenState)) s := by
  rw [validStreamInfo, look_bind, check_bind_false _ _ _ (by simp [h])]

theorem siWrite_ok {si : StreamInfo} (aligned : s.out.length % 8 = 0) (valid : s.siValid = true) (hsi : s.si = some si)
    (fits : si.InWidth) : siWrite s = .ok () (s.appendOut si.bits) := by
  have fields : si.Fits := by
    obtain ⟨w1, w2, w3, w4, w5, c1, c8, b1, b32, w9⟩ := fits
    exact ⟨w1, w2, w3, w4, w5, show si.channels - 1 < 2 ^ 3 by omega, show si.bps - 1 < 2 ^ 5 by omega, w9⟩
  rw [siWrite, bind_ok (writeAligned_ok aligned), bind_ok (validStreamInfo_ok valid hsi), check_bind_true _ _ _ fields,
    emit_appendOut]

/-- Settles O27: the three writers at an aligned cursor, and what each refuses. -/
theorem streamHeadWritten : Obligations.StreamHeadWritten := by
  unfold Obligations.StreamHeadWritten
  intro s si last type length live
  refine ⟨fun aligned => ⟨?_, fun h1 h2 h3 => ?_, fun b big => ?_, fun valid hsi fits => ?_⟩, fun aligned first => ?_,
    fun unaligned => ⟨?_, fun b => ?_, ?_⟩⟩
  · exact issue_unit_ok live (writeBytes_ok aligned)
  · have run := issue_unit_ok (side := .write) live (mbhWrite_ok aligned h1 h2 h3)
    rw [State.appendOut, ← List.append_assoc, ← List.append_assoc] at run
    exact run
  · refine raises_first live ?_
    rw [mbhWrite, bind_ok (writeAligned_ok aligned), check_bind_false _ _ _ (by omega)]
  · have run := issue_unit_ok (side := .write) live (siWrite_ok aligned valid hsi fits)
    simp only [State.appendOut, StreamInfo.bits, ← List.append_assoc] at run
    exact run
  · refine raises_first live ?_
    rw [siWrite, bind_ok (writeAligned_ok aligned), bind_error (validStreamInfo_refused first)]
  · exact raises_first live (bind_error (writeAligned_refused unaligned))
  · exact raises_first live (bind_error (writeAligned_refused unaligned))
  · exact raises_first live (bind_error (writeAligned_refused unaligned))

/-! ### Host input and reset -/

theorem payloadBytes_ok {count : Nat} {bs : List Byte} (h : Carries s bs) (len : bs.length = count) :
    payloadBytes count s = .ok bs s := by
  rcases h with h | ⟨rfl, h⟩
  · simp only [payloadBytes, h, if_pos len]
  · simp only [payloadBytes, h, if_pos len]

/-- Settles O6: a push, a push behind the end of input, and the end of input. -/
theorem pushAndEndOfInput : Obligations.PushAndEndOfInput := by
  unfold Obligations.PushAndEndOfInput
  intro s count bs live
  refine ⟨fun going carried len small => ?_, fun ended => ?_, issue_unit_ok live rfl⟩
  · have pushed : issue .read (do
          let ended ← look State.inEof
          check (ended = false) (.logic .badOperand)
          let bs ← payloadBytes count
          update fun t => { t with input := t.input ++ bs }
          pure .none) s = .next { s with input := s.input ++ bs, reply := some (.ok .none) } := by
      refine issue_ok live (t := { s with input := s.input ++ bs }) ?_
      rw [look_bind, check_bind_true _ _ _ going, bind_ok (payloadBytes_ok carried len), update_bind, pure_run]
    have inSpec : (s.input ++ bs).length < Config.streamBytesLimit := by
      rw [List.length_append, len]
      exact small
    show execInPush count s = _
    rw [execInPush, pushed]
    exact if_pos (.inr inSpec)
  · have refused : issue .read (do
          let ended ← look State.inEof
          check (ended = false) (.logic .badOperand)
          let bs ← payloadBytes count
          update fun t => { t with input := t.input ++ bs }
          pure .none) s = .next (s.takeException s .read (.logic .badOperand)) := by
      refine issue_exc live (t := s) ?_
      rw [look_bind, check_bind_false _ _ _ (by simp [ended])]
    show execInPush count s = _
    rw [execInPush, refused]
    exact if_pos (.inl rfl)

theorem modeOf_beyond {a : Nat} (h : 3 ≤ a) : modeOf a = none := by
  obtain ⟨n, rfl⟩ : ∃ n, a = n + 3 := ⟨a - 3, by omega⟩
  rfl

/-- Settles O1: the registers at reset, `STREAM_RESET` with each mode, and with no mode. -/
theorem powerOnAndStreamReset : Obligations.PowerOnAndStreamReset := by
  unfold Obligations.PowerOnAndStreamReset
  refine ⟨by dsimp only; and_intros <;> rfl, fun s a m h => ?_, fun s a h => ?_⟩
  · rcases h with ⟨rfl, rfl⟩ | ⟨rfl, rfl⟩ | ⟨rfl, rfl⟩ <;> rfl
  · show execStreamReset a s = _
    simp only [execStreamReset, modeOf_beyond h]
    rfl

end Sys2Proof.Machine

/-! PROOFS. The start of an encoder session (47_encoder.md R341, R342), the seek index (48_seek_index.md R361, R362, R364) and
the hash of the block in hand (42_crc_hash.md R205, R206). -/

namespace Sys2Proof.Machine

variable {α β : Type} {s t : State}

/-! ### The checks of a configuration -/

section
variable {c : EncConfig}

/-- The checks of R342 with their numbers. -/
theorem configError_eq (c : EncConfig) : configError c =
    if ¬ (1 ≤ c.channels ∧ c.channels ≤ 8) then some .channels
    else if ¬ (4 ≤ c.bps ∧ c.bps ≤ 32) then some .bitDepth
    else if ¬ (1 ≤ c.sampleRate ∧ c.sampleRate ≤ 1048575) then some .sampleRate
    else if ¬ (1 ≤ c.minBlocksize ∧ c.minBlocksize ≤ c.maxBlocksize ∧ c.maxBlocksize ≤ 65535) then some .blockSize
    else if ¬ (c.minBlocksize ≤ c.blocksize ∧ c.blocksize ≤ c.maxBlocksize) then some .blockSize
    else if ¬ (c.totalSamples < 2 ^ 36 ∧ c.maxLpcOrder ≤ 32 ∧ 1 ≤ c.qlpPrec ∧ c.qlpPrec ≤ 15 ∧ c.maxPorder ≤ 8 ∧ c.method < 2)
      then some .parameter
    else none := rfl

theorem configError_channels (h : ¬ (1 ≤ c.channels ∧ c.channels ≤ 8)) : configError c = some .channels := by
  rw [configError_eq, if_pos h]

variable (h1 : 1 ≤ c.channels ∧ c.channels ≤ 8)
include h1

theorem configError_bitDepth (h : ¬ (4 ≤ c.bps ∧ c.bps ≤ 32)) : configError c = some .bitDepth := by
  rw [configError_eq, if_neg (not_not.2 h1), if_pos h]

variable (h2 : 4 ≤ c.bps ∧ c.bps ≤ 32)
include h2

theorem configError_sampleRate (h : ¬ (1 ≤ c.sampleRate ∧ c.sampleRate ≤ 1048575)) : configError c = some .sampleRate := by
  rw [configError_eq, if_neg (not_not.2 h1), if_neg (not_not.2 h2), if_pos h]

variable (h3 : 1 ≤ c.sampleRate ∧ c.sampleRate ≤ 1048575)
include h3

theorem configError_blockSize (h : ¬ (1 ≤ c.minBlocksize ∧ c.minBlocksize ≤ c.blocksize ∧ c.blocksize ≤ c.maxBlocksize ∧
    c.maxBlocksize ≤ 65535)) : configError c = some .blockSize := by
  rw [configError_eq, if_neg (not_not.2 h1), if_neg (not_not.2 h2), if_neg (not_not.2 h3)]
  by_cases bounds : 1 ≤ c.minBlocksize ∧ c.minBlocksize ≤ c.maxBlocksize ∧ c.maxBlocksize ≤ 65535
  · rw [if_neg (not_not.2 bounds), if_pos (by omega)]
  · rw [if_pos bounds]

variable (h4 : 1 ≤ c.minBlocksize ∧ c.minBlocksize ≤ c.blocksize ∧ c.blocksize ≤ c.maxBlocksize ∧ c.maxBlocksize ≤ 65535)
include h4

/-- Behind the other checks the parameters decide. -/
theorem configError_params : configError c =
    if ¬ (c.totalSamples < 2 ^ 36 ∧ c.maxLpcOrder ≤ 32 ∧ 1 ≤ c.qlpPrec ∧ c.qlpPrec ≤ 15 ∧ c.maxPorder ≤ 8 ∧ c.method < 2)
    then some .parameter else none := by
  rw [configError_eq, if_neg (not_not.2 h1), if_neg (not_not.2 h2), if_neg (not_not.2 h3), if_neg (by omega), if_neg (by omega)]

end

/-! ### `ENC_INIT` -/

theorem asIssued_ok {m : Op α} {a : α} (h : m s = .ok a t) : asIssued m s = .ok a t := by rw [asIssued, h]

/-- What the head of a stream holds for a configuration (R341). -/
def headBits (c : EncConfig) : List Bool :=
  bytesBits Config.streamMarker ++ (natBits 1 (if c.siLast = true then 1 else 0) ++ natBits 7 0 ++ natBits 24 34) ++
    (provisionalInfo c).bits

/-- The session's registers once a configuration is accepted (R341). -/
def State.configured (s : State) (c : EncConfig) : State :=
  { s with cfg := some c, si := some (provisionalInfo c), siValid := true, md5 := Md5Regs.reset }

section
variable {c : EncConfig} (mode : s.mode = .encode) (idle : s.estate = .idle) (payload : s.payload = .config c)
include mode idle payload

theorem encInit_fails {sub : ConfigSub} (h : configError c = some sub) :
    encInit s = .error (.exc (.config sub)) { s with estate := .failed } := by
  have carried : payloadConfig s = .ok c s := by simp only [payloadConfig, payload]
  rw [encInit, bind_ok (needMode_ok mode), look_bind, check_bind_true _ _ _ idle, bind_ok carried, h]
  rfl

theorem encInit_ok (aligned : s.out.length % 8 = 0) (h : configError c = none) :
    encInit s = .ok () { (s.configured c).appendOut (headBits c) with estate := .ready } := by
  have carried : payloadConfig s = .ok c s := by simp only [payloadConfig, payload]
  have marker : mkWrite (s.configured c) = .ok () ((s.configured c).appendOut (bytesBits Config.streamMarker)) :=
    writeBytes_ok aligned
  generalize hm : (s.configured c).appendOut (bytesBits Config.streamMarker) = u at marker
  have alignedU : u.out.length % 8 = 0 := by
    rw [← hm]
    show (s.out ++ bytesBits Config.streamMarker).length % 8 = 0
    rw [List.length_append, bytesBits_length]
    omega
  have flag : (if c.siLast = true then 1 else 0) < 2 := by split <;> decide
  have header := mbhWrite_ok (type := 0) (length := 34) alignedU flag (by decide) (by decide)
  generalize hh : u.appendOut (natBits 1 (if c.siLast = true then 1 else 0) ++ natBits 7 0 ++ natBits 24 34) = v at header
  have alignedV : v.out.length % 8 = 0 := by
    rw [← hh]
    show (u.out ++ _).length % 8 = 0
    simp only [List.length_append, natBits_length]
    omega
  have body := siWrite_ok (si := provisionalInfo c) alignedV (by rw [← hh, ← hm]; rfl) (by rw [← hh, ← hm]; rfl)
    (provisionalInfo_inWidth (accepted_of_configError h))
  rw [encInit, bind_ok (needMode_ok mode), look_bind, check_bind_true _ _ _ idle, bind_ok carried, h]
  refine (asIssued_ok (a := ()) ((bind_ok marker).trans ((bind_ok header).trans (bind_ok body)))).trans ?_
  rw [← hh, ← hm, State.appendOut_appendOut, State.appendOut_appendOut]
  rfl

end

theorem encInit_badMode (h : s.mode ≠ .encode ∨ s.estate ≠ .idle) : encInit s = .error (.exc (.logic .badMode)) s := by
  rw [encInit]
  by_cases mode : s.mode = .encode
  · rw [bind_ok (needMode_ok mode), look_bind, check_bind_false _ _ _ (h.resolve_left (not_not.2 mode))]
  · exact bind_error (needMode_refused mode)

/-- Settles O46: the checks of a configuration in their order, and the head of the stream that one which passes them writes. -/
theorem encoderInit : Obligations.EncoderInit := by
  unfold Obligations.EncoderInit
  intro s c live
  refine ⟨fun mode idle payload => ?_, fun h => ?_, fun b h => ?_⟩
  · intro channels depth rate blocks params fails
    have fail : ∀ {sub}, configError c = some sub → fails sub := fun h =>
      issue_exc live ((check_bind_true _ _ _ rfl).trans (bind_error (encInit_fails mode idle payload h)))
    refine ⟨fun h1 h2 h3 h4 h5 aligned => ⟨_, rfl, ?_⟩, fun h => fail (configError_channels h),
      fun h1 h => fail (configError_bitDepth h1 h), fun h1 h2 h => fail (configError_sampleRate h1 h2 h),
      fun h1 h2 h3 h => fail (configError_blockSize h1 h2 h3 h), fun h1 h2 h3 h4 h => fail ?_⟩
    · have ok : configError c = none := by rw [configError_params h1 h2 h3 h4, if_neg (by omega)]
      have run : Answers (exec (.encInit 0) s) { (s.configured c).appendOut (headBits c) with estate := .ready } .none :=
        issue_ok live ((check_bind_true _ _ _ rfl).trans (bind_ok (encInit_ok mode idle payload aligned ok)))
      simp only [State.appendOut, headBits, ← List.append_assoc] at run
      simp only [← List.append_assoc]
      exact run
    · rw [configError_params h1 h2 h3 h4, if_pos (by omega)]
  · exact issue_exc live ((check_bind_true _ _ _ rfl).trans (bind_error (encInit_badMode h)))
  · exact issue_exc live (check_bind_false _ _ _ h)

/-! ### The seek index -/

/-- The test of an index is that its samples increase strictly. -/
theorem increasing_iff : ∀ pts : List SeekPoint, increasing pts = true ↔ pts.Pairwise (fun p q => p.sample < q.sample)
  | [] => by simp [increasing]
  | [p] => by simp [increasing]
  | p :: q :: rest => by
    rw [increasing, Bool.and_eq_true, decide_eq_true_eq, increasing_iff (q :: rest), List.pairwise_cons (a := p)]
    refine and_congr_left fun sorted => ⟨fun h r mem => ?_, fun h => h q (by simp)⟩
    rcases List.mem_cons.1 mem with rfl | mem
    · exact h
    · exact h.trans (List.rel_of_pairwise_cons sorted mem)

/-- The points of a body of points are those that are no placeholders (R361). -/
theorem seekPoints_bytes : ∀ all : List SeekPoint, (∀ p ∈ all, p.sample < 2 ^ 64 ∧ p.offset < 2 ^ 64 ∧ p.nsamples < 2 ^ 16) →
    seekPoints all.length (all.flatMap SeekPoint.bytes) = all.filter fun p => p.sample ≠ 2 ^ 64 - 1
  | [], _ => rfl
  | p :: all, fits => by
    obtain ⟨⟨hs, ho, hn⟩, rest⟩ := List.forall_mem_cons.1 fits
    have cut : (p.bytes ++ all.flatMap SeekPoint.bytes).take 8 = beBytes 8 p.sample ∧
        ((p.bytes ++ all.flatMap SeekPoint.bytes).drop 8).take 8 = beBytes 8 p.offset ∧
        ((p.bytes ++ all.flatMap SeekPoint.bytes).drop 16).take 2 = beBytes 2 p.nsamples ∧
        (p.bytes ++ all.flatMap SeekPoint.bytes).drop 18 = all.flatMap SeekPoint.bytes := by
      refine ⟨?_, ?_, ?_, ?_⟩ <;> simp [SeekPoint.bytes, List.drop_append, List.drop_eq_nil_of_le]
    obtain ⟨sample, offset, nsamples, behind⟩ := cut
    have vs := beNat_beBytes (n := 8) hs
    have vo := beNat_beBytes (n := 8) ho
    have vn := beNat_beBytes (n := 2) hn
    rw [List.length_cons, seekPoints, List.flatMap_cons, sample, offset, nsamples, behind, vs, vo, vn,
      seekPoints_bytes all rest, List.filter_cons]
    by_cases placeholder : p.sample = 2 ^ 64 - 1 <;> simp [placeholder]

theorem flatMap_bytes_length (all : List SeekPoint) : (all.flatMap SeekPoint.bytes).length = all.length * 18 := by
  rw [List.length_flatMap, List.map_congr_left (g := fun _ => 18) fun p _ => by simp [SeekPoint.bytes]]
  simp

theorem seekTable_bytes {all : List SeekPoint} (fits : ∀ p ∈ all, p.sample < 2 ^ 64 ∧ p.offset < 2 ^ 64 ∧ p.nsamples < 2 ^ 16) :
    seekTable (all.flatMap SeekPoint.bytes) = if increasing (all.filter fun p => p.sample ≠ 2 ^ 64 - 1) then
      all.filter fun p => p.sample ≠ 2 ^ 64 - 1 else [] := by
  rw [seekTable, flatMap_bytes_length, if_neg (by omega), Nat.mul_div_cancel _ (by decide), seekPoints_bytes all fits]

theorem seekTable_sorted (body : List Byte) : (seekTable body).Pairwise fun p q => p.sample < q.sample := by
  unfold seekTable
  split
  · exact List.Pairwise.nil
  · dsimp only
    split
    next h => exact (increasing_iff _).1 h
    next => exact List.Pairwise.nil

/-- In an increasing index the last point at or before the target is the greatest one (R362). -/
theorem seekFind_greatest {pts : List SeekPoint} {target : Nat} {p : SeekPoint} (sorted : pts.Pairwise fun p q => p.sample < q.sample)
    (mem : p ∈ pts) (le : p.sample ≤ target) (greatest : ∀ q ∈ pts, q.sample ≤ target → q.sample ≤ p.sample) :
    seekFind pts target = some p.offset := by
  have here : p ∈ pts.filter fun p => p.sample ≤ target := List.mem_filter.2 ⟨mem, by simpa using le⟩
  have rising := sorted.sublist (List.filter_sublist (p := fun p => decide (p.sample ≤ target)))
  rw [seekFind]
  obtain none | ⟨front, q, split⟩ := List.eq_nil_or_concat' (pts.filter fun p => p.sample ≤ target)
  · rw [none] at here
    cases here
  · have hq := List.mem_filter.1 (split.symm ▸ List.mem_concat_self : q ∈ pts.filter fun p => p.sample ≤ target)
    have top := greatest q hq.1 (by simpa using hq.2)
    rw [split] at here rising
    rw [split, List.getLast?_concat]
    rcases List.mem_append.1 here with before | last
    · have := (List.pairwise_append.1 rising).2.2 p before q (by simp)
      omega
    · rw [List.mem_singleton.1 last]
      rfl

theorem seekFind_none {pts : List SeekPoint} {target : Nat} (h : ∀ p ∈ pts, target < p.sample) : seekFind pts target = none := by
  have none : pts.filter (fun p => p.sample ≤ target) = [] :=
    List.filter_eq_nil_iff.2 fun p mem => by simpa using h p mem
  rw [seekFind, none]
  rfl

/-- Settles O52: what `SEEK_LOAD` makes of a body, and the point that `SEEK_LOOKUP` finds in an increasing index. -/
theorem seekIndexLaws : Obligations.SeekIndexLaws := by
  unfold Obligations.SeekIndexLaws
  refine ⟨fun s len live big => ?_, fun s body live payload small => ⟨seekTable body, ?_, seekTable_sorted body, fun ragged => ?_,
    fun all fits whole => ?_⟩, fun s target live sorted => ⟨fun above => ?_, fun p mem le greatest => ?_⟩⟩
  · exact issue_exc live (check_bind_false _ _ _ (by omega))
  · have carried : seekBody body.length s.payload = body := by rw [payload, seekBody, if_pos rfl]
    refine issue_ok live ?_
    rw [check_bind_true _ _ _ small, look_bind, carried, seekLoad, seq_assoc, update_bind, pure_bind_run, pure_run]
  · rw [seekTable, if_pos ragged]
  · subst whole
    rw [seekTable_bytes fits]
    exact ⟨fun h => if_pos ((increasing_iff _).2 h), fun h => if_neg (fun k => h ((increasing_iff _).1 k))⟩
  · refine issue_ok live ?_
    rw [look_bind, seekFind_none above, pure_run]
  · refine issue_ok live ?_
    rw [look_bind, seekFind_greatest sorted mem le greatest, pure_run]

/-! ### The bytes of a block -/

/-- An entry of a list that is built from pieces of one length. -/
theorem getElem?_flatMap_const {f : α → List β} {k j : Nat} (hj : j < k) : ∀ (l : List α) (i : Nat) (a : α),
    (∀ x ∈ l, (f x).length = k) → l[i]? = some a → (l.flatMap f)[i * k + j]? = (f a)[j]?
  | x :: l, 0, a, len, h => by
    obtain rfl : x = a := by simpa using h
    rw [List.flatMap_cons, Nat.zero_mul, Nat.zero_add, List.getElem?_append_left (by rw [len x (by simp)]; exact hj)]
  | x :: l, i + 1, a, len, h => by
    have here := len x (by simp)
    rw [List.flatMap_cons, List.getElem?_append_right (by rw [here]; nlinarith), here,
      show (i + 1) * k + j - k = i * k + j by rw [Nat.succ_mul]; omega]
    exact getElem?_flatMap_const hj l i a (fun y mem => len y (by simp [mem])) (by simpa using h)

@[simp] theorem leBytes_length (n v : Nat) : (leBytes n v).length = n := by
  induction n generalizing v with
  | zero => rfl
  | succ n ih => rw [leBytes, List.length_cons, ih]

theorem leBytes_getElem? {n j : Nat} (h : j < n) (v : Nat) : (leBytes n v)[j]? = some (BitVec.ofNat 8 (v / 256 ^ j)) := by
  induction n generalizing v j with
  | zero => omega
  | succ n ih =>
    cases j with
    | zero => simp [leBytes]
    | succ j =>
      rw [leBytes, List.getElem?_cons_succ, ih (by omega), Nat.div_div_eq_div_mul, Nat.pow_succ']

/-- A byte of the two's complement of a number is that byte of the number. -/
theorem ofNat_tc {k j : Nat} (h : j < k) (v : Int) :
    BitVec.ofNat 8 (tc (8 * k) v / 256 ^ j) = BitVec.ofInt 8 (v / 256 ^ j) := by
  obtain ⟨d, rfl⟩ : ∃ d, k = j + (d + 1) := ⟨k - j - 1, by omega⟩
  have base : (2 : Int) ^ (8 * (j + (d + 1))) = 256 ^ j * (256 * 256 ^ d) := by
    rw [pow_mul, pow_add, ← pow_succ']
    norm_num
  have pos : (0 : Int) < 256 ^ j := by positivity
  have cut : v % 2 ^ (8 * (j + (d + 1))) / 256 ^ j = v / 256 ^ j % (256 * 256 ^ d) := by
    rw [base, Int.emod_def, Int.emod_def, ← Int.ediv_ediv_of_nonneg pos.le, Int.mul_assoc,
      Int.sub_mul_ediv_left _ _ pos.ne']
  have whole : ((tc (8 * (j + (d + 1))) v : Nat) : Int) = v % 2 ^ (8 * (j + (d + 1))) :=
    Int.toNat_of_nonneg (Int.emod_nonneg v (by positivity))
  have part : ((tc (8 * (j + (d + 1))) v / 256 ^ j : Nat) : Int) = v / 256 ^ j % (256 * 256 ^ d) := by
    rw [← cut, ← whole]
    push_cast
    rfl
  have low := Int.emod_emod_of_dvd (v / 256 ^ j) (Dvd.intro (256 ^ d : Int) rfl : (256 : Int) ∣ 256 * 256 ^ d)
  rw [← part] at low
  apply BitVec.eq_of_toNat_eq
  rw [BitVec.toNat_ofNat, BitVec.toNat_ofInt]
  generalize tc (8 * (j + (d + 1))) v / 256 ^ j = n at low
  generalize v / 256 ^ j = z at low
  omega

/-! ### The hash of the block in hand -/

section
variable {ch n bps : Nat} (hch : s.fh.channels = some ch) (hn : s.fh.blocksize = some n)
  (depth : (s.mode = .decode ∧ ∃ si, s.si = some si ∧ si.bps = bps) ∨ (s.mode = .encode ∧ ∃ c, s.cfg = some c ∧ c.bps = bps))

include depth in
theorem hashDepth_ok : hashDepth s = .ok bps s := by
  rcases depth with ⟨mode, si, hsi, rfl⟩ | ⟨mode, c, hc, rfl⟩
  · simp only [hashDepth, mode]
    exact bind_ok (readReg_some hsi)
  · simp only [hashDepth, mode]
    exact bind_ok (readReg_some hc)

/-- The rows of the block in hand. -/
def State.block (s : State) (ch n : Nat) : List (List Int) := (List.range ch).map fun c => (s.row c).take n

theorem block_take (rows : ch ≤ s.smp.length) : s.smp.take ch = (List.range ch).map s.row := by
  refine List.ext_getElem (by simp [rows]) fun i h1 h2 => ?_
  rw [List.length_take] at h1
  simp only [List.getElem_take, List.getElem_map, List.getElem_range, State.row]
  exact (List.getD_eq_getElem _ _ (by omega)).symm

theorem readSmp_block (rows : ch ≤ s.smp.length) (long : ∀ c, c < ch → n ≤ (s.row c).length) :
    readSmp ch n s = .ok (s.block ch n) s := by
  have whole : ∀ row ∈ s.smp.take ch, n ≤ row.length := by
    rw [block_take rows]
    intro row mem
    obtain ⟨c, hc, rfl⟩ := List.mem_map.1 mem
    exact long c (List.mem_range.1 hc)
  rw [readSmp, if_pos ⟨rows, whole⟩, block_take rows, List.map_map]
  rfl

variable (valid : s.fh.valid = true) (rows : ch ≤ s.smp.length) (long : ∀ c, c < ch → n ≤ (s.row c).length)

include hch hn depth valid rows long in
theorem md5UpdatePcm_run : md5UpdatePcm s =
    (do check (∀ row ∈ s.block ch n, ∀ v ∈ row, fitsS v bps) (.logic .valueOutOfRange)
        md5UpdateBytes (hashBytes (s.block ch n) n bps) : Op Unit) s := by
  rw [md5UpdatePcm, bind_ok (hashDepth_ok depth), look_bind, check_bind_true _ _ _ valid, bind_ok (readReg_some hch),
    bind_ok (readReg_some hn), bind_ok (readSmp_block rows long)]

include long in
theorem block_fits : (∀ row ∈ s.block ch n, ∀ v ∈ row, fitsS v bps) ↔ ∀ c i, c < ch → i < n → fitsS (sampleAt (s.row c) i) bps := by
  constructor
  · intro h c i hc hi
    have len : ((s.row c).take n).length = n := by rw [List.length_take, Nat.min_eq_left (long c hc)]
    rw [← sampleAt_take hi, sampleAt_of_lt (by omega)]
    exact h _ (List.mem_map_of_mem (List.mem_range.2 hc)) _ (List.getElem_mem _)
  · intro h row mem
    obtain ⟨c, hc, rfl⟩ := List.mem_map.1 mem
    have hc := List.mem_range.1 hc
    refine forall_mem_of_sampleAt (n := n) (by rw [List.length_take, Nat.min_eq_left (long c hc)]) fun i hi => ?_
    rw [sampleAt_take hi]
    exact h c i hc hi

@[simp] theorem sampleBytes_length (k : Nat) (v : Int) : (sampleBytes k v).length = k := leBytes_length k _

/-- The bytes of a column of the block. -/
theorem columnBytes_length (k : Nat) (vs : List Int) : (vs.flatMap (sampleBytes k)).length = vs.length * k := by
  rw [List.length_flatMap, List.map_congr_left (g := fun _ => k) fun v _ => sampleBytes_length k v]
  simp

/-- Byte `j` of channel `c` at time `i` stands at its interleaved place (R205). -/
theorem hashBytes_getElem? {c i j : Nat} (hi : i < n) (hc : c < ch) (hj : j < (bps + 7) / 8) :
    (hashBytes (s.block ch n) n bps)[(i * ch + c) * ((bps + 7) / 8) + j]? =
      some (BitVec.ofInt 8 (sampleAt (s.row c) i / 256 ^ j)) := by
  generalize hk : (bps + 7) / 8 = k at hj
  have bytes : hashBytes (s.block ch n) n bps =
      (List.range n).flatMap fun i => (columnAt (s.block ch n) i).flatMap (sampleBytes k) := by rw [← hk]; rfl
  have width : ∀ x, (columnAt (s.block ch n) x).length = ch := fun x => by simp [columnAt, State.block]
  have place : (i * ch + c) * k + j = i * (ch * k) + (c * k + j) := by ring
  have inside : c * k + j < ch * k := by
    calc c * k + j < c * k + k := by omega
      _ = (c + 1) * k := by ring
      _ ≤ ch * k := Nat.mul_le_mul_right k hc
  have sample : (columnAt (s.block ch n) i)[c]? = some (sampleAt (s.row c) i) := by
    rw [columnAt, State.block, List.map_map, List.getElem?_map, List.getElem?_range hc]
    exact congrArg some (sampleAt_take hi)
  rw [bytes, place, getElem?_flatMap_const inside _ i i
      (fun x _ => by rw [columnBytes_length, width]) (by rw [List.getElem?_range hi]),
    getElem?_flatMap_const hj _ c _ (fun v _ => sampleBytes_length k v) sample]
  exact (leBytes_getElem? hj _).trans (congrArg some (ofNat_tc hj _))

theorem hashBytes_length (rows : List (List Int)) (n bps : Nat) :
    (hashBytes rows n bps).length = n * rows.length * ((bps + 7) / 8) := by
  have each : ∀ i, ((columnAt rows i).flatMap (sampleBytes ((bps + 7) / 8))).length = rows.length * ((bps + 7) / 8) := fun i => by
    rw [columnBytes_length, columnAt, List.length_map]
  show ((List.range n).flatMap fun i => (columnAt rows i).flatMap (sampleBytes ((bps + 7) / 8))).length = _
  rw [List.length_flatMap, List.map_congr_left (g := fun _ => rows.length * ((bps + 7) / 8)) fun i _ => each i]
  simp [Nat.mul_assoc]

end

/-- Settles O21: the bytes of the block in their interleaved places, and the refusals in the model's order. -/
theorem hashOfTheBlock : Obligations.HashOfTheBlock := by
  unfold Obligations.HashOfTheBlock
  intro s ch n bps live hch hn depth rows long
  refine ⟨fun valid going fits => ⟨hashBytes (s.block ch n) n bps, ?_, ?_, fun i c j hi hc hj => hashBytes_getElem? hi hc hj⟩,
    fun invalid => ?_, fun valid ⟨c, i, hc, hi, unfit⟩ => ?_, ?_⟩
  · refine issue_unit_ok live ((md5UpdatePcm_run hch hn depth valid rows long).trans ?_)
    rw [check_bind_true _ _ _ ((block_fits long).2 fits), md5UpdateBytes, look_bind, check_bind_true _ _ _ going, update_run]
    rfl
  · rw [hashBytes_length, State.block, List.length_map, List.length_range]
  · refine raises_first live ?_
    rw [md5UpdatePcm, bind_ok (hashDepth_ok depth), look_bind, check_bind_false _ _ _ (by simp [invalid])]
  · refine raises_first live ((md5UpdatePcm_run hch hn depth valid rows long).trans ?_)
    rw [check_bind_false _ _ _ fun all => unfit ((block_fits long).1 all c i hc hi)]
  · rintro t rfl
    have idle : hashDepth { s with mode := .idle } = .error (.exc (.logic .badMode)) { s with mode := .idle } := rfl
    have refused : md5UpdatePcm { s with mode := .idle } = .error (.exc (.logic .badMode)) { s with mode := .idle } :=
      bind_error idle
    exact raises_first (s := { s with mode := .idle }) live refused

end Sys2Proof.Machine

/-! PROOFS. Modes (10_state.md R21), the fixed part of a frame header (43_frame_model.md R227), and the wire structures handed
over as instructions (30_encoding.md R104 to R135). -/

namespace Sys2Proof.Machine

variable {α β : Type} {s t : State}

/-! ### Bits as a field, bits as bytes -/

theorem bitsNat_cons (b : Bool) (bits : List Bool) : bitsNat (b :: bits) = b.toNat * 2 ^ bits.length + bitsNat bits := by
  have shift : ∀ (bits : List Bool) (acc : Nat),
      bits.foldl (fun acc b => 2 * acc + b.toNat) acc = acc * 2 ^ bits.length + bitsNat bits := by
    intro bits
    induction bits with
    | nil => intro acc; simp [bitsNat]
    | cons b bits ih =>
      intro acc
      rw [bitsNat, List.foldl_cons, List.foldl_cons, ih, ih (2 * 0 + _), List.length_cons, Nat.pow_succ]
      ring
  rw [bitsNat, List.foldl_cons, shift, Nat.mul_zero, Nat.zero_add]

/-- Bits are those of the number they stand for. -/
theorem natBits_bitsNat (bits : List Bool) : natBits bits.length (bitsNat bits) = bits := by
  induction bits with
  | nil => rfl
  | cons b bits ih =>
    have low := bitsNat_lt bits
    have top : (b.toNat * 2 ^ bits.length + bitsNat bits).testBit bits.length = b := by
      rw [Nat.mul_comm, Nat.testBit_two_pow_mul_add _ low]
      cases b <;> simp
    rw [bitsNat_cons, List.length_cons, natBits, top, ← natBits_mod, Nat.mul_add_mod_self_right, natBits_mod, ih]

/-- Whole bytes of bits come back from their bytes. -/
theorem bytesBits_bitsBytes {bits : List Bool} (whole : bits.length % 8 = 0) : bytesBits (bitsBytes bits) = bits := by
  have eight : 8 * (bits.length / 8) = bits.length := by omega
  have bytes := bytesBits_beBytes (bits.length / 8) (bitsNat bits)
  rw [eight, natBits_bitsNat] at bytes
  conv_lhs => rw [← bytes, bitsBytes_bytesBits]
  exact bytes

/-- A field is its high part and its low part. -/
theorem natBits_fields {m n hi lo : Nat} (fits : lo < 2 ^ n) : natBits (m + n) (hi * 2 ^ n + lo) = natBits m hi ++ natBits n lo := by
  have high : (hi * 2 ^ n + lo) / 2 ^ n = hi := by
    rw [Nat.mul_comm, Nat.mul_add_div (Nat.two_pow_pos n), Nat.div_eq_of_lt fits, Nat.add_zero]
  rw [natBits_add, high, ← natBits_mod n (hi * 2 ^ n + lo), Nat.mul_add_mod_self_right, natBits_mod]

/-! ### The mode an operation needs (R21) -/

/-- `s` with the bits of a structure as its input. -/
def State.handed (s : State) (bits : List Bool) : State :=
  s.reading (bitsBytes (bits ++ List.replicate (alignGap bits.length) false)) 0

theorem presented_error {bits : List Bool} {m : Op α} {e : Stop} (h : m (s.handed bits) = .error e t) :
    presented bits m s = .error e (t.reading s.input s.brPos) := by
  rw [State.handed] at h
  rw [presented, h]

theorem presented_ok {bits : List Bool} {m : Op α} {a : α} (h : m (s.handed bits) = .ok a t) :
    presented bits m s = .ok a (t.reading s.input s.brPos) := by
  rw [State.handed] at h
  rw [presented, h]

/-- A wire structure that an operation of the reading side reads is refused in mode Encode. -/
theorem presented_refused {bits : List Bool} {m : Op Result} (live : s.faulted = false)
    (h : ∀ t, t.mode = s.mode → m t = .error (.exc (.logic .badMode)) t) :
    Raises (issue .read (presented bits m) s) s .read (.logic .badMode) := by
  have refused := presented_error (h (s.handed bits) rfl)
  exact issue_exc live refused

/-- Settles O54: every operation of the list has the check of its mode in front. -/
theorem operationsRefuseTheWrongMode : Obligations.OperationsRefuseTheWrongMode := by
  unfold Obligations.OperationsRefuseTheWrongMode
  intro s live
  refine ⟨fun i reads mode => ?_, fun i mem mode => ?_, fun i mem mode => ?_⟩
  · have refused {x : Unit → Op Result} : Raises (issue .read (notEncode >>= x) s) s .read (.logic .badMode) :=
      raises_first live (notEncode_refused mode)
    have wire {bits : List Bool} {x : Unit → Op Result} :
        Raises (issue .read (presented bits (notEncode >>= x)) s) s .read (.logic .badMode) :=
      presented_refused live fun t same => bind_error (notEncode_refused (same.trans mode))
    have wireIn {bits : List Bool} {β : Type} {x : Unit → Op β} {f : β → Op Result} :
        Raises (issue .read (presented bits ((notEncode >>= x) >>= f)) s) s .read (.logic .badMode) :=
      presented_refused live fun t same => bind_error (bind_error (notEncode_refused (same.trans mode)))
    rcases reads with mem | ⟨c, rfl⟩ | ⟨_, _, _, rfl⟩ | ⟨_, _, _, _, _, _, _, _, _, rfl⟩ | ⟨_, _, _, _, _, _, rfl⟩ |
      ⟨w, rfl | rfl | ⟨o, rfl | rfl⟩⟩ | ⟨m, p, rfl⟩ | ⟨crc, rfl⟩
    · simp only [List.mem_cons, List.not_mem_nil, or_false] at mem
      rcases mem with rfl | rfl | rfl | rfl | rfl | rfl | rfl | rfl | rfl | rfl
      · exact raises_first live (bind_error (notEncode_refused mode))
      · exact raises_first live (bind_error (notEncode_refused mode))
      · exact raises_first live (bind_error (notEncode_refused mode))
      · exact raises_first live (bind_error (notEncode_refused mode))
      · exact raises_first live (bind_error (notEncode_refused mode))
      all_goals exact refused
    · exact refused
    · exact wireIn
    · exact wireIn
    · exact wire
    · exact wireIn
    · exact wireIn
    · exact wireIn
    · exact wireIn
    · exact wire
    · exact refused
  · simp only [List.mem_cons, List.not_mem_nil, or_false] at mem
    have no := needMode_refused (s := s) mode
    rcases mem with rfl | rfl | rfl
    · exact raises_first live (bind_error no)
    · exact raises_first live (bind_error no)
    · exact raises_first live (bind_error no)
  · have no := needMode_refused (s := s) mode
    rcases mem with mem | ⟨n, rfl⟩ | ⟨c, rfl⟩
    · simp only [List.mem_cons, List.not_mem_nil, or_false] at mem
      rcases mem with rfl | rfl | rfl | rfl | rfl
      · exact issue_exc live ((check_bind_true _ _ _ rfl).trans (bind_error (bind_error no)))
      all_goals exact raises_first live (bind_error no)
    · exact raises_first live no
    · exact raises_first live (bind_error no)

/-! ### The fixed part of a frame header -/

theorem skipBits_bind (n : Nat) (g : Unit → Op α) (s : State) :
    (skipBits n >>= g) s = g () { s with brPos := s.brPos + n } := rfl

theorem peekBits_atCursor {n v : Nat} (h1 : 1 ≤ n) (fits : v < 2 ^ n) (h : AtCursor s (natBits n v)) : peekBits n s = .ok v s := by
  have inside := h.inside (List.ne_nil_of_length_pos (by rw [natBits_length]; omega))
  have value := h.memRead
  rw [natBits_length] at inside value
  rw [peekBits, bind_ok (starve_ok inside), look_run, value, bitsNat_natBits, Nat.mod_eq_of_lt fits]

/-- The fixed fields behind the sync code (R227). -/
theorem fhFixed_atCursor {r v b sr ca d e : Nat} (hr : r < 2) (hv : v < 2) (hb : b < 2 ^ 4) (hsr : sr < 2 ^ 4) (hca : ca < 2 ^ 4)
    (hd : d < 2 ^ 3) (he : e < 2) (h : AtCursor s (fixedHeadBits r v b sr ca d e)) :
    fhFixed s = (do check (sr ≠ 15) (.sync .headerReserved); pure ⟨r ||| e, v, b, sr, ca, d⟩ : Op FhFixed)
      { s with brPos := s.brPos + 32 } := by
  simp only [fixedHeadBits, List.append_assoc] at h
  have k1 := h.behind
  have k2 := k1.behind
  have k3 := k2.behind
  have k4 := k3.behind
  have k5 := k4.behind
  have k6 := k5.behind
  have sync : peekBits Config.syncLen s = .ok Config.syncCode s := peekBits_atCursor (n := 14) (by decide) (by decide) h.head
  rw [fhFixed, bind_ok sync, if_neg (not_not.2 rfl), skipBits_bind]
  rw [show Config.syncLen = 14 from rfl, bind_ok (readU_atCursor (show r < 2 ^ 1 from hr) k1.head), bind_ok (readU_atCursor (show v < 2 ^ 1 from hv) k2.head),
    bind_ok (readU_atCursor hb k3.head), bind_ok (readU_atCursor hsr k4.head), bind_ok (readU_atCursor hca k5.head),
    bind_ok (readU_atCursor hd k6.head), bind_ok (readU_atCursor (show e < 2 ^ 1 from he) k6.behind)]

/-! ### Wire structures -/

/-- The bits presented stand at the cursor. -/
theorem handed_atCursor (s : State) (bits : List Bool) : AtCursor (s.handed bits) bits := by
  have whole : (bits ++ List.replicate (alignGap bits.length) false).length % 8 = 0 := by
    rw [List.length_append, List.length_replicate, alignGap]
    omega
  show bits <+: bitsFrom (bitsBytes _) 0
  rw [bitsFrom_eq, bytesBits_bitsBytes whole]
  exact List.prefix_append _ _

section
variable {bits : List Bool} {m : Op Unit} (live : s.faulted = false)
include live

theorem presented_answers (h : m (s.handed bits) = .ok () t) :
    Answers (issue .read (presented bits (do m; pure .none)) s) (t.reading s.input s.brPos) .none :=
  issue_ok live (presented_ok (bind_ok h))

theorem presented_exc {e : Exc} (h : m (s.handed bits) = .error (.exc e) t) :
    issue .read (presented bits (do m; pure .none)) s = .next (s.takeException (t.reading s.input s.brPos) .read e) :=
  issue_exc live (presented_error (bind_error h))

end

/-- Giving the input back leaves nothing of the structure. -/
theorem handed_reading (s : State) (bits : List Bool) : (s.handed bits).reading s.input s.brPos = s := rfl

/-- A metadata block header as fields (R104). -/
theorem mbHeader_bits {last type length : Nat} (h2 : type < 2 ^ 7) (h3 : length < 2 ^ 24) :
    codeBits (encode (.wireMbHeader last type length)) = natBits 1 last ++ natBits 7 type ++ natBits 24 length := by
  rw [← natBits_fields h2, ← natBits_fields h3]
  exact congrArg (natBits 32) (by show last * 2 ^ 31 + type * 2 ^ 24 + length = _; omega)

/-- A StreamInfo body as fields (R106). -/
theorem streamInfo_bits {a b f g r c d t h : Nat} (hb : b < 2 ^ 16) (hf : f < 2 ^ 24) (hg : g < 2 ^ 24) (hr : r < 2 ^ 20)
    (hc : c < 2 ^ 3) (hd : d < 2 ^ 5) (ht : t < 2 ^ 36) (hh : h < 2 ^ 128) :
    codeBits (encode (.wireStreamInfo a b f g r c d t h)) =
      natBits 16 a ++ natBits 16 b ++ natBits 24 f ++ natBits 24 g ++ natBits 20 r ++ natBits 3 c ++ natBits 5 d ++
        natBits 36 t ++ natBits 128 h := by
  rw [← natBits_fields hb, ← natBits_fields hf, ← natBits_fields hg, ← natBits_fields hr, ← natBits_fields hc, ← natBits_fields hd,
    ← natBits_fields ht, ← natBits_fields hh]
  refine congrArg (natBits 272) ?_
  show a * 2 ^ 256 + b * 2 ^ 240 + f * 2 ^ 216 + g * 2 ^ 192 + r * 2 ^ 172 + c * 2 ^ 169 + d * 2 ^ 164 + t * 2 ^ 128 + h = _
  omega

/-- The fixed part of a frame header as fields (R110). -/
theorem frameHeader_bits {r v b sr ca d : Nat} (hr : r < 2) (hv : v < 2) (hb : b < 2 ^ 4) (hsr : sr < 2 ^ 4) (hca : ca < 2 ^ 4)
    (hd : d < 2 ^ 3) : codeBits (encode (.wireFrameHeader r v b sr ca d)) = fixedHeadBits r v b sr ca d 0 := by
  rw [fixedHeadBits, ← natBits_fields (n := 1) hr, ← natBits_fields (n := 1) hv, ← natBits_fields hb, ← natBits_fields hsr,
    ← natBits_fields hca, ← natBits_fields hd, ← natBits_fields (n := 1) (by decide)]
  refine congrArg (natBits 32) ?_
  show 0x3FFE * 2 ^ 18 + r * 2 ^ 17 + v * 2 ^ 16 + b * 2 ^ 12 + sr * 2 ^ 8 + ca * 2 ^ 4 + d * 2 = _
  omega

/-- A header has begun on bits handed over (R424). -/
def State.headBegun (s : State) (bits : List Bool) : State :=
  { s.handed bits with crc8 := Config.crc8.init, fh := { s.fh with valid := false } }

theorem headerStart_bind (s : State) (bits : List Bool) (f : Unit → Op α) :
    (headerStart >>= f) (s.handed bits) = f () (s.headBegun bits) := rfl

section
variable {r v b sr ca d : Nat} (live : s.faulted = false) (mode : s.mode ≠ .encode) (hr : r < 2) (hv : v < 2) (hb : b < 2 ^ 4)
  (hsr : sr < 2 ^ 4) (hca : ca < 2 ^ 4) (hd : d < 2 ^ 3)
include hr hv hb hsr hca hd

theorem headBegun_fhFixed : fhFixed (s.headBegun (fixedHeadBits r v b sr ca d 0)) =
    (do check (sr ≠ 15) (.sync .headerReserved); pure ⟨r, v, b, sr, ca, d⟩ : Op FhFixed)
      { s.headBegun (fixedHeadBits r v b sr ca d 0) with brPos := 32 } := by
  have fixed := fhFixed_atCursor (s := s.headBegun (fixedHeadBits r v b sr ca d 0)) hr hv hb hsr hca hd (show 0 < 2 by decide)
    (handed_atCursor s (fixedHeadBits r v b sr ca d 0))
  rwa [Nat.or_zero] at fixed

include live mode

theorem wireFrameHeader_legal (legal : sr ≠ 15) : Answers (exec (.wireFrameHeader r v b sr ca d) s)
    { s with
      crc8 := 0x00#8
      fh := { s.fh with
        variable_ := some v
        bsCode := some b
        srCode := some sr
        chanAssign := some ca
        bpsCode := some d
        reserved := some r
        valid := false } } .none := by
  have fixed := headBegun_fhFixed (s := s) hr hv hb hsr hca hd
  rw [check_bind_true _ _ _ legal, pure_run] at fixed
  refine issue_ok live (presented_ok (t := { s.headBegun (fixedHeadBits r v b sr ca d 0) with
    brPos := 32
    fh := { s.fh with variable_ := some v, bsCode := some b, srCode := some sr, chanAssign := some ca, bpsCode := some d,
                      reserved := some r, valid := false } }) ?_)
  rw [frameHeader_bits hr hv hb hsr hca hd, notEncode_bind (by exact mode), headerStart_bind]
  exact bind_ok fixed

theorem wireFrameHeader_illegal (illegal : sr = 15) : exec (.wireFrameHeader r v b sr ca d) s = .next (s.takeException
    { s with crc8 := 0x00#8, fh := { s.fh with valid := false } } .read (.sync .headerReserved)) := by
  have fixed := headBegun_fhFixed (s := s) hr hv hb hsr hca hd
  rw [check_bind_false _ _ _ (not_not.2 illegal)] at fixed
  refine issue_exc live (presented_error (t := { s.headBegun (fixedHeadBits r v b sr ca d 0) with brPos := 32 }) ?_)
  rw [frameHeader_bits hr hv hb hsr hca hd, notEncode_bind (by exact mode), headerStart_bind]
  exact bind_error fixed

end

/-- A subframe header byte as fields (R120, R121). -/
theorem subframeByte_bits {t w : Nat} (ht : t < 2 ^ 6) (hw : w < 2) :
    natBits 8 (t * 2 + w) = natBits 1 0 ++ natBits 6 t ++ natBits 1 w := by
  rw [← natBits_fields ht, ← natBits_fields (n := 1) hw]
  exact congrArg (natBits 8) (by omega)

/-- A residual-section header as fields (R130). -/
theorem resHeader_bits {m p : Nat} (hp : p < 2 ^ 4) : codeBits (encode (.wireResHeader m p)) = natBits 2 m ++ natBits 4 p := by
  rw [← natBits_fields hp]
  rfl

/-- A seek point as bytes (R107). -/
theorem seekpoint_bytes {sample offset nsamples : Nat} (ho : offset < 2 ^ 64) (hn : nsamples < 2 ^ 16) :
    bitsBytes (codeBits (encode (.wireSeekpoint sample offset nsamples))) = SeekPoint.bytes ⟨sample, offset, nsamples⟩ := by
  have bits : codeBits (encode (.wireSeekpoint sample offset nsamples)) = bytesBits (SeekPoint.bytes ⟨sample, offset, nsamples⟩) := by
    rw [SeekPoint.bytes, bytesBits_append, bytesBits_append, bytesBits_beBytes, bytesBits_beBytes, bytesBits_beBytes,
      ← natBits_fields (n := 8 * 8) ho, ← natBits_fields (n := 8 * 2) hn]
    refine congrArg (natBits 144) ?_
    show sample * 2 ^ 80 + offset * 2 ^ 16 + nsamples = (sample * 2 ^ (8 * 8) + offset) * 2 ^ (8 * 2) + nsamples
    omega
  rw [bits, bitsBytes_bytesBits]

/-- The header byte of a subframe read (R251): its type, and no wasted bits where the flag is 0. -/
theorem readSubframeByte_atCursor {t w : Nat} (mode : s.mode ≠ .encode) (ht : t < 2 ^ 6) (hw : w < 2)
    (h : AtCursor s (natBits 8 (t * 2 + w))) :
    readSubframeByte s = (do
      let _ ← setSfType t
      if w = 0 then update fun s => { s with sf := { s.sf with wasted := some 0 } } else pure () : Op Unit)
      { s with brPos := s.brPos + 8 } := by
  rw [subframeByte_bits ht hw, List.append_assoc] at h
  have typeAt := h.behind
  rw [readSubframeByte, notEncode_bind mode, sfHeader]
  simp only [seq_assoc]
  rw [bind_ok (readU_atCursor (by decide) h.head), check_bind_true _ _ _ rfl, bind_ok (readU_atCursor ht typeAt.head),
    bind_ok (readU_atCursor (show w < 2 ^ 1 from hw) typeAt.behind), pure_bind_run]

section
variable {o t w : Nat} {type : SfType} (live : s.faulted = false) (mode : s.mode ≠ .encode) (ht : t < 2 ^ 6) (hw : w < 2)
include live mode ht hw

/-- A subframe header byte handed over. -/
theorem subframeByte_answers (known : sfTypeOf t = some (type, o)) :
    Answers (issue .read (presented (natBits 8 (t * 2 + w)) (do readSubframeByte; pure .none)) s)
      { s with sf := { s.sf with
          type := some type, order := some o, wasted := if w = 0 then some 0 else s.sf.wasted } } .none := by
  have head := readSubframeByte_atCursor (s := s.handed (natBits 8 (t * 2 + w))) mode ht hw (handed_atCursor s _)
  rw [bind_ok (setSfType_ok known)] at head
  by_cases w0 : w = 0
  · rw [if_pos w0] at head ⊢
    exact presented_answers live head
  · rw [if_neg w0] at head ⊢
    exact presented_answers live head

theorem subframeByte_reserved (reserved : 13 ≤ t ∧ t ≤ 31) :
    Raises (issue .read (presented (natBits 8 (t * 2 + w)) (do readSubframeByte; pure .none)) s) s .read
      (.sync .subframeReserved) := by
  have head := readSubframeByte_atCursor (s := s.handed (natBits 8 (t * 2 + w))) mode ht hw (handed_atCursor s _)
  rw [bind_error (setSfType_reserved (.inr reserved))] at head
  have raised := presented_exc live head
  exact raised

end

section
variable {n o m p : Nat} (live : s.faulted = false) (mode : s.mode ≠ .encode) (hn : s.fh.blocksize = some n)
  (ho : s.sf.order = some o)
include live mode hn ho

theorem wireResHeader_valid (hp : p < 2 ^ 4) (h2 : m < 2) (h8 : p ≤ 8) (whole : n % 2 ^ p = 0) (room : o ≤ n / 2 ^ p) :
    Answers (exec (.wireResHeader m p) s) { s with rc := { s.rc with method := some m, porder := some p } } .none := by
  have bits := handed_atCursor s (natBits 2 m ++ natBits 4 p)
  refine issue_ok live (presented_ok (t := { s.handed (natBits 2 m ++ natBits 4 p) with
    brPos := 0 + 2 + 4, rc := { s.rc with method := some m, porder := some p } }) ?_)
  rw [resHeader_bits hp, notEncode_bind (by exact mode), bind_ok (blockGeometry_ok (by exact hn) (by exact ho))]
  simp only [readResHeader, seq_assoc]
  rw [bind_ok (readU_atCursor (show m < 2 ^ 2 by omega) bits.head), check_bind_true _ _ _ (by exact h2),
    bind_ok (readU_atCursor hp bits.behind), check_bind_true _ _ _ (by exact ⟨h8, whole, room⟩)]
  rfl

theorem wireResHeader_invalid (hm : m < 2 ^ 2) (hp : p < 2 ^ 4) (bad : 2 ≤ m ∨ 8 < p ∨ n % 2 ^ p ≠ 0 ∨ n / 2 ^ p < o) :
    Raises (exec (.wireResHeader m p) s) s .read (.sync .badResidual) := by
  have bits := handed_atCursor s (natBits 2 m ++ natBits 4 p)
  have refused : ∃ k, readResHeader n o (s.handed (natBits 2 m ++ natBits 4 p)) =
      .error (.exc (.sync .badResidual)) { s.handed (natBits 2 m ++ natBits 4 p) with brPos := k } := by
    rcases Nat.lt_or_ge m 2 with small | big
    · exact ⟨_, readResHeader_porder small hp (bad.resolve_left (Nat.not_le.2 small)) bits⟩
    · exact ⟨_, readResHeader_method big hm bits.head⟩
  obtain ⟨k, refused⟩ := refused
  refine issue_exc live (t := s) (presented_error (t := { s.handed (natBits 2 m ++ natBits 4 p) with brPos := k }) ?_)
  rw [resHeader_bits hp, notEncode_bind (by exact mode), bind_ok (blockGeometry_ok (by exact hn) (by exact ho))]
  exact bind_error refused

end

theorem checkFooter_run (start stop crc : Nat) : checkFooter start stop crc s =
    if (crc16Of ((s.input.drop start).take (stop - start))).toNat = crc then
      .ok () { s with crc16 := crc16Of ((s.input.drop start).take (stop - start)) }
    else .error (.exc (.sync .frameCrc16))
      ({ s with crc16 := crc16Of ((s.input.drop start).take (stop - start)) }.setFlag .crc16Err) := by
  rw [checkFooter, update_bind, look_bind]
  by_cases same : (crc16Of ((s.input.drop start).take (stop - start))).toNat = crc
  · rw [if_pos same]
    exact if_neg (not_not.2 same) ▸ rfl
  · rw [if_neg same]
    exact if_pos same ▸ rfl

/-- Settles O53: each structure as its fields, read by the rule that reads it. -/
theorem wireStructures : Obligations.WireStructures := by
  unfold Obligations.WireStructures
  refine ⟨fun s live => ⟨fun last type length h1 h2 h3 => ⟨fun mode counted => ?_, fun mode => ?_⟩,
    fun minBs maxBs minFs maxFs rate ch bps total md5 w1 w2 w3 w4 w5 w6 w7 w8 w9 mode => ?_, fun sample offset nsamples hs ho hn => ?_⟩,
    fun s live mode => ⟨fun r v b sr ca d hr hv hb hsr hca hd => ?_, fun w hw => ?_, fun n o m p hn ho hm hp => ?_,
      fun start crc sum hstart hcrc value => ?_⟩⟩
  · have bits := handed_atCursor s (codeBits (encode (.wireMbHeader last type length)))
    rw [mbHeader_bits h2 h3] at bits
    have run := presented_ok (m := (do let _ ← mbhRead; pure Result.none))
      (bind_ok (mbhRead_atCursor (by exact mode) rfl h1 h2 h3 (by exact counted) bits))
    rw [← mbHeader_bits h2 h3] at run
    exact issue_ok live run
  · exact presented_refused live fun t same => bind_error (bind_error (notEncode_refused (same.trans mode)))
  · obtain ⟨si, hsi⟩ : ∃ si : StreamInfo, si = ⟨minBs, maxBs, minFs, maxFs, rate, ch + 1, bps + 1, total, BitVec.ofNat 128 md5⟩ :=
      ⟨_, rfl⟩
    have fits : si.InWidth := by
      rw [hsi]
      refine ⟨w1, w2, w3, w4, w5, ?_, ?_, ?_, ?_, w8⟩ <;> dsimp only <;> omega
    have fields : codeBits (encode (.wireStreamInfo minBs maxBs minFs maxFs rate ch bps total md5)) = si.bits := by
      rw [streamInfo_bits w2 w3 w4 w5 w6 w7 w8 w9, hsi, StreamInfo.bits, BitVec.toNat_ofNat, Nat.mod_eq_of_lt w9,
        Nat.add_sub_cancel, Nat.add_sub_cancel]
    have bits := handed_atCursor s si.bits
    show (_ → Answers (issue .read (presented (codeBits (encode _)) (do siRead; pure .none)) s) _ _) ∧
      (_ → Raises (issue .read (presented (codeBits (encode _)) (do siRead; pure .none)) s) s _ _)
    rw [fields, ← hsi]
    refine ⟨fun first => ?_, fun valid => ?_⟩
    · have read := siRead_atCursor (s := s.handed si.bits) mode rfl first fits bits
      exact presented_answers live read
    · have raised := presented_exc live (siRead_duplicate (s := s.handed si.bits) mode rfl valid)
      rwa [handed_reading] at raised
  · have table : seekTable (SeekPoint.bytes ⟨sample, offset, nsamples⟩) =
        if sample = 2 ^ 64 - 1 then [] else [⟨sample, offset, nsamples⟩] := by
      have one := seekTable_bytes (all := [⟨sample, offset, nsamples⟩]) (by simpa using ⟨hs, ho, hn⟩)
      rw [List.flatMap_singleton] at one
      rw [one]
      by_cases placeholder : sample = 2 ^ 64 - 1
      · rw [if_pos placeholder, List.filter_cons_of_neg (by simpa using placeholder)]
        rfl
      · rw [if_neg placeholder, List.filter_cons_of_pos (by simpa using placeholder)]
        rfl
    refine issue_ok live ?_
    rw [seekpoint_bytes ho hn, seekLoad, seq_assoc, update_bind, pure_bind_run, pure_run, table]
  · exact ⟨wireFrameHeader_legal live mode hr hv hb hsr hca hd, fun h => wireFrameHeader_illegal live mode hr hv hb hsr hca hd h⟩
  · refine ⟨?_, ?_, fun o h => ?_, fun o h1 h2 => ?_, fun o h => ?_⟩
    · have run := subframeByte_answers (t := 0) (w := w) live mode (by decide) hw rfl
      rw [Nat.zero_mul, Nat.zero_add] at run
      exact run
    · exact subframeByte_answers (t := 1) (w := w) live mode (by decide) hw rfl
    · have run := subframeByte_answers (t := 8 + o) (o := o) (type := .fixed) live mode (by omega) hw
        (by rw [sfTypeOf, if_neg (by omega), if_neg (by omega), if_pos (by omega), Nat.add_sub_cancel_left])
      rw [show (8 + o) * 2 + w = 16 + o * 2 + w by omega] at run
      exact run
    · have run := subframeByte_reserved (t := 8 + o) live mode (by omega) hw (by omega)
      rw [show (8 + o) * 2 + w = 16 + o * 2 + w by omega] at run
      exact run
    · have run := subframeByte_answers (t := 32 + o) (o := o + 1) (type := .lpc) live mode (by omega) hw
        (by rw [sfTypeOf, if_neg (by omega), if_neg (by omega), if_neg (by omega), if_pos (by omega),
          show 32 + o - 31 = o + 1 by omega])
      rw [show (32 + o) * 2 + w = 64 + o * 2 + w by omega] at run
      exact run
  · exact ⟨wireResHeader_valid live mode hn ho hp, wireResHeader_invalid live mode hn ho hm hp⟩
  · rw [value]
    have footer := checkFooter_run (s := s) start (s.brPos / 8) crc
    refine ⟨fun same => ?_, fun other => ?_⟩
    · rw [if_pos same] at footer
      refine issue_ok live ((notEncode_bind mode).trans ((bind_ok (readReg_some hstart)).trans ?_))
      exact (look_bind _ _ _).trans (bind_ok footer)
    · rw [if_neg other] at footer
      refine issue_exc live ((notEncode_bind mode).trans ((bind_ok (readReg_some hstart)).trans ?_))
      exact (look_bind _ _ _).trans (bind_error footer)

end Sys2Proof.Machine

/-! PROOFS. Coded numbers and the codes of a frame header, read back (30_encoding.md R116, 43_frame_model.md R227 to R229). -/

namespace Sys2Proof.Machine

variable {α β : Type} {s t : State}

/-! ### Bytes as fields -/

theorem bytesBits_cons (b : Byte) (bs : List Byte) : bytesBits (b :: bs) = natBits 8 b.toNat ++ bytesBits bs := rfl

theorem readByte_atCursor {b : Byte} {bs : List Byte} (h : AtCursor s (bytesBits (b :: bs))) :
    readBits 8 s = .ok b.toNat { s with brPos := s.brPos + 8 } := by
  rw [bytesBits_cons] at h
  rw [readBits_atCursor (by decide) h.head, Nat.mod_eq_of_lt b.isLt]

theorem AtCursor.behindByte {b : Byte} {bs : List Byte} (h : AtCursor s (bytesBits (b :: bs))) :
    AtCursor { s with brPos := s.brPos + 8 } (bytesBits bs) := h.behind

/-! ### The coded number (R116, R168) -/

@[simp] theorem codedTail_length (n v : Nat) : (codedTail n v).length = n := by
  induction n with
  | zero => rfl
  | succ n ih => rw [codedTail, List.length_cons, ih]

/-- The continuation bytes carry the low part of the number. -/
theorem readCodedTail_atCursor (v : Nat) : ∀ (n acc : Nat) (s : State), AtCursor s (bytesBits (codedTail n v)) →
    readCodedTail n acc s = .ok (acc * 64 ^ n + v % 64 ^ n) { s with brPos := s.brPos + 8 * n }
  | 0, acc, s, _ => by simp [readCodedTail, Nat.mod_one]
  | n + 1, acc, s, h => by
    have value : (BitVec.ofNat 8 (0x80 + v / 2 ^ (6 * n) % 64)).toNat = 128 + v / 64 ^ n % 64 := by
      rw [BitVec.toNat_ofNat, Nat.pow_mul, show 2 ^ 6 = 64 from rfl]
      omega
    have rest := readCodedTail_atCursor v n (acc * 64 + v / 64 ^ n % 64) _ h.behindByte
    have low : (128 + v / 64 ^ n % 64) % 64 = v / 64 ^ n % 64 := by omega
    have total : (acc * 64 + v / 64 ^ n % 64) * 64 ^ n + v % 64 ^ n = acc * 64 ^ (n + 1) + v % 64 ^ (n + 1) := by
      rw [Nat.pow_succ, Nat.mod_mul]
      ring
    rw [readCodedTail, bind_ok (readByte_atCursor h), value, check_bind_true _ _ _ (by omega), low, rest, total]
    simp only [Nat.add_assoc, Nat.mul_succ, Nat.add_comm 8]

/-- The leading ones of a first byte say how many bytes follow. -/
theorem leadOnes_first : ∀ len < 8, 2 ≤ len → ∀ hi < 2 ^ (7 - len),
    leadOnes (BitVec.ofNat 8 (0xFF * 2 ^ (8 - len) % 256 + hi)) = len ∧
      (0xFF * 2 ^ (8 - len) % 256 + hi) % 256 % 2 ^ (7 - len) = hi := by decide

theorem leadOnes_single : ∀ v ≤ 0x7F, leadOnes (BitVec.ofNat 8 v) = 0 := by decide

/-- The length of the coded form leaves a high part that fits its first byte. -/
theorem codedLength_cases {v : Nat} (fits : v < 2 ^ 36) : (v ≤ 0x7F ∧ codedLength v = 1) ∨
    (2 ≤ codedLength v ∧ codedLength v < 8 ∧ v / 2 ^ (6 * (codedLength v - 1)) < 2 ^ (7 - codedLength v)) := by
  unfold codedLength
  split_ifs
  · exact .inl ⟨by assumption, rfl⟩
  all_goals exact .inr ⟨by decide, by decide, by simp only [Nat.reduceMul, Nat.reduceSub, Nat.reducePow]; omega⟩

theorem codedBytes_length {v : Nat} : (codedBytes v).length = codedLength v := by
  have pos : 1 ≤ codedLength v := by unfold codedLength; split_ifs <;> decide
  unfold codedBytes
  dsimp only
  split
  next one => rw [one]; rfl
  next => rw [List.length_cons, codedTail_length]; omega

/-- A coded number reads back within a limit on its length (R168). -/
theorem readCodedBytes_atCursor {v limit : Nat} (fits : v < 2 ^ 36) (short : codedLength v ≤ limit)
    (h : AtCursor s (bytesBits (codedBytes v))) :
    readCodedBytes limit s = .ok v { s with brPos := s.brPos + 8 * (codedBytes v).length } := by
  rw [codedBytes_length]
  rcases codedLength_cases fits with ⟨small, one⟩ | ⟨two, eight, high⟩
  · rw [codedBytes, if_pos one] at h
    have value : (BitVec.ofNat 8 v).toNat = v := by rw [BitVec.toNat_ofNat]; omega
    have byte := readByte_atCursor h
    rw [value] at byte
    rw [readCodedBytes, bind_ok byte, leadOnes_single v small, if_pos rfl, one]
    rfl
  · generalize hlen : codedLength v = len at *
    rw [codedBytes, hlen, if_neg (show ¬ len = 1 by omega)] at h
    obtain ⟨lead, part⟩ := leadOnes_first len eight two _ high
    have byte := readByte_atCursor h
    have tail := readCodedTail_atCursor v (len - 1) (v / 2 ^ (6 * (len - 1))) _ h.behindByte
    have total : v / 2 ^ (6 * (len - 1)) * 64 ^ (len - 1) + v % 64 ^ (len - 1) = v := by
      rw [Nat.pow_mul]
      exact Nat.div_add_mod' v _
    rw [BitVec.toNat_ofNat] at byte
    rw [readCodedBytes, bind_ok byte]
    rw [← BitVec.toNat_ofNat, BitVec.ofNat_toNat, BitVec.setWidth_eq, BitVec.toNat_ofNat, lead, if_neg (by omega), check_bind_true _ _ _ (by omega), part, tail, total]
    simp only [Nat.add_assoc, show 8 + 8 * (len - 1) = 8 * len by omega]

/-! ### The codes of a header (R228, R229) -/

/-- The block-size code stands for the block size, or names the field that holds it. -/
theorem bsCodeFor_cases {bs : Nat} (h1 : 1 ≤ bs) (h2 : bs ≤ 65535) :
    (∃ c, bsCodeFor bs = ⟨c, 0, 0⟩ ∧ c ≠ 6 ∧ c ≠ 7 ∧ c < 16 ∧ blocksizeOfCode c = some bs) ∨
      (bsCodeFor bs = ⟨6, 8, bs - 1⟩ ∧ bs ≤ 256) ∨ bsCodeFor bs = ⟨7, 16, bs - 1⟩ := by
  unfold bsCodeFor
  split
  case h_14 =>
    split
    next small => exact .inr (.inl ⟨rfl, small⟩)
    next => exact .inr (.inr rfl)
  all_goals exact .inl ⟨_, rfl, by decide, by decide, by decide, by decide⟩

theorem fhBlocksize_atCursor {bs : Nat} (h1 : 1 ≤ bs) (h2 : bs ≤ 65535)
    (h : AtCursor s (natBits (bsCodeFor bs).width (bsCodeFor bs).value)) :
    fhBlocksize (bsCodeFor bs).code s = .ok (some bs) { s with brPos := s.brPos + (bsCodeFor bs).width } := by
  rcases bsCodeFor_cases h1 h2 with ⟨c, e, n6, n7, _, value⟩ | ⟨e, small⟩ | e
  · rw [e, fhBlocksize, if_neg n6, if_neg n7, value]
    rfl
  · rw [e] at h ⊢
    rw [fhBlocksize, if_pos rfl, bind_ok (readU_atCursor (show bs - 1 < 2 ^ 8 by omega) h), Nat.sub_add_cancel h1]
    rfl
  · rw [e] at h ⊢
    rw [fhBlocksize, if_neg (show ¬ 7 = 6 by decide), if_pos rfl, bind_ok (readU_atCursor (show bs - 1 < 2 ^ 16 by omega) h),
      Nat.sub_add_cancel h1]
    rfl

/-- The code of an enumerated rate stands for it. -/
theorem enumeratedRate_some {sr c : Nat} (h : enumeratedRate sr = some c) : 1 ≤ c ∧ c ≤ 11 ∧ sampleRateOfCode c = some sr := by
  unfold enumeratedRate at h
  split at h
  case h_12 => cases h
  all_goals cases h; decide

/-- The sample-rate code stands for the rate, names the field that holds it, or leaves it to the StreamInfo. -/
theorem srCodeFor_cases (sr : Nat) :
    (∃ c, srCodeFor sr = ⟨c, 0, 0⟩ ∧ 1 ≤ c ∧ c ≤ 11 ∧ sampleRateOfCode c = some sr) ∨
      (srCodeFor sr = ⟨12, 8, sr / 1000⟩ ∧ sr % 1000 = 0 ∧ sr / 1000 < 256) ∨ (srCodeFor sr = ⟨13, 16, sr⟩ ∧ sr < 65536) ∨
      (srCodeFor sr = ⟨14, 16, sr / 10⟩ ∧ sr % 10 = 0 ∧ sr / 10 < 65536) ∨ srCodeFor sr = ⟨0, 0, 0⟩ := by
  unfold srCodeFor
  split
  next c known => exact .inl ⟨c, rfl, enumeratedRate_some known⟩
  next =>
    split_ifs with k h d
    · exact .inr (.inl ⟨rfl, k⟩)
    · exact .inr (.inr (.inl ⟨rfl, h⟩))
    · exact .inr (.inr (.inr (.inl ⟨rfl, d⟩)))
    · exact .inr (.inr (.inr (.inr rfl)))

theorem fhSampleRate_atCursor {sr : Nat}
    (known : (srCodeFor sr).code = 0 → s.siValid = true ∧ ∃ si, s.si = some si ∧ si.sampleRate = sr)
    (h : AtCursor s (natBits (srCodeFor sr).width (srCodeFor sr).value)) :
    fhSampleRate (srCodeFor sr).code s = .ok sr { s with brPos := s.brPos + (srCodeFor sr).width } := by
  rcases srCodeFor_cases sr with ⟨c, e, c1, c11, value⟩ | ⟨e, whole, small⟩ | ⟨e, small⟩ | ⟨e, whole, small⟩ | e
  · rw [e, fhSampleRate, if_neg (show ¬ c = 12 by omega), if_neg (show ¬ c = 13 by omega), if_neg (show ¬ c = 14 by omega),
      if_neg (show ¬ c = 0 by omega), value]
    rfl
  · rw [e] at h ⊢
    rw [fhSampleRate, if_pos rfl, bind_ok (readU_atCursor (show sr / 1000 < 2 ^ 8 from small) h), Nat.div_mul_cancel (Nat.dvd_of_mod_eq_zero whole)]
    rfl
  · rw [e] at h ⊢
    rw [fhSampleRate, if_neg (show ¬ 13 = 12 by decide), if_pos rfl, readU_atCursor (show sr < 2 ^ 16 from small) h]
  · rw [e] at h ⊢
    rw [fhSampleRate, if_neg (show ¬ 14 = 12 by decide), if_neg (show ¬ 14 = 13 by decide), if_pos rfl,
      bind_ok (readU_atCursor (show sr / 10 < 2 ^ 16 from small) h), Nat.div_mul_cancel (Nat.dvd_of_mod_eq_zero whole)]
    rfl
  · rw [e] at known ⊢
    obtain ⟨valid, si, hsi, rate⟩ := known rfl
    rw [fhSampleRate, if_neg (by decide), if_neg (by decide), if_neg (by decide), if_pos rfl, bind_ok (validStreamInfo_ok valid hsi),
      pure_run, rate]
    rfl

/-! ### The bits of a header -/

namespace FrameHead

variable {h : FrameHead}

/-- The header up to the coded number (R110). -/
def fixedBits (h : FrameHead) : List Bool :=
  fixedHeadBits 0 h.variable_ (bsCodeFor h.blocksize).code (srCodeFor h.sampleRate).code h.chanAssign (bpsCodeFor h.bps) 0

theorem codeWidths (w : h.Writable) :
    ((bsCodeFor h.blocksize).width = 0 ∨ (bsCodeFor h.blocksize).width = 8 ∨ (bsCodeFor h.blocksize).width = 16) ∧
      ((srCodeFor h.sampleRate).width = 0 ∨ (srCodeFor h.sampleRate).width = 8 ∨ (srCodeFor h.sampleRate).width = 16) := by
  obtain ⟨_, _, b1, b2, _⟩ := w
  constructor
  · rcases bsCodeFor_cases b1 b2 with ⟨c, e, _⟩ | ⟨e, _⟩ | e <;> rw [e] <;> simp
  · rcases srCodeFor_cases h.sampleRate with ⟨c, e, _⟩ | ⟨e, _⟩ | ⟨e, _⟩ | ⟨e, _⟩ | e <;> rw [e] <;> simp

/-- The codes fit their fields. -/
theorem codes_lt (w : h.Writable) : (bsCodeFor h.blocksize).code < 2 ^ 4 ∧ (srCodeFor h.sampleRate).code < 15 ∧
    bpsCodeFor h.bps < 2 ^ 3 := by
  obtain ⟨_, _, b1, b2, _⟩ := w
  refine ⟨?_, ?_, ?_⟩
  · rcases bsCodeFor_cases b1 b2 with ⟨c, e, _, _, lt, _⟩ | ⟨e, _⟩ | e <;> rw [e]
    · exact lt
    · exact (by decide : 6 < 16)
    · exact (by decide : 7 < 16)
  · rcases srCodeFor_cases h.sampleRate with ⟨c, e, _, le, _⟩ | ⟨e, _⟩ | ⟨e, _⟩ | ⟨e, _⟩ | e <;> rw [e] <;> dsimp only <;> omega
  · unfold bpsCodeFor
    split <;> decide

theorem number_lt (w : h.Writable) : h.number < 2 ^ 36 := by
  obtain ⟨_, small, _⟩ := w
  split at small <;> omega

/-- The number's coded form is within the limit of its kind (R227). -/
theorem codedLength_le (w : h.Writable) : codedLength h.number ≤ if h.variable_ = 0 then 6 else 7 := by
  obtain ⟨_, small, _⟩ := w
  unfold codedLength
  split_ifs at small ⊢ <;> omega

/-- The header before its CRC-8, as fields. -/
theorem body_bits (w : h.Writable) : bytesBits h.body = h.fixedBits ++ (bytesBits (codedBytes h.number) ++
    (natBits (bsCodeFor h.blocksize).width (bsCodeFor h.blocksize).value ++
      natBits (srCodeFor h.sampleRate).width (srCodeFor h.sampleRate).value)) := by
  obtain ⟨wb, ws⟩ := codeWidths w
  rw [body, bytesBits_append, bytesBits_append, bytesBits_append, bytesBits_bitsBytes (by simp only [List.length_append, natBits_length]),
    bytesBits_bitsBytes (by rw [natBits_length]; omega), bytesBits_bitsBytes (by rw [natBits_length]; omega)]
  simp only [fixedBits, fixedHeadBits, List.append_assoc]

theorem fixedBits_length : h.fixedBits.length = 32 := by
  simp only [fixedBits, fixedHeadBits, List.length_append, natBits_length]

theorem body_length (w : h.Writable) : 32 + (8 * (codedBytes h.number).length + ((bsCodeFor h.blocksize).width +
    (srCodeFor h.sampleRate).width)) = 8 * h.body.length := by
  rw [← bytesBits_length h.body, body_bits w]
  simp only [List.length_append, natBits_length, bytesBits_length, fixedBits_length]

theorem bytes_length : h.bytes.length = h.body.length + 1 := by simp [bytes]

end FrameHead

/-! ### Writing a header (R236) -/

/-- The registers once a header is written. -/
def State.headWritten (s : State) (h : FrameHead) : State :=
  { s with
    out := s.out ++ bytesBits h.bytes
    crc8 := crc8Of h.body
    fh := { s.fh with
      start := some (s.out.length / 8)
      crc8 := some (crc8Of h.body)
      bsCode := some (bsCodeFor h.blocksize).code
      srCode := some (srCodeFor h.sampleRate).code
      bpsCode := some (bpsCodeFor h.bps)
      valid := true } }

theorem writeU_zero_or_appendOut {n v : Nat} (h : n = 0 ∨ v < 2 ^ n) (s : State) :
    writeU n v s = .ok () (s.appendOut (natBits n v)) := by
  by_cases n0 : n = 0
  · subst n0
    rw [writeU, if_pos rfl]
    simp [State.appendOut, natBits]
  · exact writeU_appendOut (by omega) (h.resolve_left n0) s

theorem writeCoded_ok {v : Nat} (aligned : s.out.length % 8 = 0) (fits : v < 2 ^ 36) :
    writeCoded v s = .ok () (s.appendOut (bytesBits (codedBytes v))) := by
  rw [writeCoded, bind_ok (writeAligned_ok aligned), check_bind_true _ _ _ fits, emit_appendOut]

theorem appendOut_length (s : State) (bits : List Bool) : (s.appendOut bits).out.length = s.out.length + bits.length :=
  List.length_append

section
variable {h : FrameHead} (head : HeadIs s h) (aligned : s.out.length % 8 = 0)
include head aligned

theorem fhWrite_ok (w : h.Writable) : fhWrite s = .ok () (s.headWritten h) := by
  obtain ⟨hvar, hnum, hbs, hsr, hca, hbps⟩ := head
  have ⟨v2, small, b1, b2, srFits, ca10, _⟩ := w
  obtain ⟨bsc, src, bpc⟩ := FrameHead.codes_lt w
  have bsValue : (bsCodeFor h.blocksize).width = 0 ∨ (bsCodeFor h.blocksize).value < 2 ^ (bsCodeFor h.blocksize).width := by
    rcases bsCodeFor_cases b1 b2 with ⟨c, e, _⟩ | ⟨e, _⟩ | e <;> rw [e]
    · exact .inl rfl
    · exact .inr (show h.blocksize - 1 < 256 by omega)
    · exact .inr (show h.blocksize - 1 < 65536 by omega)
  have srValue : (srCodeFor h.sampleRate).width = 0 ∨ (srCodeFor h.sampleRate).value < 2 ^ (srCodeFor h.sampleRate).width := by
    rcases srCodeFor_cases h.sampleRate with ⟨c, e, _⟩ | ⟨e, _, lt⟩ | ⟨e, lt⟩ | ⟨e, _, lt⟩ | e <;> rw [e]
    · exact .inl rfl
    · exact .inr lt
    · exact .inr lt
    · exact .inr lt
    · exact .inl rfl
  obtain ⟨u, hu⟩ : ∃ u : State, u = { s with fh := { s.fh with start := some (s.out.length / 8) } } := ⟨_, rfl⟩
  have outU : u.out = s.out := by rw [hu]
  have fixedAligned : ((u.appendOut h.fixedBits).out.length) % 8 = 0 := by
    rw [appendOut_length, FrameHead.fixedBits_length, outU]
    omega
  have whole : (u.appendOut (bytesBits h.body)).outBytes (s.out.length / 8) = h.body := by
    have start : 8 * (s.out.length / 8) = u.out.length := by rw [outU]; omega
    rw [State.outBytes, start]
    exact (congrArg bitsBytes List.drop_left).trans (bitsBytes_bytesBits _)
  rw [fhWrite, bind_ok (writeAligned_ok aligned), bind_ok (readReg_some hbs), check_bind_true _ _ _ (by exact ⟨b1, b2⟩),
    bind_ok (readReg_some hca), check_bind_true _ _ _ ca10, bind_ok (readReg_some hnum), bind_ok (readReg_some hvar),
    check_bind_true _ _ _ small, bind_ok (readReg_some hsr), bind_ok (readReg_some hbps), look_bind, update_bind, ← hu]
  rw [bind_ok (writeU_appendOut (by decide) (show Config.syncCode < 2 ^ Config.syncLen by decide) _),
    bind_ok (writeU_appendOut (by decide) (show 0 < 2 ^ 1 by decide) _),
    bind_ok (writeU_appendOut (by decide) (show h.variable_ < 2 ^ 1 from v2) _),
    bind_ok (writeU_appendOut (by decide) bsc _), bind_ok (writeU_appendOut (by decide) (show _ < 2 ^ 4 by omega) _),
    bind_ok (writeU_appendOut (by decide) (show _ < 2 ^ 4 by omega) _), bind_ok (writeU_appendOut (by decide) bpc _),
    bind_ok (writeU_appendOut (by decide) (show 0 < 2 ^ 1 by decide) _)]
  simp only [State.appendOut_appendOut]
  have fields : bytesBits h.body = h.fixedBits ++ bytesBits (codedBytes h.number) ++
      natBits (bsCodeFor h.blocksize).width (bsCodeFor h.blocksize).value ++
      natBits (srCodeFor h.sampleRate).width (srCodeFor h.sampleRate).value := by
    rw [FrameHead.body_bits w]
    simp only [List.append_assoc]
  refine (bind_ok (writeCoded_ok fixedAligned (FrameHead.number_lt w))).trans ?_
  rw [bind_ok (writeU_zero_or_appendOut bsValue _), bind_ok (writeU_zero_or_appendOut srValue _)]
  simp only [State.appendOut_appendOut]
  rw [← fields, update_bind, look_bind, whole]
  refine (bind_ok (writeU_appendOut (by decide) (crc8Of h.body).isLt _)).trans ?_
  rw [update_run, hu]
  simp only [State.appendOut, State.headWritten, FrameHead.bytes, bytesBits_append, List.append_assoc]
  rfl

end

end Sys2Proof.Machine

/-! PROOFS. `FH_WRITE` and `FH_PARSE` issued by the host (43_frame_model.md R227, R230, R236). -/

namespace Sys2Proof.Machine

variable {α β : Type} {s t : State}

/-! ### What `FH_WRITE` refuses -/

theorem fhWrite_outOfRange {h : FrameHead} (head : HeadIs s h) (aligned : s.out.length % 8 = 0)
    (bad : h.blocksize = 0 ∨ 65535 < h.blocksize ∨ 10 < h.chanAssign ∨ (h.variable_ = 0 ∧ 2 ^ 31 ≤ h.number) ∨ 2 ^ 36 ≤ h.number) :
    fhWrite s = .error (.exc (.logic .valueOutOfRange)) s := by
  obtain ⟨hvar, hnum, hbs, hsr, hca, hbps⟩ := head
  rw [fhWrite, bind_ok (writeAligned_ok aligned), bind_ok (readReg_some hbs)]
  by_cases size : 1 ≤ h.blocksize ∧ h.blocksize ≤ 65535
  · rw [check_bind_true _ _ _ (by exact size), bind_ok (readReg_some hca)]
    by_cases ca : h.chanAssign ≤ 10
    · have number : ¬ h.number < if h.variable_ = 0 then 2 ^ 31 else 2 ^ 36 := by split <;> omega
      rw [check_bind_true _ _ _ ca, bind_ok (readReg_some hnum), bind_ok (readReg_some hvar), check_bind_false _ _ _ number]
    · rw [check_bind_false _ _ _ ca]
  · rw [check_bind_false _ _ _ (by exact size)]

/-! ### `FH_PARSE` behind the fixed fields -/

/-- A header has begun (R227, R424). -/
def State.begun (s : State) : State := { s with crc8 := 0x00#8, fh := { s.fh with valid := false } }

/-- The number, the fields of the codes and the CRC-8 of a header that starts at byte `start`. -/
def fhRest (start : Nat) (h : FhFixed) : Op Unit := do
  let num ← readCodedBytes (if h.variable_ = 0 then 6 else 7)
  let bs ← fhBlocksize h.bsCode
  let sr ← fhSampleRate h.srCode
  let stop ← look fun s => s.brPos / 8
  let crc ← readU 8
  update fun s =>
    { s with
      crc8 := crc8Of ((s.input.drop start).take (stop - start))
      fh := { s.fh with crc8 := some (BitVec.ofNat 8 crc) } }
  let sum ← look State.crc8
  if sum.toNat ≠ crc then do
    update fun s => s.setFlag .crc8Err
    raise (.sync .headerCrc8)
  else
    update fun s =>
      { s with fh := { s.fh with
          start := some start
          variable_ := some h.variable_
          bsCode := some h.bsCode
          srCode := some h.srCode
          chanAssign := some h.chanAssign
          bpsCode := some h.bpsCode
          number := some num
          blocksize := bs
          sampleRate := some sr
          reserved := some h.reserved } }

theorem fhParse_run (mode : s.mode ≠ .encode) (aligned : s.brPos % 8 = 0) :
    fhParse s = (fhFixed >>= fhRest (s.brPos / 8)) s.begun := by
  rw [fhParse, notEncode_bind mode, bind_ok (readAligned_ok aligned)]
  rfl

/-! ### A header that `FH_WRITE` wrote, read back -/

/-- The registers once a header is read. -/
def State.headRead (s : State) (h : FrameHead) : State :=
  { s with
    brPos := s.brPos + 8 * h.bytes.length
    crc8 := crc8Of h.body
    fh := { s.fh with
      start := some (s.brPos / 8)
      variable_ := some h.variable_
      bsCode := some (bsCodeFor h.blocksize).code
      srCode := some (srCodeFor h.sampleRate).code
      chanAssign := some h.chanAssign
      bpsCode := some (bpsCodeFor h.bps)
      number := some h.number
      blocksize := some h.blocksize
      sampleRate := some h.sampleRate
      crc8 := some (crc8Of h.body)
      reserved := some 0
      valid := false } }

/-- The registers once a header with another byte for its CRC-8 is read. -/
def State.headRefused (s : State) (h : FrameHead) (x : Byte) : State :=
  { s with
    brPos := s.brPos + 8 * h.bytes.length
    crc8 := crc8Of h.body
    fh := { s.fh with crc8 := some x, valid := false } }.setFlag .crc8Err

/-- A header with its CRC-8, or another byte in its place (R230). -/
theorem fhParse_atCursor {h : FrameHead} {x : Byte} (w : h.Writable) (mode : s.mode ≠ .encode) (aligned : s.brPos % 8 = 0)
    (bits : AtCursor s (bytesBits (h.body ++ [x])))
    (rate : (srCodeFor h.sampleRate).code = 0 → s.siValid = true ∧ ∃ si, s.si = some si ∧ si.sampleRate = h.sampleRate) :
    fhParse s = if x = crc8Of h.body then .ok () (s.headRead h)
      else .error (.exc (.sync .headerCrc8)) (s.headRefused h x) := by
  have ⟨v2, _, b1, b2, _, ca10, _⟩ := w
  obtain ⟨bsc, src, bpc⟩ := FrameHead.codes_lt w
  have len := FrameHead.body_length w
  have bytes : (s.input.drop (s.brPos / 8)).take h.body.length = h.body := by
    rw [bytesBits_append] at bits
    exact AtCursor.bytes aligned bits.head
  rw [bytesBits_append, FrameHead.body_bits w] at bits
  simp only [List.append_assoc] at bits
  have fixed := fhFixed_atCursor (s := s.begun) (by decide) v2 bsc (by omega) (show h.chanAssign < 2 ^ 4 by omega) bpc (by decide) bits.head
  rw [check_bind_true _ _ _ (show (srCodeFor h.sampleRate).code ≠ 15 by omega), pure_run] at fixed
  have k1 := bits.tail
  rw [FrameHead.fixedBits_length] at k1
  have number := readCodedBytes_atCursor (s := { s.begun with brPos := s.brPos + 32 }) (FrameHead.number_lt w)
    (FrameHead.codedLength_le w) k1.head
  have k2 := k1.tail
  rw [bytesBits_length] at k2
  have size := fhBlocksize_atCursor (s := { s.begun with brPos := s.brPos + 32 + 8 * (codedBytes h.number).length }) b1 b2 k2.head
  have k3 := k2.behind
  have sampleRate := fhSampleRate_atCursor (s := { s.begun with
    brPos := s.brPos + 32 + 8 * (codedBytes h.number).length + (bsCodeFor h.blocksize).width }) rate k3.head
  have k4 := k3.behind
  have place : s.brPos + 32 + 8 * (codedBytes h.number).length + (bsCodeFor h.blocksize).width + (srCodeFor h.sampleRate).width =
      s.brPos + 8 * h.body.length := by omega
  have sum := readU_atCursor (s := { s.begun with brPos := s.brPos + 32 + 8 * (codedBytes h.number).length +
    (bsCodeFor h.blocksize).width + (srCodeFor h.sampleRate).width }) x.isLt (bytesBits_cons x [] ▸ k4).head
  have span : (s.brPos + 8 * h.body.length) / 8 - s.brPos / 8 = h.body.length := by omega
  have total : s.brPos + 8 * h.body.length + 8 = s.brPos + 8 * h.bytes.length := by rw [FrameHead.bytes_length]; omega
  have byte : BitVec.ofNat 8 x.toNat = x := BitVec.ofNat_toNat _ x
  rw [fhParse_run mode aligned, bind_ok fixed, fhRest]
  refine (bind_ok number).trans ((bind_ok size).trans ((bind_ok sampleRate).trans ((bind_ok sum).trans ?_)))
  simp only [update_bind, look_bind, place, span, State.begun, bytes, byte, total]
  by_cases same : x = crc8Of h.body
  · rw [if_pos same, if_neg (by rw [same]; exact not_not.2 rfl), update_run, same]
    rfl
  · rw [if_neg same, if_pos (fun e => same (BitVec.eq_of_toNat_eq e).symm), update_bind, raise_run]
    rfl

/-! ### Headers that are refused -/

section
variable (mode : s.mode ≠ .encode) (aligned : s.brPos % 8 = 0)
include mode aligned

theorem fhParse_badSync {v : Nat} (fits : v < 2 ^ 14) (other : v ≠ 0x3FFE) (h : AtCursor s (natBits 14 v)) :
    fhParse s = .error (.exc (.sync .badSync)) { s.begun with brPos := s.brPos + 8 } := by
  have sync : peekBits Config.syncLen s.begun = .ok v s.begun := peekBits_atCursor (s := s.begun) (n := 14) (by decide) fits h
  rw [fhParse_run mode aligned, fhFixed, seq_assoc, bind_ok sync, if_pos (by exact other), seq_assoc, skipBits_bind, raise_bind]
  rfl

theorem fhParse_short (h : Lacks s 14) : fhParse s = .error s.want s.begun := by
  have sync : peekBits Config.syncLen s.begun = .error s.want s.begun := bind_error (starve_lacks (s := s.begun) (n := 14) h)
  rw [fhParse_run mode aligned, fhFixed, seq_assoc, bind_error sync]

section
variable {r v b sr ca d e : Nat} (hr : r < 2) (hv : v < 2) (hb : b < 2 ^ 4) (hca : ca < 2 ^ 4) (hd : d < 2 ^ 3) (he : e < 2)
include hr hv hb hca hd he

theorem fhParse_rateCode (h : AtCursor s (fixedHeadBits r v b 15 ca d e)) :
    fhParse s = .error (.exc (.sync .headerReserved)) { s.begun with brPos := s.brPos + 32 } := by
  have fixed := fhFixed_atCursor (s := s.begun) hr hv hb (show 15 < 2 ^ 4 by decide) hca hd he h
  rw [check_bind_false _ _ _ (by decide)] at fixed
  rw [fhParse_run mode aligned, bind_error fixed]
  rfl

variable (hsr : sr < 2 ^ 4) (legal : sr ≠ 15)
include hsr legal

/-- Behind the fixed fields the number is read. -/
theorem fhParse_number (h : AtCursor s (fixedHeadBits r v b sr ca d e)) :
    fhParse s = fhRest (s.brPos / 8) ⟨r ||| e, v, b, sr, ca, d⟩ { s.begun with brPos := s.brPos + 32 } := by
  have fixed := fhFixed_atCursor (s := s.begun) hr hv hb hsr hca hd he h
  rw [check_bind_true _ _ _ legal, pure_run] at fixed
  rw [fhParse_run mode aligned, bind_ok fixed]
  rfl

end

end

/-! ### A malformed number -/

theorem leadOnes_continuation : ∀ n < 256, 0x80 ≤ n → n < 0xC0 → leadOnes (BitVec.ofNat 8 n) = 1 := by decide +kernel

theorem leadOnes_leading : ∀ n < 256, 0xC0 ≤ n → n < 0xFE →
    2 ≤ leadOnes (BitVec.ofNat 8 n) ∧ leadOnes (BitVec.ofNat 8 n) ≤ 6 := by decide +kernel

/-- A first byte that starts no number of the kind. -/
theorem readCodedBytes_first {b0 : Byte} {v : Nat}
    (bad : (0x80 ≤ b0.toNat ∧ b0.toNat < 0xC0) ∨ b0.toNat = 0xFF ∨ (b0.toNat = 0xFE ∧ v = 0)) (h : AtCursor s (bytesBits [b0])) :
    readCodedBytes (if v = 0 then 6 else 7) s = .error (.exc (.sync .badCodedNumber)) { s with brPos := s.brPos + 8 } := by
  rw [readCodedBytes, bind_ok (readByte_atCursor h)]
  have lead : ¬ leadOnes (BitVec.ofNat 8 b0.toNat) = 0 ∧ (leadOnes (BitVec.ofNat 8 b0.toNat) = 1 ∨
      leadOnes (BitVec.ofNat 8 b0.toNat) = 8 ∨ (if v = 0 then 6 else 7) < leadOnes (BitVec.ofNat 8 b0.toNat)) := by
    rcases bad with ⟨low, high⟩ | all | ⟨seven, rfl⟩
    · rw [leadOnes_continuation _ b0.isLt low high]
      simp
    · rw [all]
      exact ⟨by decide, .inr (.inl rfl)⟩
    · rw [seven]
      exact ⟨by decide, .inr (.inr (by decide))⟩
  rw [if_neg lead.1, check_bind_false _ _ _ (not_not.2 lead.2)]

/-- A second byte that continues no number. -/
theorem readCodedBytes_second {b0 x : Byte} {limit : Nat} (six : 6 ≤ limit) (low : 0xC0 ≤ b0.toNat) (high : b0.toNat < 0xFE)
    (bad : x.toNat / 64 ≠ 2) (h : AtCursor s (bytesBits [b0, x])) :
    readCodedBytes limit s = .error (.exc (.sync .badCodedNumber)) { s with brPos := s.brPos + 16 } := by
  obtain ⟨two, le⟩ := leadOnes_leading _ b0.isLt low high
  rw [readCodedBytes, bind_ok (readByte_atCursor h)]
  generalize leadOnes (BitVec.ofNat 8 b0.toNat) = len at two le
  obtain ⟨k, rfl⟩ : ∃ k, len = k + 2 := ⟨len - 2, by omega⟩
  rw [if_neg (by omega), check_bind_true _ _ _ (by omega), show k + 2 - 1 = k + 1 from rfl, readCodedTail,
    bind_ok (readByte_atCursor h.behindByte), check_bind_false _ _ _ bad]

theorem fixedHeadBits_length (r v b sr ca d e : Nat) : (fixedHeadBits r v b sr ca d e).length = 32 := by
  simp only [fixedHeadBits, List.length_append, natBits_length]

theorem AtCursor.behindFixed {r v b sr ca d e : Nat} {rest : List Bool} (h : AtCursor s (fixedHeadBits r v b sr ca d e ++ rest)) :
    AtCursor { s.begun with brPos := s.brPos + 32 } rest := by
  have k := h.tail
  rwa [fixedHeadBits_length] at k

/-- An operation whose input is cut short behind what it has written. -/
theorem issue_unit_cut {m : Op Unit} (live : s.faulted = false) (h : m s = .error s.want t) :
    (s.inEof = false → issue .read (do m; pure .none) s = .next { s with reply := some .hold }) ∧
      (s.inEof = true → issue .read (do m; pure .none) s = .next (s.takeException t .read .endOfStream)) := by
  constructor <;> intro e <;> rw [State.want, e] at h
  · exact issue_hold live (bind_error h)
  · exact issue_exc live (bind_error h)

/-- Settles O25: the header written with its CRC-8, read back, with another CRC-8, and each refusal. -/
theorem frameHeaderReadAsWritten : Obligations.FrameHeaderReadAsWritten := by
  unfold Obligations.FrameHeaderReadAsWritten
  intro h s live begun
  refine ⟨fun w head aligned => issue_unit_ok live (fhWrite_ok head aligned w),
    fun head unaligned => raises_first live (bind_error (writeAligned_refused unaligned)),
    fun head aligned bad => raises_first live (fhWrite_outOfRange head aligned bad),
    fun x w mode aligned bits rate => ?_,
    fun v mode aligned fits other bits => issue_unit_exc live (fhParse_badSync mode aligned fits other bits),
    fun mode unaligned => raises_first live (notEncode_unaligned mode unaligned),
    fun r v b sr ca d e mode aligned hr hv hb hsr hca hd he => ⟨fun bits => ?_, fun b0 legal bad bits => ?_,
      fun b0 x legal low high bad bits => ?_, fun legal bits => ?_⟩,
    fun mode aligned lacks => ?_⟩
  · have run := fhParse_atCursor w mode aligned bits rate
    refine ⟨fun same => ?_, fun other => ?_⟩
    · rw [if_pos same] at run
      rw [same]
      exact issue_unit_ok live run
    · rw [if_neg other] at run
      exact issue_unit_exc live run
  · exact issue_unit_exc live (fhParse_rateCode mode aligned hr hv hb hca hd he bits)
  · have run := fhParse_number mode aligned hr hv hb hca hd he hsr legal bits.head
    exact issue_unit_exc live (run.trans (bind_error (readCodedBytes_first bad bits.behindFixed)))
  · have run := fhParse_number mode aligned hr hv hb hca hd he hsr legal bits.head
    exact issue_unit_exc live
      (run.trans (bind_error (readCodedBytes_second (by split <;> decide) low high bad bits.behindFixed)))
  · have run := fhParse_number mode aligned hr hv hb hca hd he hsr legal (bits ▸ List.prefix_rfl)
    have length := congrArg List.length bits
    rw [bitsFrom_length, fixedHeadBits_length] at length
    have lacks : Lacks { s.begun with brPos := s.brPos + 32 } 8 := by
      show 8 * s.input.length < s.brPos + 32 + 8
      omega
    exact issue_unit_cut live (run.trans (bind_error (bind_error (readBits_lacks lacks))))
  · exact issue_unit_cut live (fhParse_short mode aligned lacks)

end Sys2Proof.Machine

/-! PROOFS. The parts of `DEC_FRAME` behind the header: the subframes of all channels, the padding, the footer, and the
reconstruction of the block (46_decoder_pipeline.md R315 to R318). -/

namespace Sys2Proof.Machine

variable {s t u v : State}

/-! ### What the subframes change -/

/-- Between the states before and after some subframes only the cursor, the samples and the working registers differ. -/
def SubframesOnly (s u : State) : Prop :=
  { u with
    brPos := s.brPos, smp := s.smp, rc := s.rc, res := s.res, sf := s.sf, qlp := s.qlp, qlpPrec := s.qlpPrec
    qlpShift := s.qlpShift } = s

theorem SubframesOnly.refl (s : State) : SubframesOnly s s := rfl

theorem SubframesOnly.trans (h : SubframesOnly s u) (k : SubframesOnly u v) : SubframesOnly s v := by
  have step : { v with
      brPos := s.brPos, smp := s.smp, rc := s.rc, res := s.res, sf := s.sf, qlp := s.qlp, qlpPrec := s.qlpPrec
      qlpShift := s.qlpShift } = { u with
      brPos := s.brPos, smp := s.smp, rc := s.rc, res := s.res, sf := s.sf, qlp := s.qlp, qlpPrec := s.qlpPrec
      qlpShift := s.qlpShift } := by
    conv_rhs => rw [← k]
  exact step.trans h

theorem SubframesOnly.fh (h : SubframesOnly s u) : u.fh = s.fh := by
  have same := congrArg State.fh h
  exact same

theorem SubframesOnly.input (h : SubframesOnly s u) : u.input = s.input := by
  have same := congrArg State.input h
  exact same

theorem SubframeForm.decoded_only (f : SubframeForm) (c b w : Nat) (xs : List Int) (s : State) :
    SubframesOnly s (f.decoded c b w xs s) := by
  cases s
  cases f <;> rfl

/-- Bits at the cursor of a state with the same input, once the ones in front are consumed. -/
theorem AtCursor.after {a b : List Bool} (h : AtCursor s (a ++ b)) (input : u.input = s.input) (pos : u.brPos = s.brPos + a.length) :
    AtCursor u b := by
  have tail := h.tail
  rw [AtCursor] at tail ⊢
  rwa [input, pos]

/-! ### The subframes of all channels -/

/-- The registers of a validated header hold its fields. -/
structure HeaderHeld (s : State) (h : FrameHead) (ch : Nat) : Prop where
  valid : s.fh.valid = true
  channels : s.fh.channels = some ch
  blocksize : s.fh.blocksize = some h.blocksize
  bps : s.fh.bps = some h.bps
  chanAssign : s.fh.chanAssign = some h.chanAssign

theorem HeaderHeld.of_fh {h : FrameHead} {ch : Nat} (held : HeaderHeld s h ch) (same : u.fh = s.fh) : HeaderHeld u h ch := by
  obtain ⟨h1, h2, h3, h4, h5⟩ := held
  exact ⟨by rwa [same], by rwa [same], by rwa [same], by rwa [same], by rwa [same]⟩

/-- One channel of a frame (R317). -/
theorem sfDec_channel {h : FrameHead} {ch c : Nat} {k : CodedChannel} (held : HeaderHeld s h ch) (hc : c < ch)
    (rows : ch ≤ s.smp.length) (ok : ChannelOk h c k)
    (bits : AtCursor s (k.form.bits (h.bps + sideBit h.chanAssign c - k.wasted) k.wasted k.xs)) :
    sfDec c s = .ok () (k.form.decoded c (h.bps + sideBit h.chanAssign c - k.wasted) k.wasted k.xs s) := by
  obtain ⟨wasted, len, carries, fits⟩ := ok
  rw [sfDec_form held.valid held.channels (by rw [held.blocksize, len]) held.bps held.chanAssign (Nat.sub_add_cancel wasted.le) hc
    (by omega) (by omega) carries bits, finishRow_fits _ fits, check_true _ _ rfl]

/-- The channels from `c` on are decoded one after another. -/
theorem countUp_sfDec {h : FrameHead} {ch : Nat} : ∀ (ks : List CodedChannel) (c : Nat) (s : State), HeaderHeld s h ch →
    c + ks.length ≤ ch → ch ≤ s.smp.length → (∀ i k, ks[i]? = some k → ChannelOk h (c + i) k) →
    AtCursor s (channelBits h c ks) →
    ∃ u, countUp sfDec ks.length c s = .ok () u ∧ SubframesOnly s u ∧ u.brPos = s.brPos + (channelBits h c ks).length ∧
      u.smp.length = s.smp.length ∧ (∀ i k, ks[i]? = some k → (u.row (c + i)).take h.blocksize = k.samples) ∧
      ∀ d, d < c → u.row d = s.row d
  | [], c, s, _, _, _, _, _ => ⟨s, rfl, .refl s, rfl, rfl, by simp, fun _ _ => rfl⟩
  | k :: ks, c, s, held, room, rows, ok, bits => by
    have hc : c < ch := by rw [List.length_cons] at room; omega
    have hs : c < s.smp.length := by omega
    have first : ChannelOk h c k := ok 0 k rfl
    obtain ⟨wasted, len, carries, fits⟩ := first
    have one := sfDec_channel held hc rows ⟨wasted, len, carries, fits⟩ bits.head
    have only := SubframeForm.decoded_only k.form c (h.bps + sideBit h.chanAssign c - k.wasted) k.wasted k.xs s
    have row := SubframeForm.decoded_row_fits (s := s) (f := k.form) (w := k.wasted) hs fits
    have others := fun {d} (hd : d ≠ c) =>
      SubframeForm.decoded_row_other (s := s) (f := k.form) (b := h.bps + sideBit h.chanAssign c - k.wasted) (w := k.wasted) (xs := k.xs) hd
    have size : (k.form.decoded c (h.bps + sideBit h.chanAssign c - k.wasted) k.wasted k.xs s).smp.length = s.smp.length :=
      List.length_modify _ _ _
    have behind : AtCursor (k.form.decoded c (h.bps + sideBit h.chanAssign c - k.wasted) k.wasted k.xs s) (channelBits h (c + 1) ks) :=
      bits.after only.input rfl
    have place : (k.form.decoded c (h.bps + sideBit h.chanAssign c - k.wasted) k.wasted k.xs s).brPos =
      s.brPos + (k.form.bits (h.bps + sideBit h.chanAssign c - k.wasted) k.wasted k.xs).length := rfl
    generalize k.form.decoded c (h.bps + sideBit h.chanAssign c - k.wasted) k.wasted k.xs s = v at *
    obtain ⟨u, run, rest, pos, sizes, later, before⟩ := countUp_sfDec ks (c + 1) v (held.of_fh only.fh)
      (by rw [List.length_cons] at room; omega) (by omega)
      (fun i j hj => by rw [Nat.add_right_comm]; exact ok (i + 1) j hj) behind
    refine ⟨u, (bind_ok one).trans run, only.trans rest, ?_, sizes.trans size, fun i j hj => ?_, fun d hd => ?_⟩
    · rw [pos, place, channelBits, List.length_append, Nat.add_assoc]
    · cases i with
      | zero =>
        obtain rfl : k = j := by simpa using hj
        rw [Nat.add_zero, before c (by omega), ← len, row]
        rfl
      | succ i =>
        rw [show c + (i + 1) = c + 1 + i by omega]
        exact later i j hj
    · rw [before d (by omega), others (by omega)]

/-! ### Padding -/

theorem readBit_atCursor {b : Bool} (h : AtCursor s [b]) : readU 1 s = .ok b.toNat { s with brPos := s.brPos + 1 } := by
  have field : natBits 1 b.toNat = [b] := by cases b <;> rfl
  exact readU_atCursor (show b.toNat < 2 ^ 1 from Bool.toNat_lt b) (by rwa [field])

theorem readPadding_zeros : ∀ (z : Nat) (s : State), AtCursor s (List.replicate z false) →
    readPadding z s = .ok () { s with brPos := s.brPos + z }
  | 0, _, _ => rfl
  | z + 1, s, h => by
    have bit : readU 1 s = .ok 0 { s with brPos := s.brPos + 1 } := readBit_atCursor (AtCursor.head (a := [false]) h)
    have rest := readPadding_zeros z { s with brPos := s.brPos + 1 } (AtCursor.tail (a := [false]) h)
    rw [readPadding, bind_ok bit, check_bind_true _ _ _ rfl, rest]
    simp only [Nat.add_assoc, Nat.add_comm 1]

/-- The first padding bit that is not zero is refused, the cursor behind it. -/
theorem readPadding_one (more : Nat) : ∀ (z : Nat) (s : State), AtCursor s (List.replicate z false ++ [true]) →
    readPadding (z + 1 + more) s = .error (.exc (.sync .badPadding)) { s with brPos := s.brPos + z + 1 }
  | 0, s, h => by
    have bit : readU 1 s = .ok 1 { s with brPos := s.brPos + 1 } := readBit_atCursor h
    rw [show 0 + 1 + more = more + 1 by omega, readPadding, bind_ok bit, check_bind_false _ _ _ (by decide)]
  | z + 1, s, h => by
    have bit : readU 1 s = .ok 0 { s with brPos := s.brPos + 1 } := readBit_atCursor (AtCursor.head (a := [false]) h)
    have rest := readPadding_one more z { s with brPos := s.brPos + 1 } (AtCursor.tail (a := [false]) h)
    rw [show z + 1 + 1 + more = z + 1 + more + 1 by omega, readPadding, bind_ok bit, check_bind_true _ _ _ rfl, rest]
    simp only [Nat.add_assoc, Nat.add_comm 1]

/-! ### The footer -/

theorem frameFooter_atCursor {start sum : Nat} (small : sum < 2 ^ 16) (h : AtCursor s (natBits 16 sum)) :
    frameFooter start s = checkFooter start (s.brPos / 8) sum { s with brPos := s.brPos + 16 } := by
  rw [frameFooter, look_bind, bind_ok (readU_atCursor small h)]

end Sys2Proof.Machine

/-! PROOFS. The block reconstructed inside `DEC_FRAME`: the decorrelation undone, or a sample outside the depth (46_decoder_pipeline.md R318). -/

namespace Sys2Proof.Machine

variable {s t u v : State}

/-! ### The range check over all channels -/

/-- The check of one sample of the channels from `c` on passes, all fitting, or fails. -/
theorem checkAt_cases {bps i : Nat} : ∀ (k c : Nat), (∀ d, c ≤ d → d < c + k → i < (s.row d).length) →
    (countUp (checkAt bps i) k c s = .ok () s ∧ ∀ d, c ≤ d → d < c + k → fitsS (sampleAt (s.row d) i) bps) ∨
      countUp (checkAt bps i) k c s = .error (.exc (.sync .rangeError)) s
  | 0, c, _ => .inl ⟨rfl, fun d h1 h2 => by omega⟩
  | k + 1, c, long => by
    have inside := long c (Nat.le_refl c) (by omega)
    have one : checkAt bps i c s = check (fitsS (sampleAt (s.row c) i) bps) (.sync .rangeError) s := by
      rw [checkAt, readSmpAt, readReg_bind, sampleAt_of_lt inside]
      exact congrArg (fun r => (written r >>= fun v => check (fitsS v bps) (.sync .rangeError)) s) (List.getElem?_eq_getElem inside)
    by_cases first : fitsS (sampleAt (s.row c) i) bps
    · have run : countUp (checkAt bps i) (k + 1) c s = countUp (checkAt bps i) k (c + 1) s :=
        bind_ok (one.trans (check_true _ _ first))
      rw [run]
      refine (checkAt_cases k (c + 1) fun d h1 h2 => long d (by omega) (by omega)).imp_left fun ⟨ok, rest⟩ => ⟨ok, fun d h1 h2 => ?_⟩
      rcases Nat.eq_or_lt_of_le h1 with rfl | later
      · exact first
      · exact rest d later (by omega)
    · exact .inr (bind_error (one.trans (check_false _ _ first)))

/-- Independent channels with a sample outside the depth: the loop ends at its time. -/
theorem undoLoop_independent_unfit {bps channels ca : Nat} (h : ¬ (ca = 8 ∨ ca = 9 ∨ ca = 10)) : ∀ (n i : Nat),
    (∀ d, d < channels → i + n ≤ (s.row d).length) →
    (∃ d j, d < channels ∧ i ≤ j ∧ j < i + n ∧ ¬ fitsS (sampleAt (s.row d) j) bps) →
    countUp (fun i => do undoAt ca i; countUp (checkAt bps i) channels 0) n i s = .error (.exc (.sync .rangeError)) s
  | 0, i, _, ⟨_, _, _, _, _, _⟩ => by omega
  | n + 1, i, long, ⟨d, j, hd, h1, h2, unfit⟩ => by
    have one : (do undoAt ca i; countUp (checkAt bps i) channels 0) s = countUp (checkAt bps i) channels 0 s := by
      rw [undoAt, if_neg h, pure_bind_run]
    rcases checkAt_cases (s := s) (bps := bps) (i := i) channels 0 fun d _ hd => by have := long d (by omega); omega with
      ⟨ok, fits⟩ | bad
    · have later : j ≠ i := fun e => unfit (e ▸ fits d (Nat.zero_le d) (by omega))
      exact (bind_ok (one.trans ok)).trans (undoLoop_independent_unfit h n (i + 1)
        (fun d hd => by have := long d hd; omega) ⟨d, j, hd, by omega, by omega, unfit⟩)
    · exact bind_error (one.trans bad)

/-! ### The block -/

/-- The block that the rows of the channels stand for (R318). -/
def undoBlock (ca : Nat) : List (List Int) → List (List Int)
  | [a, b] => [(undoRows ca a b).1, (undoRows ca a b).2]
  | rows => rows

theorem decodedBlock_eq (ca : Nat) (ks : List CodedChannel) : decodedBlock ca ks = undoBlock ca (ks.map CodedChannel.samples) := by
  unfold decodedBlock undoBlock
  rfl

/-- Independent channels are the block. -/
theorem undoBlock_independent {ca n : Nat} (h : ca ≤ 7) {rows : List (List Int)} (len : ∀ row ∈ rows, row.length = n) :
    undoBlock ca rows = rows := by
  unfold undoBlock
  split
  next a b =>
    have same : b.length = a.length := by rw [len b (by simp), len a (by simp)]
    have undo : decorrUndo ca = Prod.mk := by
      funext x y
      rw [decorrUndo, if_neg (by omega), if_neg (by omega), if_neg (by omega)]
    have pair : List.zip a b = List.zipWith Prod.mk a b := rfl
    rw [undoRows, undo, ← pair, List.unzip_zip same.symm]
  next => rfl

/-- The rows of two channels. -/
theorem block_two {ch : Nat} (two : ch = 2) (n : Nat) : s.block ch n = [(s.row 0).take n, (s.row 1).take n] := by
  subst two
  rfl

section
variable {h : FrameHead} {ch : Nat} (held : HeaderHeld s h ch) (ca10 : h.chanAssign ≤ 10) (count : ch = channelsOf h.chanAssign)
  (rows : ch ≤ s.smp.length) (long : ∀ c, c < ch → h.blocksize ≤ (s.row c).length)
include held ca10 count rows long

/-- `CH_DECORR_INV` behind the subframes of a frame whose block fits its depth. -/
theorem chDecorrInv_block (fits : ∀ row ∈ undoBlock h.chanAssign (s.block ch h.blocksize), ∀ v ∈ row, fitsS v h.bps) :
    ∃ out, chDecorrInv s = .ok () { s with smp := out } ∧
      (out.take ch).map (·.take h.blocksize) = undoBlock h.chanAssign (s.block ch h.blocksize) := by
  have start : (s.smp.take ch).map (·.take h.blocksize) = s.block ch h.blocksize := by
    rw [block_take rows, List.map_map]
    rfl
  by_cases h7 : h.chanAssign ≤ 7
  · have same : undoBlock h.chanAssign (s.block ch h.blocksize) = s.block ch h.blocksize :=
      undoBlock_independent (n := h.blocksize) h7 fun row mem => by
        obtain ⟨c, hc, rfl⟩ := List.mem_map.1 mem
        exact List.length_take_of_le (long c (List.mem_range.1 hc))
    rw [same] at fits ⊢
    exact ⟨s.smp, chDecorrInv_independent held.chanAssign held.blocksize held.bps held.channels h7 long ((block_fits long).1 fits), start⟩
  · have two : ch = 2 := by rw [count, channelsOf, if_neg h7]
    have stereo : h.chanAssign = 8 ∨ h.chanAssign = 9 ∨ h.chanAssign = 10 := by omega
    rw [block_two two] at fits ⊢
    subst two
    have lenA : ((s.row 0).take h.blocksize).length = h.blocksize := List.length_take_of_le (long 0 (by decide))
    have lenB : ((s.row 1).take h.blocksize).length = h.blocksize := List.length_take_of_le (long 1 (by decide))
    obtain ⟨len0, len1⟩ := unzip_zipWith_length (decorrUndo h.chanAssign) (lenB.trans lenA.symm)
    refine ⟨_, chDecorrInv_stereo held.chanAssign held.blocksize held.bps held.channels stereo rfl rows
      (List.take_append_drop _ _).symm (List.take_append_drop _ _).symm lenA lenB
      (fits _ (by simp [undoBlock])) (fits _ (by simp [undoBlock])), ?_⟩
    obtain ⟨r0, r1, rest, hrows⟩ := exists_rows rows
    simp only [hrows, List.set_cons_zero, List.set_cons_succ, List.take_succ_cons, List.take_zero, List.map_cons,
      List.map_nil, undoBlock]
    exact congrArg₂ (fun x y => [x, y]) (List.take_left' (len0.trans lenA)) (List.take_left' (len1.trans lenA))

theorem chDecorrInv_block_unfit (unfit : ∃ row ∈ undoBlock h.chanAssign (s.block ch h.blocksize), ∃ v ∈ row, ¬ fitsS v h.bps) :
    ∃ out, chDecorrInv s = .error (.exc (.sync .rangeError)) { s with smp := out } := by
  rw [chDecorrInv_run held.chanAssign held.blocksize held.bps held.channels]
  by_cases h7 : h.chanAssign ≤ 7
  · rw [undoBlock_independent (n := h.blocksize) h7 fun row mem => by
      obtain ⟨c, hc, rfl⟩ := List.mem_map.1 mem
      exact List.length_take_of_le (long c (List.mem_range.1 hc))] at unfit
    have place : ∃ d j, d < ch ∧ 0 ≤ j ∧ j < 0 + h.blocksize ∧ ¬ fitsS (sampleAt (s.row d) j) h.bps := by
      by_contra none
      push Not at none
      obtain ⟨row, mem, v, hv, bad⟩ := unfit
      exact bad ((block_fits long).2 (fun c i hc hi => none c i hc (Nat.zero_le i) (by omega)) row mem v hv)
    exact ⟨s.smp, undoLoop_independent_unfit (by omega) _ _ (fun d hd => by simpa using long d hd) place⟩
  · have two : ch = 2 := by rw [count, channelsOf, if_neg h7]
    have stereo : h.chanAssign = 8 ∨ h.chanAssign = 9 ∨ h.chanAssign = 10 := by omega
    rw [block_two two] at unfit
    subst two
    have lenA : ((s.row 0).take h.blocksize).length = h.blocksize := List.length_take_of_le (long 0 (by decide))
    have lenB : ((s.row 1).take h.blocksize).length = h.blocksize := List.length_take_of_le (long 1 (by decide))
    obtain ⟨r0, r1, rest, hrows⟩ := exists_rows rows
    have bad : ∃ v, (v ∈ (undoRows h.chanAssign ((s.row 0).take h.blocksize) ((s.row 1).take h.blocksize)).1 ∨
        v ∈ (undoRows h.chanAssign ((s.row 0).take h.blocksize) ((s.row 1).take h.blocksize)).2) ∧ ¬ fitsS v h.bps := by
      obtain ⟨row, mem, v, hv, out⟩ := unfit
      simp only [undoBlock, List.mem_cons, List.not_mem_nil, or_false] at mem
      rcases mem with rfl | rfl
      · exact ⟨v, .inl hv, out⟩
      · exact ⟨v, .inr hv, out⟩
    obtain ⟨out, run⟩ := undoLoop_unfit stereo ((s.row 0).drop h.blocksize) ((s.row 1).drop h.blocksize) rest s _ _ [] []
      (lenB.trans lenA.symm) rfl bad
    simp only [List.nil_append, List.take_append_drop, List.length_nil, lenA] at run
    have start : { s with smp := s.row 0 :: s.row 1 :: rest } = s := by
      rw [show s.row 0 :: s.row 1 :: rest = s.smp by rw [State.row, State.row, hrows]; rfl]
    rw [start] at run
    exact ⟨out, run⟩

end

end Sys2Proof.Machine

/-! PROOFS. `DEC_FRAME` of a good frame, and of one with a bad padding bit, CRC-16 or sample (46_decoder_pipeline.md R315 to R318). -/

namespace Sys2Proof.Machine

variable {s t u v d : State}

/-! ### The header of a frame -/

theorem bpsOfCode_bpsCodeFor (bps : Nat) : bpsOfCode (bpsCodeFor bps) bps = some bps ∧ bpsCodeFor bps ≠ 3 := by
  unfold bpsCodeFor
  split <;> exact ⟨rfl, by decide⟩

theorem bsCodeFor_code_ne_zero {bs : Nat} (h1 : 1 ≤ bs) (h2 : bs ≤ 65535) : (bsCodeFor bs).code ≠ 0 := by
  rcases bsCodeFor_cases h1 h2 with ⟨c, e, _, _, _, value⟩ | ⟨e, _⟩ | e <;> rw [e]
  · rintro rfl
    cases value
  · exact (by decide : 6 ≠ 0)
  · exact (by decide : 7 ≠ 0)

/-- The registers of a header that starts at byte `start`, read and validated (R227, R231, R232). -/
def FrameHead.regs (h : FrameHead) (si : StreamInfo) (start : Nat) : FhRegs :=
  ⟨some h.variable_, some (bsCodeFor h.blocksize).code, some (srCodeFor h.sampleRate).code, some h.chanAssign,
    some (bpsCodeFor h.bps), some h.number, some h.blocksize, some h.sampleRate, some (channelsOf h.chanAssign), some h.bps,
    some (crc8Of h.body), some 0, some start, some (if h.variable_ = 1 then h.number else h.number * si.maxBlocksize), true⟩

/-- The decoder behind the header of a frame. -/
def State.headValid (d : State) (si : StreamInfo) (h : FrameHead) : State :=
  { d with
    brPos := d.brPos + 8 * h.bytes.length
    crc8 := crc8Of h.body
    crc16 := 0x0000#16
    fh := h.regs si (d.brPos / 8) }

/-- A frame behind its subframes (R315). -/
def frameTail (gap : Nat) : Op Unit := do
  readPadding gap
  let start ← readReg fun s => s.fh.start
  frameFooter start
  chDecorrInv

section
variable {si : StreamInfo} {h : FrameHead} (ready : ReadyFor d si h)
include ready

theorem fhParse_frame {rest : List Bool} (bits : AtCursor d (bytesBits h.bytes ++ rest)) :
    fhParse { d with crc16 := 0x0000#16 } = .ok () (State.headRead { d with crc16 := 0x0000#16 } h) := by
  obtain ⟨_, mode, aligned, valid, hsi, _, w, _, _, rate, _⟩ := ready
  have parse := fhParse_atCursor (s := { d with crc16 := 0x0000#16 }) (x := crc8Of h.body) w (by rw [show State.mode _ = d.mode from rfl, mode]; decide)
    aligned bits.head (fun _ => ⟨valid, si, hsi, rate.symm⟩)
  rwa [if_pos rfl] at parse

theorem fhValidate_frame :
    fhValidate (State.headRead { d with crc16 := 0x0000#16 } h) = .ok () (d.headValid si h) := by
  obtain ⟨_, _, _, valid, hsi, _, w, channels, bps, rate, block⟩ := ready
  obtain ⟨_, _, b1, b2, _, ca10, _⟩ := w
  obtain ⟨depth, code⟩ := bpsOfCode_bpsCodeFor h.bps
  have checked := fhValidate_ok (s := State.headRead { d with crc16 := 0x0000#16 } h) (si := si) (res := 0) (d := h.bps)
    valid hsi rfl rfl (fun _ => rfl) (by have := bsCodeFor_code_ne_zero b1 b2; omega) rfl rfl (by omega) code (bps ▸ depth) rfl
    (by omega) rfl rfl
  exact checked

/-- `DEC_FRAME` up to the last subframe (R315, R317). -/
theorem decFrame_subframes {ks : List CodedChannel} {rest : List Bool} (count : ks.length = channelsOf h.chanAssign)
    (ok : ∀ c k, ks[c]? = some k → ChannelOk h c k)
    (bits : AtCursor d (bytesBits h.bytes ++ (channelBits h 0 ks ++ rest))) :
    ∃ u, decFrame d = frameTail (alignGap (channelBits h 0 ks).length) u ∧ SubframesOnly (d.headValid si h) u ∧
      u.brPos = d.brPos + 8 * h.bytes.length + (channelBits h 0 ks).length ∧ u.smp.length = 8 ∧
      u.block ks.length h.blocksize = ks.map CodedChannel.samples := by
  have ⟨_, mode, aligned, _, _, eight, w, _, _, _, _⟩ := ready
  have room : channelsOf h.chanAssign ≤ 8 := by
    obtain ⟨_, _, _, _, _, ca10, _⟩ := w
    unfold channelsOf
    split <;> omega
  have behind : AtCursor (d.headValid si h) (channelBits h 0 ks ++ rest) :=
    bits.after rfl (by rw [bytesBits_length]; rfl)
  obtain ⟨u, run, only, pos, rows, each, _⟩ := countUp_sfDec (s := d.headValid si h) (ch := channelsOf h.chanAssign) ks 0
    ⟨rfl, rfl, rfl, rfl, rfl⟩ (by omega) (by rw [show (d.headValid si h).smp = d.smp from rfl]; omega)
    (fun i k hk => by rw [Nat.zero_add]; exact ok i k hk) behind.head
  have place : u.brPos = d.brPos + 8 * h.bytes.length + (channelBits h 0 ks).length := pos
  have gap : alignGap u.brPos = alignGap (channelBits h 0 ks).length := by
    rw [place, alignGap, alignGap]
    omega
  refine ⟨u, ?_, only, pos, rows.trans eight, ?_⟩
  · have head := fhParse_frame ready bits
    have valid := fhValidate_frame ready
    rw [count] at run
    rw [decFrame, bind_ok (needMode_ok mode), frameStart, update_bind]
    refine (bind_ok head).trans ((bind_ok valid).trans ?_)
    have channels : readReg (fun s => s.fh.channels) (d.headValid si h) = .ok (channelsOf h.chanAssign) (d.headValid si h) := rfl
    refine (bind_ok channels).trans ((bind_ok run).trans ?_)
    rw [look_bind, gap]
    rfl
  · refine List.ext_getElem? fun i => ?_
    rw [State.block, List.getElem?_map, List.getElem?_map]
    by_cases hi : i < ks.length
    · rw [List.getElem?_range hi, List.getElem?_eq_getElem hi]
      have row := each i ks[i] (List.getElem?_eq_getElem hi)
      rw [Nat.zero_add] at row
      exact congrArg some row
    · rw [List.getElem?_eq_none (by simpa using hi), List.getElem?_eq_none (by simpa using hi)]
      rfl

end

/-! ### What a frame changes -/

/-- Between the states before and after a frame only the registers of a frame differ. -/
def FrameOnly (d u : State) : Prop :=
  { u with
    brPos := d.brPos, fh := d.fh, sf := d.sf, qlp := d.qlp, qlpPrec := d.qlpPrec, qlpShift := d.qlpShift, rc := d.rc
    res := d.res, smp := d.smp, crc8 := d.crc8, crc16 := d.crc16 } = d

theorem SubframesOnly.frameOnly {si : StreamInfo} {h : FrameHead} (only : SubframesOnly (d.headValid si h) u) : FrameOnly d u := by
  have step : { u with
      brPos := d.brPos, fh := d.fh, sf := d.sf, qlp := d.qlp, qlpPrec := d.qlpPrec, qlpShift := d.qlpShift, rc := d.rc
      res := d.res, smp := d.smp, crc8 := d.crc8, crc16 := d.crc16 } = { d.headValid si h with
      brPos := d.brPos, fh := d.fh, sf := d.sf, qlp := d.qlp, qlpPrec := d.qlpPrec, qlpShift := d.qlpShift, rc := d.rc
      res := d.res, smp := d.smp, crc8 := d.crc8, crc16 := d.crc16 } := by
    conv_rhs => rw [← only]
  rw [FrameOnly, step, State.headValid]

/-- The registers of a frame are free. -/
theorem FrameOnly.update (only : FrameOnly d u) (pos : Nat) (crc : BitVec 16) (rows : List (List Int)) :
    FrameOnly d { u with brPos := pos, crc16 := crc, smp := rows } := only

/-- What a frame keeps, refused or not: everything but its registers, `STATUS` and `REPORT`. -/
theorem FrameOnly.kept (only : FrameOnly d u) :
    { u with
      brPos := d.brPos, fh := d.fh, sf := d.sf, qlp := d.qlp, qlpPrec := d.qlpPrec, qlpShift := d.qlpShift, rc := d.rc
      res := d.res, smp := d.smp, crc8 := d.crc8, crc16 := d.crc16, status := d.status, report := d.report
      reply := d.reply } = d := by
  have step : { u with
      brPos := d.brPos, fh := d.fh, sf := d.sf, qlp := d.qlp, qlpPrec := d.qlpPrec, qlpShift := d.qlpShift, rc := d.rc
      res := d.res, smp := d.smp, crc8 := d.crc8, crc16 := d.crc16, status := d.status, report := d.report
      reply := d.reply } = { { u with
      brPos := d.brPos, fh := d.fh, sf := d.sf, qlp := d.qlp, qlpPrec := d.qlpPrec, qlpShift := d.qlpShift, rc := d.rc
      res := d.res, smp := d.smp, crc8 := d.crc8, crc16 := d.crc16 } with status := d.status, report := d.report, reply := d.reply } := rfl
  rw [step, only]

end Sys2Proof.Machine

/-! PROOFS. The outcomes of `DEC_FRAME` over the bytes of a frame (46_decoder_pipeline.md R315, R316, R318). -/

namespace Sys2Proof.Machine

variable {s t u v d : State}

section
variable {si : StreamInfo} {h : FrameHead} {ks : List CodedChannel} {pad : List Bool}

theorem frameBody_bits (padded : pad.length = alignGap (channelBits h 0 ks).length) :
    bytesBits (frameBody h ks pad) = bytesBits h.bytes ++ (channelBits h 0 ks ++ pad) := by
  have whole : (channelBits h 0 ks ++ pad).length % 8 = 0 := by
    rw [List.length_append, padded, alignGap]
    omega
  rw [frameBody, bytesBits_append, bytesBits_bitsBytes whole]

theorem frameBody_length (padded : pad.length = alignGap (channelBits h 0 ks).length) :
    8 * (frameBody h ks pad).length = 8 * h.bytes.length + (channelBits h 0 ks).length + pad.length := by
  rw [← bytesBits_length, frameBody_bits padded]
  simp only [List.length_append, bytesBits_length, Nat.add_assoc]

/-- Where `DEC_FRAME` stands behind the last subframe of a frame. -/
structure AtTail (d u : State) (si : StreamInfo) (h : FrameHead) (ks : List CodedChannel) : Prop where
  only : SubframesOnly (d.headValid si h) u
  pos : u.brPos = d.brPos + 8 * h.bytes.length + (channelBits h 0 ks).length
  rows : u.smp.length = 8
  block : u.block ks.length h.blocksize = ks.map CodedChannel.samples

section
variable (tail : AtTail d u si h ks)
include tail

theorem AtTail.fh : u.fh = h.regs si (d.brPos / 8) := tail.only.fh

theorem AtTail.held (count : ks.length = channelsOf h.chanAssign) : HeaderHeld u h ks.length := by
  have regs := tail.fh
  exact ⟨by rw [regs]; rfl, by rw [regs, count]; rfl, by rw [regs]; rfl, by rw [regs]; rfl, by rw [regs]; rfl⟩

theorem AtTail.long (ok : ∀ c k, ks[c]? = some k → ChannelOk h c k) : ∀ c, c < ks.length → h.blocksize ≤ (u.row c).length := by
  intro c hc
  have k := List.getElem?_eq_getElem hc
  obtain ⟨_, len, _⟩ := ok c ks[c] k
  have row := congrArg (·[c]?) tail.block
  simp only [State.block, List.getElem?_map, List.getElem?_range hc, k, Option.map_some, Option.some.injEq] at row
  have size := congrArg List.length row
  rw [List.length_take, CodedChannel.samples, List.length_map, len] at size
  omega

/-- The padding and the CRC-16 (R315, R316). -/
theorem AtTail.footer {sum : Nat} (aligned : d.brPos % 8 = 0) (zeros : ∀ x ∈ pad, x = false) (small : sum < 2 ^ 16)
    (padded : pad.length = alignGap (channelBits h 0 ks).length)
    (bits : AtCursor d (bytesBits (frameBody h ks pad) ++ natBits 16 sum)) :
    frameTail (alignGap (channelBits h 0 ks).length) u =
      if (crc16Of (frameBody h ks pad)).toNat = sum then
        chDecorrInv { u with brPos := d.brPos + 8 * (frameBody h ks pad).length + 16, crc16 := crc16Of (frameBody h ks pad) }
      else .error (.exc (.sync .frameCrc16)) ({ u with
        brPos := d.brPos + 8 * (frameBody h ks pad).length + 16, crc16 := crc16Of (frameBody h ks pad) }.setFlag .crc16Err) := by
  have len := frameBody_length (h := h) (ks := ks) padded
  have input : u.input = d.input := tail.only.input
  have start : u.fh.start = some (d.brPos / 8) := by rw [tail.fh]; rfl
  have frame : (u.input.drop (d.brPos / 8)).take (frameBody h ks pad).length = frameBody h ks pad := by
    rw [input]
    exact AtCursor.bytes aligned bits.head
  have behind : AtCursor u (pad ++ natBits 16 sum) := by
    rw [frameBody_bits padded, List.append_assoc, List.append_assoc, ← List.append_assoc] at bits
    exact bits.after input (by rw [tail.pos, List.length_append, bytesBits_length, Nat.add_assoc])
  have blank : pad = List.replicate pad.length false := List.eq_replicate_of_mem zeros
  have padding := readPadding_zeros pad.length u (blank ▸ behind.head)
  have place : u.brPos + pad.length = d.brPos + 8 * (frameBody h ks pad).length := by rw [tail.pos]; omega
  rw [padded, ← padded, place] at padding
  have footer := frameFooter_atCursor (s := { u with brPos := d.brPos + 8 * (frameBody h ks pad).length }) (start := d.brPos / 8) small
    (behind.after rfl place.symm)
  have span : (d.brPos + 8 * (frameBody h ks pad).length) / 8 - d.brPos / 8 = (frameBody h ks pad).length := by omega
  rw [checkFooter_run, span, frame] at footer
  rw [frameTail, ← padded, bind_ok padding, bind_ok (readReg_some (by exact start))]
  split at footer
  next same => rw [if_pos same]; exact bind_ok footer
  next other => rw [if_neg other]; exact bind_error footer

/-- A padding bit of 1 (R315). -/
theorem AtTail.badPadding {z : Nat} {rest : List Bool} (padded : pad.length = alignGap (channelBits h 0 ks).length)
    (bad : pad = List.replicate z false ++ true :: rest) (bits : AtCursor d (bytesBits (frameBody h ks pad))) :
    frameTail (alignGap (channelBits h 0 ks).length) u = .error (.exc (.sync .badPadding)) { u with brPos := u.brPos + z + 1 } := by
  have behind : AtCursor u pad := by
    rw [frameBody_bits padded, ← List.append_assoc] at bits
    exact bits.after tail.only.input (by rw [tail.pos, List.length_append, bytesBits_length, Nat.add_assoc])
  have bit : AtCursor u (List.replicate z false ++ [true]) := by
    rw [bad, List.append_cons] at behind
    exact behind.head
  have count : alignGap (channelBits h 0 ks).length = z + 1 + rest.length := by
    rw [← padded, bad, List.length_append, List.length_replicate, List.length_cons]
    omega
  rw [frameTail, count, bind_error (readPadding_one rest.length z u bit)]

end

/-! ### The whole frame -/

section
variable (ready : ReadyFor d si h) (count : ks.length = channelsOf h.chanAssign) (ok : ∀ c k, ks[c]? = some k → ChannelOk h c k)
include ready count ok

theorem decFrame_atTail {rest : List Bool} (bits : AtCursor d (bytesBits h.bytes ++ (channelBits h 0 ks ++ rest))) :
    ∃ u, decFrame d = frameTail (alignGap (channelBits h 0 ks).length) u ∧ AtTail d u si h ks := by
  obtain ⟨u, run, only, pos, rows, block⟩ := decFrame_subframes ready count ok bits
  exact ⟨u, run, only, pos, rows, block⟩

section
variable {sum : Nat} (zeros : ∀ x ∈ pad, x = false) (small : sum < 2 ^ 16) (padded : pad.length = alignGap (channelBits h 0 ks).length)
  (bits : AtCursor d (bytesBits (frameBody h ks pad) ++ natBits 16 sum))
include zeros small padded bits

/-- A frame with the CRC-16 of its bytes, up to the reconstruction of its block. -/
theorem decFrame_good (same : sum = (crc16Of (frameBody h ks pad)).toNat) : ∃ u, AtTail d u si h ks ∧
    decFrame d = chDecorrInv
      { u with brPos := d.brPos + 8 * (frameBody h ks pad).length + 16, crc16 := crc16Of (frameBody h ks pad) } := by
  have whole := bits
  rw [frameBody_bits padded, List.append_assoc, List.append_assoc] at whole
  obtain ⟨u, run, tail⟩ := decFrame_atTail ready count ok whole
  have ⟨_, _, aligned, _⟩ := ready
  have footer := tail.footer aligned zeros small padded bits
  rw [if_pos same.symm] at footer
  exact ⟨u, tail, run.trans footer⟩

theorem decFrame_badCrc (other : sum ≠ (crc16Of (frameBody h ks pad)).toNat) : ∃ u, AtTail d u si h ks ∧
    decFrame d = .error (.exc (.sync .frameCrc16)) ({ u with
      brPos := d.brPos + 8 * (frameBody h ks pad).length + 16, crc16 := crc16Of (frameBody h ks pad) }.setFlag .crc16Err) := by
  have whole := bits
  rw [frameBody_bits padded, List.append_assoc, List.append_assoc] at whole
  obtain ⟨u, run, tail⟩ := decFrame_atTail ready count ok whole
  have ⟨_, _, aligned, _⟩ := ready
  have footer := tail.footer aligned zeros small padded bits
  rw [if_neg (Ne.symm other)] at footer
  exact ⟨u, tail, run.trans footer⟩

end

end

end

end Sys2Proof.Machine

/-! PROOFS. O49: `DEC_FRAME` decodes a good frame and refuses the others (46_decoder_pipeline.md R315 to R318). -/

namespace Sys2Proof.Machine

variable {s t u v d : State}

theorem flag_setFlag (s : State) (f : Flag) : (s.setFlag f).flag f = true := by
  rw [State.flag, State.setFlag_status, BitVec.getLsbD_or, Bool.or_eq_true]
  refine .inr ?_
  cases f <;> rfl

theorem takeException_flag {side : Side} {sub : SyncSub} {f : Flag} :
    (d.takeException (u.setFlag f) side (.sync sub)).flag f = true :=
  (frame_record (u.setFlag f) (.sync sub) (side.pos d)).sticky _ (flag_setFlag u f)

theorem FrameOnly.status (only : FrameOnly d u) : u.status = d.status := by
  have same := congrArg State.status only
  exact same

theorem FrameOnly.report (only : FrameOnly d u) : u.report = d.report := by
  have same := congrArg State.report only
  exact same

/-- A completed frame keeps everything but its registers. -/
theorem FrameOnly.answered (only : FrameOnly d u) :
    { u with
      brPos := d.brPos, fh := d.fh, sf := d.sf, qlp := d.qlp, qlpPrec := d.qlpPrec, qlpShift := d.qlpShift, rc := d.rc
      res := d.res, smp := d.smp, crc8 := d.crc8, crc16 := d.crc16, reply := d.reply } = d := by
  have step : { u with
      brPos := d.brPos, fh := d.fh, sf := d.sf, qlp := d.qlp, qlpPrec := d.qlpPrec, qlpShift := d.qlpShift, rc := d.rc
      res := d.res, smp := d.smp, crc8 := d.crc8, crc16 := d.crc16, reply := d.reply } = { { u with
      brPos := d.brPos, fh := d.fh, sf := d.sf, qlp := d.qlp, qlpPrec := d.qlpPrec, qlpShift := d.qlpShift, rc := d.rc
      res := d.res, smp := d.smp, crc8 := d.crc8, crc16 := d.crc16 } with reply := d.reply } := rfl
  rw [step, only]

section
variable {si : StreamInfo} {h : FrameHead} {ks : List CodedChannel} {pad : List Bool} {sum : Nat}
  (ready : ReadyFor d si h) (count : ks.length = channelsOf h.chanAssign) (ok : ∀ c k, ks[c]? = some k → ChannelOk h c k)
  (padded : pad.length = alignGap (channelBits h 0 ks).length)
include ready count ok padded

section
variable (zeros : ∀ x ∈ pad, x = false) (small : sum < 2 ^ 16)
  (bits : AtCursor d (bytesBits (frameBody h ks pad) ++ natBits 16 sum))
include zeros small bits

/-- What a frame whose block fits its depth leaves. -/
theorem decFrame_ok (same : sum = (crc16Of (frameBody h ks pad)).toNat)
    (fits : ∀ row ∈ decodedBlock h.chanAssign ks, ∀ v ∈ row, fitsS v h.bps) :
    ∃ u, decFrame d = .ok () u ∧ FrameOnly d u ∧ u.brPos = d.brPos + 8 * (frameBody h ks pad).length + 16 ∧
      (u.smp.take ks.length).map (·.take h.blocksize) = decodedBlock h.chanAssign ks ∧ u.fh = h.regs si (d.brPos / 8) ∧
      u.crc8 = crc8Of h.body ∧ u.crc16 = crc16Of (frameBody h ks pad) := by
  obtain ⟨u, tail, run⟩ := decFrame_good ready count ok zeros small padded bits same
  obtain ⟨_, _, _, _, _, _, ⟨_, _, _, _, _, ca10, _⟩, _⟩ := ready
  have room : ks.length ≤ u.smp.length := by rw [tail.rows, count, channelsOf]; split <;> omega
  rw [decodedBlock_eq, ← tail.block] at fits ⊢
  obtain ⟨out, undo, rows⟩ := chDecorrInv_block
    (s := { u with brPos := d.brPos + 8 * (frameBody h ks pad).length + 16, crc16 := crc16Of (frameBody h ks pad) })
    ((tail.held count).of_fh rfl) ca10 count room (tail.long ok) fits
  have crc8 := congrArg State.crc8 tail.only
  exact ⟨_, run.trans undo, tail.only.frameOnly.update _ _ _, rfl, rows, tail.fh, crc8, rfl⟩

theorem decFrame_unfit (same : sum = (crc16Of (frameBody h ks pad)).toNat)
    (unfit : ∃ row ∈ decodedBlock h.chanAssign ks, ∃ v ∈ row, ¬ fitsS v h.bps) :
    ∃ u, decFrame d = .error (.exc (.sync .rangeError)) u ∧ FrameOnly d u ∧
      u.brPos = d.brPos + 8 * (frameBody h ks pad).length + 16 := by
  obtain ⟨u, tail, run⟩ := decFrame_good ready count ok zeros small padded bits same
  obtain ⟨_, _, _, _, _, _, ⟨_, _, _, _, _, ca10, _⟩, _⟩ := ready
  have room : ks.length ≤ u.smp.length := by rw [tail.rows, count, channelsOf]; split <;> omega
  rw [decodedBlock_eq, ← tail.block] at unfit
  obtain ⟨out, undo⟩ := chDecorrInv_block_unfit
    (s := { u with brPos := d.brPos + 8 * (frameBody h ks pad).length + 16, crc16 := crc16Of (frameBody h ks pad) })
    ((tail.held count).of_fh rfl) ca10 count room (tail.long ok) unfit
  exact ⟨_, run.trans undo, tail.only.frameOnly.update _ _ _, rfl⟩

end

theorem decFrame_badPadding {z : Nat} {rest : List Bool} (bad : pad = List.replicate z false ++ true :: rest)
    (bits : AtCursor d (bytesBits (frameBody h ks pad))) :
    ∃ u, decFrame d = .error (.exc (.sync .badPadding)) u ∧ FrameOnly d u ∧
      u.brPos = d.brPos + 8 * h.bytes.length + (channelBits h 0 ks).length + z + 1 ∧ u.crc8 = crc8Of h.body ∧ u.crc16 = 0x0000#16 := by
  have whole := bits
  rw [frameBody_bits padded] at whole
  obtain ⟨u, run, tail⟩ := decFrame_atTail ready count ok whole
  have crc8 := congrArg State.crc8 tail.only
  have crc16 := congrArg State.crc16 tail.only
  exact ⟨_, run.trans (tail.badPadding padded bad bits), tail.only.frameOnly.update _ u.crc16 u.smp,
    congrArg (· + z + 1) tail.pos, crc8, crc16⟩

end

theorem decFrame_unaligned (mode : d.mode = .decode) (odd : d.brPos % 8 ≠ 0) :
    decFrame d = .error (.exc (.logic .notAligned)) { d with crc16 := 0x0000#16 } := by
  have refused : fhParse { d with crc16 := 0x0000#16 } = .error (.exc (.logic .notAligned)) { d with crc16 := 0x0000#16 } :=
    notEncode_unaligned (by rw [show State.mode _ = d.mode from rfl, mode]; decide) odd
  rw [decFrame, bind_ok (needMode_ok mode), frameStart, update_bind]
  exact bind_error refused

/-- Settles O49: a good frame by `decFrame_ok`, the refused ones by the step that refuses them. -/
theorem framesDecodeOrAreRefused : Obligations.FramesDecodeOrAreRefused := by
  intro d si h ks pad sum
  refine ⟨fun ready count ok padded => ?_, fun live mode => ?_, fun live mode odd => ?_⟩
  · have live := ready.1
    refine ⟨fun zeros small bits => ⟨fun same => ⟨fun fits => ?_, fun unfit => ?_⟩, fun other => ?_⟩, fun z rest bad bits => ?_⟩
    · obtain ⟨u, run, only, pos, rows, fh, crc8, crc16⟩ := decFrame_ok ready count ok padded zeros small bits same fits
      refine ⟨_, issue_unit_ok live run, rfl, pos, rows, ?_, crc8, ?_, only.status, only.report, ?_⟩
      · rw [count]
        exact fh
      · rw [same]
        exact congrArg BitVec.toNat crc16
      · exact only.kept
    · obtain ⟨u, run, only, pos⟩ := decFrame_unfit ready count ok padded zeros small bits same unfit
      exact ⟨_, issue_unit_exc live run, rfl, pos, only.kept⟩
    · obtain ⟨u, tail, run⟩ := decFrame_badCrc ready count ok zeros small padded bits other
      exact ⟨_, issue_unit_exc live run, rfl, takeException_flag, rfl,
        tail.only.frameOnly.kept⟩
    · obtain ⟨u, run, only, pos, crc8, crc16⟩ := decFrame_badPadding ready count ok padded bad bits
      exact ⟨_, issue_unit_exc live run, rfl, pos, crc8, crc16, only.kept⟩
  · exact issue_unit_exc live (bind_error (needMode_refused mode))
  · have run := issue_unit_exc (side := .read) live (decFrame_unaligned mode odd)
    exact run

end Sys2Proof.Machine

/-! PROOFS. One subframe as the encoder writes it: the form of a choice carries the channel's samples, and `SF_SELECT` with the
subframe operation appends its bits (44_predictor.md R271; 47_encoder.md R345). -/

namespace Sys2Proof.Machine

variable {s t u v : State}

/-! ### The channel that a choice codes -/

section
variable (sel : Selections) (cfg : EncConfig)

/-- The form in which a choice codes a block of `n` samples whose residual it leaves (R271, R291). -/
def choiceForm (xs : List Int) (x : SfChoice) : SubframeForm :=
  let table := selectPartitioning sel cfg xs.length (choiceOrder x) (choiceResidual xs x)
  match x with
  | .constant _ => .constant
  | .verbatim _ => .verbatim
  | .fixed _ o => .fixed o table
  | .lpc _ r => .lpc r.coefs cfg.qlpPrec r.shift table

/-- The channel that `SF_SELECT` and the subframe operation code of the row `xs`. -/
def channelOf (depth : Nat) (xs : List Int) : CodedChannel :=
  let x := selectSubframe sel cfg depth xs
  ⟨choiceWasted x, shiftDown (choiceWasted x) xs, choiceForm sel cfg xs x⟩

end

theorem shiftDown_length (w : Nat) (xs : List Int) : (shiftDown w xs).length = xs.length := List.length_map _

/-- Low bits that are zero are restored. -/
theorem shiftDown_mul {w : Nat} {xs : List Int} (low : ∀ x ∈ xs, x % 2 ^ w = 0) : (shiftDown w xs).map (· * 2 ^ w) = xs := by
  rw [shiftDown, List.map_map]
  refine (List.map_congr_left fun x hx => ?_).trans (List.map_id xs)
  exact Int.ediv_mul_cancel (Int.dvd_of_emod_eq_zero (low x hx))

theorem fitsS_ediv {x : Int} {w b : Nat} (fits : fitsS x b) (lt : w < b) (low : x % 2 ^ w = 0) : fitsS (x / 2 ^ w) (b - w) := by
  obtain ⟨_, lo, hi⟩ := fits
  obtain ⟨y, rfl⟩ := Int.dvd_of_emod_eq_zero low
  have pos : (0 : Int) < 2 ^ w := by positivity
  have split : (2 : Int) ^ (b - 1) = 2 ^ w * 2 ^ (b - w - 1) := by rw [← pow_add]; congr 1; omega
  rw [split] at lo hi
  rw [Int.mul_ediv_cancel_left _ pos.ne']
  refine ⟨by omega, ?_, ?_⟩
  · exact le_of_mul_le_mul_left (by rw [mul_neg]; exact lo) pos
  · exact lt_of_mul_lt_mul_left hi pos.le

section
variable {cfg : EncConfig} {depth : Nat} {xs : List Int} {x : SfChoice} (chosen : SubframeChosen cfg depth xs x)
include chosen

theorem SubframeChosen.low : ∀ y ∈ xs, y % 2 ^ choiceWasted x = 0 := by
  rcases chosen.wasted_cases with zero | ⟨_, low⟩
  · intro y _
    rw [zero, pow_zero, Int.emod_one]
  · exact low

theorem SubframeChosen.fits_shiftDown (pos : 0 < depth) (fits : ∀ y ∈ xs, fitsS y depth) :
    ∀ y ∈ shiftDown (choiceWasted x) xs, fitsS y (depth - choiceWasted x) := by
  intro y hy
  obtain ⟨z, hz, rfl⟩ := List.mem_map.1 hy
  exact fitsS_ediv (fits z hz) (chosen.wasted_lt pos) (chosen.low z hz)

/-- The table that belongs to a choice with a predictor. -/
theorem SubframeChosen.table (sel : Selections) (method : cfg.method ≤ 1) (predicted : choiceType x = .fixed ∨ choiceType x = .lpc) :
    TableFits xs.length (choiceOrder x) (choiceResidual xs x)
      (selectPartitioning sel cfg xs.length (choiceOrder x) (choiceResidual xs x)) :=
  (tableChosen_selectPartitioning sel chosen.order_le.2).tableFits method (choiceResidual_length xs predicted) chosen.residual

theorem SubframeChosen.carries (sel : Selections) (accepted : ConfigAccepted cfg) (pos : 0 < depth) (fits : ∀ y ∈ xs, fitsS y depth) :
    (choiceForm sel cfg xs x).Carries (depth - choiceWasted x) (shiftDown (choiceWasted x) xs) := by
  have all := chosen.fits_shiftDown pos fits
  have method : cfg.method ≤ 1 := Nat.le_of_lt_succ accepted.method
  cases x with
  | constant w =>
    have same := chosen.constant rfl
    cases xs with
    | nil =>
      have left := Nat.sub_pos_of_lt (chosen.wasted_lt pos)
      exact ⟨by simp [shiftDown], left, by simp [shiftDown], by simp [shiftDown]⟩
    | cons z zs =>
      refine ⟨fun y hy => ?_, all _ (List.mem_cons_self ..)⟩
      obtain ⟨v, hv, rfl⟩ := List.mem_map.1 hy
      rw [same v hv]
      rfl
  | verbatim w => exact all
  | fixed w o =>
    obtain ⟨o4, on⟩ := chosen.fixed w o rfl
    have table := chosen.table sel method (.inl rfl)
    refine ⟨o4, by rwa [shiftDown_length], fun y hy => all y (List.mem_of_mem_take hy), ?_⟩
    rw [shiftDown_length]
    exact table
  | lpc w r =>
    have range := chosen.lpc w r rfl
    have table := chosen.table sel method (.inr rfl)
    refine ⟨range.order1, range.order32, by rw [shiftDown_length]; exact range.orderBlock, accepted.qlpPrec1, accepted.qlpPrec15,
      range.shift, range.coefs, fun y hy => all y (List.mem_of_mem_take hy), ?_⟩
    rw [shiftDown_length]
    exact table

end

/-- The channel that the encoder codes stands for its row, and a decoder can read it. -/
theorem channelOf_ok (sel : Selections) {cfg : EncConfig} (accepted : ConfigAccepted cfg) {h : FrameHead} {c : Nat} {xs : List Int}
    (pos : 0 < h.bps) (len : xs.length = h.blocksize) (fits : ∀ y ∈ xs, fitsS y (h.bps + sideBit h.chanAssign c)) :
    (channelOf sel cfg (h.bps + sideBit h.chanAssign c) xs).samples = xs ∧
      ChannelOk h c (channelOf sel cfg (h.bps + sideBit h.chanAssign c) xs) := by
  have depth : 0 < h.bps + sideBit h.chanAssign c := Nat.add_pos_left pos _
  have chosen := subframeChosen sel cfg (h.bps + sideBit h.chanAssign c) xs
  exact ⟨shiftDown_mul chosen.low, chosen.wasted_lt depth, (shiftDown_length _ _).trans len, chosen.carries sel accepted depth fits,
    chosen.fits_shiftDown depth fits⟩

end Sys2Proof.Machine

/-! PROOFS. The subframes of a frame as the encoder appends them (47_encoder.md R345). -/

namespace Sys2Proof.Machine

variable {s t u v : State}

/-! ### What coding changes -/

/-- Between the states before and after the coding of some subframes only the registers of a subframe differ, and these bits are
appended. -/
structure Coded (s u : State) (bits : List Bool) : Prop where
  out : u.out = s.out ++ bits
  only : { u with
    out := s.out, sf := s.sf, qlp := s.qlp, qlpPrec := s.qlpPrec, qlpShift := s.qlpShift, rc := s.rc, res := s.res } = s

theorem Coded.refl (s : State) : Coded s s [] := ⟨(List.append_nil _).symm, rfl⟩

theorem Coded.trans {a b : List Bool} (h : Coded s u a) (k : Coded u v b) : Coded s v (a ++ b) := by
  refine ⟨by rw [k.out, h.out, List.append_assoc], ?_⟩
  have step : { v with
      out := s.out, sf := s.sf, qlp := s.qlp, qlpPrec := s.qlpPrec, qlpShift := s.qlpShift, rc := s.rc, res := s.res } =
      { u with
      out := s.out, sf := s.sf, qlp := s.qlp, qlpPrec := s.qlpPrec, qlpShift := s.qlpShift, rc := s.rc, res := s.res } := by
    conv_rhs => rw [← k.only]
  exact step.trans h.only

theorem coded_regs (s : State) (r : SfRegs) : Coded s { s with sf := r } [] := ⟨(List.append_nil _).symm, rfl⟩

theorem coded_withLpcResult (s : State) (prec : Nat) (r : LpcResult) : Coded s (s.withLpcResult prec r) [] :=
  ⟨(List.append_nil _).symm, rfl⟩

theorem coded_withCoded (s : State) (cfg : EncConfig) (n : Nat) (xs : List Int) (x : SfChoice) (t : PartTable) :
    Coded s (s.withCoded cfg n xs x t) [] := ⟨(List.append_nil _).symm, rfl⟩

/-- A frame of header `h` and `ch` channels whose block, decorrelated, stands in `SMP`. -/
structure ReadyToCode (s : State) (cfg : EncConfig) (h : FrameHead) (ch : Nat) : Prop where
  mode : s.mode = .encode
  cfg : s.cfg = some cfg
  channels : s.fh.channels = some ch
  blocksize : s.fh.blocksize = some h.blocksize
  chanAssign : s.fh.chanAssign = some h.chanAssign
  long : ∀ c, c < ch → h.blocksize ≤ (s.row c).length
  fits : ∀ c, c < ch → ∀ y ∈ (s.row c).take h.blocksize, fitsS y (h.bps + sideBit h.chanAssign c)

theorem ReadyToCode.coded {cfg : EncConfig} {h : FrameHead} {ch : Nat} {bits : List Bool} (ready : ReadyToCode s cfg h ch)
    (coded : Coded s u bits) : ReadyToCode u cfg h ch ∧ u.smp = s.smp := by
  have mode := congrArg State.mode coded.only
  have config := congrArg State.cfg coded.only
  have fh := congrArg State.fh coded.only
  have smp := congrArg State.smp coded.only
  dsimp only at mode config fh smp
  obtain ⟨h1, h2, h3, h4, h5, h6, h7⟩ := ready
  refine ⟨⟨by rwa [mode], by rwa [config], by rwa [fh], by rwa [fh], by rwa [fh], ?_, ?_⟩, smp⟩
  · simpa only [State.row, smp] using h6
  · simpa only [State.row, smp] using h7

/-! ### One subframe -/

/-- What `SF_SELECT` leaves of the choice `x` for the row `xs` of channel `c` (R271). -/
structure Selected (sel : Selections) (cfg : EncConfig) (depth c : Nat) (xs : List Int) (x : SfChoice) (s u : State) : Prop where
  coded : Coded s u []
  sf : u.sf = choiceRegs depth c x
  table : choiceType x = .fixed ∨ choiceType x = .lpc →
    TableIs u (selectPartitioning sel cfg xs.length (choiceOrder x) (choiceResidual xs x))
  predictor : ∀ w r, x = .lpc w r → u.qlp.take r.coefs.length = r.coefs ∧ r.coefs.length ≤ u.qlp.length ∧
    u.qlpPrec = some cfg.qlpPrec ∧ u.qlpShift = some r.shift

section
variable (sel : Selections) {cfg : EncConfig} (accepted : ConfigAccepted cfg) {h : FrameHead} {ch : Nat}
  (ready : ReadyToCode s cfg h ch) (bps : h.bps = cfg.bps) {c : Nat} (hc : c < ch) {depth : Nat} {xs : List Int} {x : SfChoice}
  (hdepth : depth = h.bps + sideBit h.chanAssign c) (hxs : xs = (s.row c).take h.blocksize)
  (chosen : SubframeChosen cfg depth xs x)
include accepted ready bps hc hdepth hxs chosen

theorem sfSelect_selected (hx : selectSubframe sel cfg depth xs = x) :
    ∃ size u, sfSelect sel c s = .ok size u ∧ Selected sel cfg depth c xs x s u := by
  obtain ⟨mode, hcfg, channels, blocksize, chanAssign, long, _⟩ := ready
  have len : xs.length = h.blocksize := by rw [hxs, List.length_take_of_le (long c hc)]
  have method : cfg.method ≤ 1 := Nat.le_of_lt_succ accepted.method
  have run := fun {u} coded => sfSelect_run sel (choice := x) (u := u) mode hcfg channels hc blocksize chanAssign
    (long c hc) (by rw [← bps, ← hdepth, ← hxs]; exact hx) coded
  rw [← bps, ← hdepth, ← hxs] at run
  have regs := coded_regs s (choiceRegs depth c x)
  let v : State := { s with sf := choiceRegs depth c x }
  cases x with
  | constant w => exact ⟨_, v, run rfl, regs, rfl, by simp [choiceType], by simp⟩
  | verbatim w => exact ⟨_, v, run rfl, regs, rfl, by simp [choiceType], by simp⟩
  | fixed w o =>
    obtain ⟨o4, on⟩ := chosen.fixed w o rfl
    have coded := codeChoice_fixed (s := v) sel mode hcfg blocksize (long c hc) hxs rfl o4 (len ▸ on) rfl
    obtain ⟨isTable, _⟩ := withCoded_contract (s := v) sel chosen method len (.inl rfl) rfl rfl
    exact ⟨_, _, run coded, regs.trans (coded_withCoded ..), rfl, fun _ => len ▸ isTable, by simp⟩
  | lpc w r =>
    have range := chosen.lpc w r rfl
    have coded := codeChoice_lpc (s := v) sel mode hcfg blocksize (long c hc) hxs rfl (len ▸ range) rfl
    obtain ⟨isTable, _⟩ := withCoded_contract (s := v.withLpcResult cfg.qlpPrec r) sel chosen method len (.inr rfl) rfl rfl
    refine ⟨_, _, run coded, regs.trans ((coded_withLpcResult ..).trans (coded_withCoded ..)), rfl, fun _ => len ▸ isTable,
      fun w' r' e => ?_⟩
    cases e
    exact ⟨overwrite_take _ _, overwrite_length _ _, rfl, rfl⟩

theorem sfEncode_selected (selected : Selected sel cfg depth c xs x s u) : ∃ v, sfEncode (choiceType x) u = .ok () v ∧
    Coded u v ((choiceForm sel cfg xs x).bits (depth - choiceWasted x) (choiceWasted x) (shiftDown (choiceWasted x) xs)) := by
  have fits := ready.fits
  obtain ⟨readyU, rows⟩ := ready.coded selected.coded
  have blocksize := readyU.blocksize
  have long := readyU.long c hc
  have row : xs = (u.row c).take h.blocksize := by rw [hxs, State.row, State.row, rows]
  have len : xs.length = h.blocksize := by rw [row, List.length_take_of_le long]
  have pos : 0 < depth := by have := accepted.bps4; omega
  have carries := chosen.carries sel accepted pos (by rw [hxs, hdepth]; exact fits c hc)
  have sf := selected.sf
  have regCh : u.sf.ch = some c := by rw [sf]; rfl
  have regW : u.sf.wasted = some (choiceWasted x) := by rw [sf]; rfl
  have regB : u.sf.bps = some (depth - choiceWasted x) := by rw [sf]; rfl
  have regO : u.sf.order = some (choiceOrder x) := by rw [sf]; rfl
  have shifted : shiftDown (choiceWasted x) xs = ((u.row c).take h.blocksize).map (· / 2 ^ choiceWasted x) := by rw [row, shiftDown]
  cases x with
  | constant w =>
    exact ⟨_, sfEncConstant_ok blocksize regCh regW regB long shifted carries.1 carries.2, rfl, rfl⟩
  | verbatim w =>
    exact ⟨_, sfEncVerbatim_ok blocksize regCh regW regB long shifted carries, rfl, rfl⟩
  | fixed w o =>
    obtain ⟨o4, on, warm, table⟩ := carries
    rw [shiftDown_length] at on table
    have run := sfEncFixed_ok blocksize regCh regW regB long shifted regO (selected.table (.inl rfl)) warm o4 (len ▸ on) (len ▸ table)
    refine ⟨_, run, ?_, rfl⟩
    rw [choiceForm, SubframeForm.bits, shiftDown_length, len]
    rfl
  | lpc w r =>
    obtain ⟨o1, o32, on, p1, p15, s15, coefs, warm, table⟩ := carries
    obtain ⟨taken, enough, prec, shift⟩ := selected.predictor w r rfl
    rw [shiftDown_length] at on table
    have run := sfEncLpc_ok blocksize regCh regW regB long shifted regO (selected.table (.inr rfl)) warm ⟨o1, o32, len ▸ on⟩ prec p1
      p15 shift s15 enough (by rw [choiceOrder, taken]; exact coefs) (by rw [choiceOrder, taken, ← len]; exact table)
    rw [choiceOrder, taken] at run
    refine ⟨_, run, ?_, rfl⟩
    rw [choiceForm, SubframeForm.bits, shiftDown_length, len]
    rfl

end

/-- One subframe (R345). -/
theorem encodeSubframe_ok (sel : Selections) {cfg : EncConfig} (accepted : ConfigAccepted cfg) {h : FrameHead} {ch c : Nat}
    (ready : ReadyToCode s cfg h ch) (bps : h.bps = cfg.bps) (hc : c < ch) {k : CodedChannel}
    (hk : channelOf sel cfg (h.bps + sideBit h.chanAssign c) ((s.row c).take h.blocksize) = k) :
    ∃ u, encodeSubframe sel c s = .ok () u ∧
      Coded s u (k.form.bits (h.bps + sideBit h.chanAssign c - k.wasted) k.wasted k.xs) := by
  have chosen := subframeChosen sel cfg (h.bps + sideBit h.chanAssign c) ((s.row c).take h.blocksize)
  obtain ⟨size, u, select, selected⟩ := sfSelect_selected sel accepted ready bps hc rfl rfl chosen rfl
  obtain ⟨v, encode, coded⟩ := sfEncode_selected sel accepted ready bps hc rfl rfl chosen selected
  have type : readReg (fun s => s.sf.type) u = .ok (choiceType _) u := readReg_some (congrArg SfRegs.type selected.sf)
  subst hk
  exact ⟨v, (bind_ok select).trans ((bind_ok type).trans encode), selected.coded.trans coded⟩

/-- The channels of the block from `c` on, as they are coded. -/
def codedChannels (sel : Selections) (cfg : EncConfig) (h : FrameHead) (row : Nat → List Int) (c k : Nat) : List CodedChannel :=
  (List.range' c k).map fun d => channelOf sel cfg (h.bps + sideBit h.chanAssign d) ((row d).take h.blocksize)

theorem countUp_encodeSubframe (sel : Selections) {cfg : EncConfig} (accepted : ConfigAccepted cfg) {h : FrameHead} {ch : Nat}
    (bps : h.bps = cfg.bps) : ∀ (k c : Nat) (s : State), ReadyToCode s cfg h ch → c + k ≤ ch →
    ∃ u, countUp (encodeSubframe sel) k c s = .ok () u ∧ Coded s u (channelBits h c (codedChannels sel cfg h s.row c k))
  | 0, _, s, _, _ => ⟨s, rfl, .refl s⟩
  | k + 1, c, s, ready, room => by
    obtain ⟨u, one, first⟩ := encodeSubframe_ok sel accepted ready bps (show c < ch by omega) rfl
    obtain ⟨readyU, rows⟩ := ready.coded first
    obtain ⟨v, rest, later⟩ := countUp_encodeSubframe sel accepted bps k (c + 1) u readyU (by omega)
    have same : u.row = s.row := by funext d; rw [State.row, rows]
    rw [same] at later
    exact ⟨v, (bind_ok one).trans rest, first.trans later⟩

end Sys2Proof.Machine

/-! PROOFS. The frame that the encoder assembles from a decorrelated block (47_encoder.md R345). -/

namespace Sys2Proof.Machine

variable {s t u v : State}

/-- The header of the frame to come: numbered by frame where all blocks have one size, by sample elsewhere (R345). -/
def frameHead (cfg : EncConfig) (s : State) (n ca : Nat) : FrameHead :=
  if cfg.minBlocksize = cfg.maxBlocksize then ⟨0, s.encFrameNo, n, cfg.sampleRate, ca, cfg.bps⟩
  else ⟨1, s.encSamples, n, cfg.sampleRate, ca, cfg.bps⟩

section
variable (cfg : EncConfig) (s : State) (n ca : Nat)

@[simp] theorem frameHead_blocksize : (frameHead cfg s n ca).blocksize = n := by unfold frameHead; split <;> rfl
@[simp] theorem frameHead_sampleRate : (frameHead cfg s n ca).sampleRate = cfg.sampleRate := by unfold frameHead; split <;> rfl
@[simp] theorem frameHead_chanAssign : (frameHead cfg s n ca).chanAssign = ca := by unfold frameHead; split <;> rfl
@[simp] theorem frameHead_bps : (frameHead cfg s n ca).bps = cfg.bps := by unfold frameHead; split <;> rfl

end

theorem frameHead_writable {cfg : EncConfig} {n ca : Nat} (accepted : ConfigAccepted cfg) (n1 : 1 ≤ n) (sized : n ≤ cfg.maxBlocksize)
    (frames : s.encFrameNo < 2 ^ 31) (samples : s.encSamples < 2 ^ 36) (ca10 : ca ≤ 10) : (frameHead cfg s n ca).Writable := by
  have big := accepted.maxBlocksizeMax
  have rate := accepted.rateMax
  have bps4 := accepted.bps4
  have bps32 := accepted.bps32
  unfold frameHead
  split
  · exact ⟨Nat.zero_lt_two, frames, n1, sized.trans big, show cfg.sampleRate < 2 ^ 20 by omega, ca10, bps4, bps32⟩
  · exact ⟨Nat.one_lt_two, samples, n1, sized.trans big, show cfg.sampleRate < 2 ^ 20 by omega, ca10, bps4, bps32⟩

/-- The padding behind the subframes (30_encoding.md R109). -/
def framePad (h : FrameHead) (ks : List CodedChannel) : List Bool := List.replicate (alignGap (channelBits h 0 ks).length) false

theorem framePad_length (h : FrameHead) (ks : List CodedChannel) : (framePad h ks).length = alignGap (channelBits h 0 ks).length :=
  List.length_replicate

/-- The bits of a whole frame (30_encoding.md R109). -/
def frameBits (h : FrameHead) (ks : List CodedChannel) : List Bool :=
  bytesBits (frameBody h ks (framePad h ks)) ++ natBits 16 (crc16Of (frameBody h ks (framePad h ks))).toNat

theorem outBytes_append {bs : List Byte} (aligned : s.out.length % 8 = 0) (out : u.out = s.out ++ bytesBits bs) :
    u.outBytes (s.out.length / 8) = bs := by
  have start : 8 * (s.out.length / 8) = s.out.length := by omega
  rw [State.outBytes, start, out, List.drop_left, bitsBytes_bytesBits]

/-- Frame assembly behind its numbering: header, subframes, padding and CRC-16. -/
def assembleNumbered (sel : Selections) (start : Nat) : Op Nat := do
  fhWrite
  let channels ← readReg fun s => s.fh.channels
  countUp (encodeSubframe sel) channels 0
  let _ ← padOut
  let stop ← look fun s => s.out.length / 8
  update fun s => { s with crc16 := crc16Of (s.outBytes start) }
  let sum ← look State.crc16
  writeU 16 sum.toNat
  pure (stop + 2 - start)

section
variable (sel : Selections) {cfg : EncConfig} (accepted : ConfigAccepted cfg) {h : FrameHead} {ch : Nat}
  (ready : ReadyToCode s cfg h ch) (bps : h.bps = cfg.bps) (aligned : s.out.length % 8 = 0)
include accepted ready bps aligned

theorem assembleNumbered_ok (head : HeadIs s h) (w : h.Writable) :
    ∃ len v, assembleNumbered sel (s.out.length / 8) s = .ok len v ∧
      v.out = s.out ++ frameBits h (codedChannels sel cfg h s.row 0 ch) := by
  have written := fhWrite_ok head aligned w
  have readyH : ReadyToCode (s.headWritten h) cfg h ch := ⟨ready.mode, ready.cfg, ready.channels, ready.blocksize, ready.chanAssign,
    ready.long, ready.fits⟩
  obtain ⟨u, run, coded⟩ := countUp_encodeSubframe sel accepted bps ch 0 _ readyH (by omega)
  rw [show (s.headWritten h).row = s.row from rfl] at coded
  generalize codedChannels sel cfg h s.row 0 ch = ks at coded
  have out : u.out = s.out ++ (bytesBits h.bytes ++ channelBits h 0 ks) :=
    coded.out.trans (List.append_assoc s.out (bytesBits h.bytes) (channelBits h 0 ks))
  have gap : alignGap u.out.length = alignGap (channelBits h 0 ks).length := by
    rw [out, List.length_append, List.length_append, bytesBits_length, alignGap, alignGap]
    omega
  have padded : padOut u = .ok (alignGap u.out.length) (u.appendOut (framePad h ks)) := by
    rw [padOut, look_bind, gap, bind_ok (emit_appendOut _ u)]
    rfl
  have body : (u.appendOut (framePad h ks)).out = s.out ++ bytesBits (frameBody h ks (framePad h ks)) := by
    rw [frameBody_bits (framePad_length h ks), State.appendOut, out]
    simp only [List.append_assoc]
  have channels : readReg (fun s => s.fh.channels) (s.headWritten h) = .ok ch (s.headWritten h) := readReg_some ready.channels
  refine ⟨(u.appendOut (framePad h ks)).out.length / 8 + 2 - s.out.length / 8, { u.appendOut (framePad h ks) with
    crc16 := crc16Of (frameBody h ks (framePad h ks))
    out := (u.appendOut (framePad h ks)).out ++ natBits 16 (crc16Of (frameBody h ks (framePad h ks))).toNat },
    (bind_ok written).trans ((bind_ok channels).trans ((bind_ok run).trans ((bind_ok padded).trans ?_))), ?_⟩
  · rw [look_bind, update_bind, look_bind, outBytes_append aligned body]
    exact bind_ok (writeU_appendOut (by decide) (crc16Of (frameBody h ks (framePad h ks))).isLt _)
  · rw [frameBits, ← List.append_assoc, ← body]

end

/-- Frame assembly (R345). -/
theorem assembleFrame_ok (sel : Selections) {cfg : EncConfig} (accepted : ConfigAccepted cfg) {h : FrameHead} {n ca ch : Nat}
    (hh : h = frameHead cfg s n ca) (ready : ReadyToCode s cfg h ch) (aligned : s.out.length % 8 = 0)
    (rate : s.fh.sampleRate = some cfg.sampleRate) (depth : s.fh.bps = some cfg.bps) (w : h.Writable) :
    ∃ len v, assembleFrame sel s = .ok len v ∧ v.out = s.out ++ frameBits h (codedChannels sel cfg h s.row 0 ch) := by
  have run : assembleFrame sel s = assembleNumbered sel (s.out.length / 8) { s with fh :=
      if cfg.minBlocksize = cfg.maxBlocksize then { s.fh with variable_ := some 0, number := some s.encFrameNo }
      else { s.fh with variable_ := some 1, number := some s.encSamples } } := by
    rw [assembleFrame, look_bind, bind_ok (readReg_some ready.cfg), update_bind]
    rfl
  have bps : h.bps = cfg.bps := by rw [hh, frameHead_bps]
  rw [run]
  obtain ⟨mode, hcfg, channels, blocksize, chanAssign, long, fits⟩ := ready
  rw [frameHead] at hh
  by_cases fixed : cfg.minBlocksize = cfg.maxBlocksize
  · rw [if_pos fixed] at hh ⊢
    exact assembleNumbered_ok sel (s := { s with fh := { s.fh with variable_ := some 0, number := some s.encFrameNo } }) accepted
      ⟨mode, hcfg, channels, blocksize, chanAssign, long, fits⟩ bps aligned
      ⟨by rw [hh], by rw [hh], blocksize, by rw [hh]; exact rate, chanAssign, by rw [hh]; exact depth⟩ w
  · rw [if_neg fixed] at hh ⊢
    exact assembleNumbered_ok sel (s := { s with fh := { s.fh with variable_ := some 1, number := some s.encSamples } }) accepted
      ⟨mode, hcfg, channels, blocksize, chanAssign, long, fits⟩ bps aligned
      ⟨by rw [hh], by rw [hh], blocksize, by rw [hh]; exact rate, chanAssign, by rw [hh]; exact depth⟩ w

end Sys2Proof.Machine

/-! PROOFS. The block behind `ENC_BLOCK`: loaded, hashed and decorrelated (47_encoder.md R343, R344). -/

namespace Sys2Proof.Machine

variable {s t u v : State}

/-! ### Loading -/

theorem loadRows_getD : ∀ (rows vs : List (List Int)) (c : Nat), vs.length ≤ rows.length → c < vs.length →
    (loadRows rows vs).getD c [] = overwrite (rows.getD c []) (vs.getD c [])
  | [], _ :: _, _, h, _ => by simp at h
  | _, [], _, _, h => by simp at h
  | row :: rows, v :: vs, 0, _, _ => rfl
  | row :: rows, v :: vs, c + 1, h, hc => loadRows_getD rows vs c (Nat.le_of_succ_le_succ h) (Nat.lt_of_succ_lt_succ hc)

/-- The block in hand once it is loaded. -/
theorem loaded_row {vs : List (List Int)} {n : Nat} (smp : u.smp = loadRows s.smp vs) (room : vs.length ≤ s.smp.length)
    (sizes : ∀ row ∈ vs, row.length = n) {c : Nat} (hc : c < vs.length) :
    (u.row c).take n = vs[c] ∧ n ≤ (u.row c).length := by
  have row : u.row c = overwrite (s.row c) vs[c] := by
    rw [State.row, smp, loadRows_getD _ _ _ room hc, List.getD_eq_getElem vs [] hc]
  have size := sizes vs[c] (List.getElem_mem hc)
  rw [row]
  exact ⟨size ▸ overwrite_take _ _, size ▸ overwrite_length _ _⟩

theorem loaded_block {vs : List (List Int)} {n : Nat} (smp : u.smp = loadRows s.smp vs) (room : vs.length ≤ s.smp.length)
    (sizes : ∀ row ∈ vs, row.length = n) : u.block vs.length n = vs := by
  unfold State.block
  refine List.ext_getElem (by simp) fun c h1 h2 => ?_
  rw [List.getElem_map, List.getElem_range, (loaded_row smp room sizes h2).1]

/-! ### The channel assignment -/

/-- The assignments that `CH_DECORR_FWD` takes for a count of channels (R344). -/
def Assigned (ca ch : Nat) : Prop := (ca ≤ 7 ∧ ca + 1 = ch) ∨ ((ca = 8 ∨ ca = 9 ∨ ca = 10) ∧ ch = 2)

theorem Assigned.channelsOf_eq {ca ch : Nat} (h : Assigned ca ch) : channelsOf ca = ch := by
  unfold Assigned at h
  unfold channelsOf
  split <;> omega

theorem Assigned.le {ca ch : Nat} (h : Assigned ca ch) : ca ≤ 10 := by
  unfold Assigned at h
  omega

theorem chooseAssignment_ok (sel : Selections) {cfg : EncConfig} {n : Nat} (accepted : ConfigAccepted cfg) (mode : s.mode = .encode)
    (hcfg : s.cfg = some cfg) (hch : s.fh.channels = some cfg.channels) (hn : s.fh.blocksize = some n)
    (long : ∀ c, c < cfg.channels → n ≤ (s.row c).length) :
    ∃ ca u, chooseAssignment sel cfg s = .ok ca u ∧ Assigned ca cfg.channels ∧ Coded s u [] := by
  rw [chooseAssignment]
  by_cases trial : cfg.channels = 2 ∧ cfg.stereoTrial = true
  · have two := trial.1
    rw [two] at hch long
    rw [if_pos trial]
    refine ⟨_, _, stereoSelect_ok sel mode hcfg hn (long 0 (by decide)) (long 1 (by decide)) hch, ?_, (List.append_nil _).symm, rfl⟩
    rcases selectStereo_mem sel cfg ((s.row 0).take n) ((s.row 1).take n) with e | stereo
    · exact .inl (by omega)
    · exact .inr ⟨stereo, two⟩
  · have ch1 := accepted.channels1
    have ch8 := accepted.channels8
    rw [if_neg trial]
    exact ⟨_, s, rfl, .inl (by omega), .refl s⟩

/-! ### Decorrelation -/

theorem fitsS_sub {b : Nat} {l r : Int} (hl : fitsS l b) (hr : fitsS r b) : fitsS (l - r) (b + 1) := by
  obtain ⟨pos, l1, l2⟩ := hl
  obtain ⟨_, r1, r2⟩ := hr
  have wide : (2 : Int) ^ (b + 1 - 1) = 2 * 2 ^ (b - 1) := by
    rw [show b + 1 - 1 = (b - 1) + 1 by omega, pow_succ, mul_comm]
  rw [fitsS, wide]
  omega

theorem fitsS_mean {b : Nat} {l r : Int} (hl : fitsS l b) (hr : fitsS r b) : fitsS ((l + r) / 2) b := by
  obtain ⟨pos, l1, l2⟩ := hl
  obtain ⟨_, r1, r2⟩ := hr
  rw [fitsS]
  omega

/-- A decorrelated pair fits the depth of its channels, the side taking one bit more. -/
theorem fitsS_decorrPair {ca b : Nat} (h : ca = 8 ∨ ca = 9 ∨ ca = 10) {l r : Int} (hl : fitsS l b) (hr : fitsS r b) :
    fitsS (decorrPair ca l r).1 (b + sideBit ca 0) ∧ fitsS (decorrPair ca l r).2 (b + sideBit ca 1) := by
  rcases h with rfl | rfl | rfl
  · exact ⟨hl, fitsS_sub hl hr⟩
  · exact ⟨fitsS_sub hl hr, hr⟩
  · exact ⟨fitsS_mean hl hr, fitsS_sub hl hr⟩

theorem fitsS_decorr {ca b : Nat} (h : ca = 8 ∨ ca = 9 ∨ ca = 10) {l r : List Int} (len : r.length = l.length)
    (hl : ∀ v ∈ l, fitsS v b) (hr : ∀ v ∈ r, fitsS v b) :
    (∀ v ∈ (decorr ca l r).1, fitsS v (b + sideBit ca 0)) ∧ ∀ v ∈ (decorr ca l r).2, fitsS v (b + sideBit ca 1) := by
  obtain ⟨len0, len1⟩ := unzip_zipWith_length (decorrPair ca) len
  have pair : ∀ i, i < l.length → fitsS (sampleAt (decorr ca l r).1 i) (b + sideBit ca 0) ∧
      fitsS (sampleAt (decorr ca l r).2 i) (b + sideBit ca 1) := by
    intro i hi
    obtain ⟨at0, at1⟩ := unzip_zipWith_sampleAt (decorrPair ca) len hi
    rw [decorr, at0, at1, sampleAt_of_lt hi, sampleAt_of_lt (len ▸ hi)]
    exact fitsS_decorrPair h (hl _ (List.getElem_mem hi)) (hr _ (List.getElem_mem _))
  exact ⟨forall_mem_of_sampleAt (n := l.length) len0 fun i hi => (pair i hi).1,
    forall_mem_of_sampleAt (n := l.length) len1 fun i hi => (pair i hi).2⟩

section
variable {n ch ca b : Nat} (hn : s.fh.blocksize = some n) (hch : s.fh.channels = some ch) (assigned : Assigned ca ch)
  (rows : ch ≤ s.smp.length) (long : ∀ c, c < ch → n ≤ (s.row c).length)
  (fits : ∀ c, c < ch → ∀ v ∈ (s.row c).take n, fitsS v b)
include hn hch assigned rows long fits

/-- `CH_DECORR_FWD` of a block within its depth: each channel fits its own depth, and the block can be undone (R344, R318). -/
theorem chDecorrFwd_block : ∃ u, chDecorrFwd ca s = .ok () u ∧
    u = { s with smp := u.smp, fh := { s.fh with chanAssign := some ca } } ∧ (∀ c, c < ch → n ≤ (u.row c).length) ∧
    (∀ c, c < ch → ∀ v ∈ (u.row c).take n, fitsS v (b + sideBit ca c)) ∧ undoBlock ca (u.block ch n) = s.block ch n := by
  rcases assigned with ⟨h7, count⟩ | ⟨stereo, two⟩
  · refine ⟨_, chDecorrFwd_independent hn hch h7 count, rfl, long, fun c hc v hv => ?_, ?_⟩
    · rw [sideBit, if_neg (by omega)]
      exact fits c hc v hv
    · refine undoBlock_independent (n := n) h7 fun row mem => ?_
      obtain ⟨c, hc, rfl⟩ := List.mem_map.1 mem
      exact List.length_take_of_le (long c (List.mem_range.1 hc))
  · subst two
    have long0 := long 0 (by decide)
    have long1 := long 1 (by decide)
    have len0 : ((s.row 0).take n).length = n := List.length_take_of_le long0
    have len : ((s.row 1).take n).length = ((s.row 0).take n).length := by rw [len0, List.length_take_of_le long1]
    obtain ⟨fits0, fits1⟩ := fitsS_decorr stereo len (fits 0 (by decide)) (fits 1 (by decide))
    have undone := undoRows_decorr stereo ((s.row 0).take n) ((s.row 1).take n) len
    obtain ⟨lenA, lenB⟩ := unzip_zipWith_length (decorrPair ca) len
    have run := chDecorrFwd_stereo hn hch stereo rfl rows long0 long1
    generalize hA : (decorr ca ((s.row 0).take n) ((s.row 1).take n)).1 = A at *
    generalize hB : (decorr ca ((s.row 0).take n) ((s.row 1).take n)).2 = B at *
    have sizeA : A.length = n := by rw [← hA]; exact lenA.trans len0
    have sizeB : B.length = n := by rw [← hB]; exact lenB.trans len0
    obtain ⟨row0, row1⟩ := withPair_row (s := s) (n := n) (a := A) (b := B) rows
    have two {P : Nat → Prop} (p0 : P 0) (p1 : P 1) : ∀ c, c < 2 → P c := fun c hc => by
      obtain rfl | rfl : c = 0 ∨ c = 1 := by omega
      · exact p0
      · exact p1
    have take0 : (((s.withPair n A B).row 0).take n) = A := by rw [row0, List.take_left' sizeA]
    have take1 : (((s.withPair n A B).row 1).take n) = B := by rw [row1, List.take_left' sizeB]
    have longP : ∀ c, c < 2 → n ≤ ((s.withPair n A B).row c).length :=
      two (by rw [row0, List.length_append]; omega) (by rw [row1, List.length_append]; omega)
    have fitsP : ∀ c, c < 2 → ∀ v ∈ ((s.withPair n A B).row c).take n, fitsS v (b + sideBit ca c) :=
      two (by rw [take0]; exact fits0) (by rw [take1]; exact fits1)
    have undo : undoBlock ca ((s.withPair n A B).block 2 n) = s.block 2 n := by
      rw [block_two rfl, block_two rfl, take0, take1, undoBlock, undone]
    exact ⟨_, run, rfl, longP, fitsP, undo⟩

end

end Sys2Proof.Machine

/-! PROOFS. O48: `ENC_BLOCK` writes a frame that `DEC_FRAME` reads back into the block (47_encoder.md R349). -/

namespace Sys2Proof.Machine

variable {s t u v d : State}

/-! ### The channels as coded -/

section
variable (sel : Selections) (cfg : EncConfig) (h : FrameHead) (row : Nat → List Int) (c k : Nat)

theorem codedChannels_length : (codedChannels sel cfg h row c k).length = k := by
  rw [codedChannels, List.length_map, List.length_range']

theorem codedChannels_getElem? {i : Nat} (hi : i < k) : (codedChannels sel cfg h row c k)[i]? =
    some (channelOf sel cfg (h.bps + sideBit h.chanAssign (c + i)) ((row (c + i)).take h.blocksize)) := by
  rw [codedChannels, List.getElem?_map, List.getElem?_range' hi, Nat.one_mul, Option.map_some]

end

section
variable (sel : Selections) {cfg : EncConfig} (accepted : ConfigAccepted cfg) {h : FrameHead} {ch : Nat}
  (ready : ReadyToCode s cfg h ch) (bps : h.bps = cfg.bps)
include accepted ready bps

theorem codedChannels_ok {c : Nat} (hc : c < ch) :
    (channelOf sel cfg (h.bps + sideBit h.chanAssign c) ((s.row c).take h.blocksize)).samples = (s.row c).take h.blocksize ∧
      ChannelOk h c (channelOf sel cfg (h.bps + sideBit h.chanAssign c) ((s.row c).take h.blocksize)) :=
  channelOf_ok sel accepted (by have := accepted.bps4; omega) (List.length_take_of_le (ready.long c hc)) (ready.fits c hc)

theorem codedChannels_channelOk : ∀ c k, (codedChannels sel cfg h s.row 0 ch)[c]? = some k → ChannelOk h c k := by
  intro c k hk
  have hc : c < ch := by
    have := (List.getElem?_eq_some_iff.1 hk).1
    rwa [codedChannels_length] at this
  rw [codedChannels_getElem? sel cfg h s.row 0 ch hc, Nat.zero_add, Option.some.injEq] at hk
  exact hk ▸ (codedChannels_ok sel accepted ready bps hc).2

theorem codedChannels_block : (codedChannels sel cfg h s.row 0 ch).map CodedChannel.samples = s.block ch h.blocksize := by
  rw [codedChannels, State.block, List.map_map, List.range_eq_range']
  refine List.map_congr_left fun c hc => (codedChannels_ok sel accepted ready bps ?_).1
  rw [← List.range_eq_range'] at hc
  exact List.mem_range.1 hc

end

/-! ### The block -/

/-- A frame that stands for a block (R349). -/
structure EncodedFrame (cfg : EncConfig) (blk : PcmIn) (h : FrameHead) (ks : List CodedChannel) : Prop where
  writable : h.Writable
  channels : channelsOf h.chanAssign = cfg.channels
  blocksize : h.blocksize = blk.blocksize
  sampleRate : h.sampleRate = cfg.sampleRate
  bps : h.bps = cfg.bps
  count : ks.length = cfg.channels
  ok : ∀ c k, ks[c]? = some k → ChannelOk h c k
  block : decodedBlock h.chanAssign ks = blk.samples

/-- The block at the head of `PCM_IN` is loaded: what its coding needs of the state (R343). -/
structure Loaded (cfg : EncConfig) (blk : PcmIn) (s u : State) : Prop where
  mode : u.mode = .encode
  config : u.cfg = some cfg
  channels : u.fh.channels = some cfg.channels
  bps : u.fh.bps = some cfg.bps
  blocksize : u.fh.blocksize = some blk.blocksize
  sampleRate : u.fh.sampleRate = some cfg.sampleRate
  smp : u.smp = loadRows s.smp blk.samples
  out : u.out = s.out
  frames : u.encFrameNo = s.encFrameNo
  samples : u.encSamples = s.encSamples

theorem Loaded.coded {cfg : EncConfig} {blk : PcmIn} (h : Loaded cfg blk s u) (k : Coded u v []) : Loaded cfg blk s v := by
  have mode := congrArg State.mode k.only
  have config := congrArg State.cfg k.only
  have fh := congrArg State.fh k.only
  have smp := congrArg State.smp k.only
  have frames := congrArg State.encFrameNo k.only
  have samples := congrArg State.encSamples k.only
  dsimp only at mode config fh smp frames samples
  obtain ⟨h1, h2, h3, h4, h5, h6, h7, h8, h9, h10⟩ := h
  exact ⟨by rwa [mode], by rwa [config], by rwa [fh], by rwa [fh], by rwa [fh], by rwa [fh], by rwa [smp],
    by rw [k.out, List.append_nil, h8], by rwa [frames], by rwa [samples]⟩

theorem Loaded.room {cfg : EncConfig} {blk : PcmIn} (loaded : Loaded cfg blk s u) (accepted : ConfigAccepted cfg)
    (eight : s.smp.length = 8) : cfg.channels ≤ u.smp.length := by
  rw [loaded.smp, loadRows_length, eight]
  exact accepted.channels8

section
variable (sel : Selections) {cfg : EncConfig} {blk : PcmIn} (accepted : ConfigAccepted cfg) (eight : s.smp.length = 8)
  (count : blk.samples.length = cfg.channels) (sizes : ∀ row ∈ blk.samples, row.length = blk.blocksize)
  (fits : ∀ row ∈ blk.samples, ∀ v ∈ row, fitsS v cfg.bps)
include accepted eight count sizes

section
variable (loaded : Loaded cfg blk s u)
include loaded

theorem Loaded.row {c : Nat} (hc : c < cfg.channels) :
    (u.row c).take blk.blocksize ∈ blk.samples ∧ blk.blocksize ≤ (u.row c).length := by
  have room := accepted.channels8
  obtain ⟨take, long⟩ := loaded_row loaded.smp (by omega) sizes (count ▸ hc)
  exact ⟨take ▸ List.getElem_mem _, long⟩

theorem Loaded.block : u.block cfg.channels blk.blocksize = blk.samples := by
  have room := accepted.channels8
  rw [← count]
  exact loaded_block loaded.smp (by omega) sizes

include fits

/-- The frame of a loaded block under an assignment (R344, R345). -/
theorem assembleFrame_loaded {ca : Nat} (assigned : Assigned ca cfg.channels) (aligned : s.out.length % 8 = 0)
    (n1 : 1 ≤ blk.blocksize) (sized : blk.blocksize ≤ cfg.maxBlocksize) (frames : s.encFrameNo < 2 ^ 31)
    (samples : s.encSamples < 2 ^ 36) :
    ∃ len t h ks, (do chDecorrFwd ca; assembleFrame sel : Op Nat) u = .ok len t ∧ t.out = s.out ++ frameBits h ks ∧
      EncodedFrame cfg blk h ks := by
  have row := fun {c} => loaded.row (c := c) accepted eight count sizes
  obtain ⟨w, run, hw, long, fit, undone⟩ := chDecorrFwd_block loaded.blocksize loaded.channels assigned
    (loaded.room accepted eight) (fun c hc => (row hc).2) (fun c hc => fits _ (row hc).1)
  rw [loaded.block accepted eight count sizes] at undone
  obtain ⟨h, hh⟩ : ∃ h, h = frameHead cfg w blk.blocksize ca := ⟨_, rfl⟩
  have size : h.blocksize = blk.blocksize := by rw [hh, frameHead_blocksize]
  have rate : h.sampleRate = cfg.sampleRate := by rw [hh, frameHead_sampleRate]
  have assign : h.chanAssign = ca := by rw [hh, frameHead_chanAssign]
  have bps : h.bps = cfg.bps := by rw [hh, frameHead_bps]
  have numbers : w.encFrameNo = s.encFrameNo ∧ w.encSamples = s.encSamples := by
    rw [hw]
    exact ⟨loaded.frames, loaded.samples⟩
  have writable : h.Writable := by
    rw [hh]
    exact frameHead_writable accepted n1 sized (by omega) (by omega) assigned.le
  have ready : ReadyToCode w cfg h cfg.channels := by
    refine ⟨?_, ?_, ?_, ?_, ?_, by rwa [size], by rwa [size, assign, bps]⟩
    · rw [hw]; exact loaded.mode
    · rw [hw]; exact loaded.config
    · rw [hw]; exact loaded.channels
    · rw [hw, size]; exact loaded.blocksize
    · rw [hw, assign]
  have out : w.out = s.out := by rw [hw]; exact loaded.out
  obtain ⟨len, t, assemble, frame⟩ := assembleFrame_ok sel accepted hh ready (by rw [out]; exact aligned)
    (by rw [hw]; exact loaded.sampleRate) (by rw [hw]; exact loaded.bps) writable
  rw [out] at frame
  refine ⟨len, t, h, _, (bind_ok run).trans assemble, frame, writable, by rw [assign, assigned.channelsOf_eq], size, rate, bps,
    codedChannels_length .., codedChannels_channelOk sel accepted ready bps, ?_⟩
  rw [decodedBlock_eq, codedChannels_block sel accepted ready bps, assign, size, undone]

end

include fits

/-- What `ENC_BLOCK` does with a block it accepts: one frame that stands for the block is appended (R343 to R345). -/
theorem encodeBlock_ok (rest : List PcmIn) (mode : s.mode = .encode) (hcfg : s.cfg = some cfg) (going : s.md5.done = false)
    (aligned : s.out.length % 8 = 0) (n1 : 1 ≤ blk.blocksize) (sized : blk.blocksize ≤ cfg.maxBlocksize)
    (frames : s.encFrameNo < 2 ^ 31) (samples : s.encSamples < 2 ^ 36) :
    ∃ len t h ks, encodeBlock sel cfg blk rest s = .ok len t ∧ t.out = s.out ++ frameBits h ks ∧ EncodedFrame cfg blk h ks := by
  let loadedState : State :=
    { s with
      pcmIn := rest
      smp := loadRows s.smp blk.samples
      fh := { s.fh with
        channels := some cfg.channels
        bps := some cfg.bps
        blocksize := some blk.blocksize
        sampleRate := some cfg.sampleRate
        valid := true } }
  obtain ⟨u, hu⟩ : ∃ u, u = loadedState := ⟨_, rfl⟩
  have loaded : Loaded cfg blk s u := by
    rw [hu]
    exact ⟨mode, hcfg, rfl, rfl, rfl, rfl, rfl, rfl, rfl, rfl⟩
  have row := fun {c} => loaded.row (c := c) accepted eight count sizes
  have hashed : md5UpdatePcm u = .ok () { u with md5 := md5Absorb u.md5 (hashBytes blk.samples blk.blocksize cfg.bps) } := by
    rw [md5UpdatePcm_run loaded.channels loaded.blocksize (.inr ⟨loaded.mode, cfg, loaded.config, rfl⟩) (by rw [hu])
      (loaded.room accepted eight) (fun c hc => (row hc).2), loaded.block accepted eight count sizes, check_bind_true _ _ _ fits,
      md5UpdateBytes, look_bind, check_bind_true _ _ _ (by rw [hu]; exact going), update_run]
  obtain ⟨v, hv⟩ : ∃ v : State, v = { u with md5 := md5Absorb u.md5 (hashBytes blk.samples blk.blocksize cfg.bps) } := ⟨_, rfl⟩
  have later : Loaded cfg blk s v := by
    rw [hv]
    exact ⟨loaded.mode, loaded.config, loaded.channels, loaded.bps, loaded.blocksize, loaded.sampleRate, loaded.smp, loaded.out,
      loaded.frames, loaded.samples⟩
  have rowV := fun {c} => later.row (c := c) accepted eight count sizes
  obtain ⟨ca, w, choose, assigned, regs⟩ := chooseAssignment_ok sel accepted later.mode later.config later.channels later.blocksize
    (fun c hc => (rowV hc).2)
  obtain ⟨len, t, h, ks, assemble, frame⟩ := assembleFrame_loaded sel accepted eight count sizes fits (later.coded regs) assigned
    aligned n1 sized frames samples
  refine ⟨len, t, h, ks, ?_, frame⟩
  rw [← hv] at hashed
  rw [encodeBlock, update_bind]
  change (md5UpdatePcm >>= fun _ => chooseAssignment sel cfg >>= fun ca => chDecorrFwd ca >>= fun _ => assembleFrame sel : Op Nat)
    loadedState = _
  rw [← hu]
  exact (bind_ok hashed).trans ((bind_ok choose).trans assemble)

end

/-! ### The frame decoded -/

theorem encBlock_frame {sel : Selections} {cfg : EncConfig} {blk : PcmIn} {rest : List PcmIn}
    (acceptable : BlockAcceptable s cfg blk rest) :
    ∃ len t h ks, encBlock sel s = .ok len t ∧ t.out = s.out ++ frameBits h ks ∧ EncodedFrame cfg blk h ks := by
  obtain ⟨_, mode, ready, hcfg, valid, queue, low, high, samples, frames, count, rows, eight, going, aligned⟩ := acceptable
  have accepted := accepted_of_configError valid
  have n1 := accepted.minBlocksize1
  have fits : ∀ row ∈ blk.samples, ∀ v ∈ row, fitsS v cfg.bps := fun row mem => (rows row mem).2
  obtain ⟨len, t, h, ks, run, out, frame⟩ := encodeBlock_ok sel accepted eight count (fun row mem => (rows row mem).1) fits rest mode
    hcfg going aligned (by omega) high frames (by omega)
  refine ⟨len, countFrame blk.blocksize len t, h, ks, ?_, ?_, frame⟩
  · rw [encBlock_run sel mode ready hcfg queue ⟨low, high⟩ ⟨samples, frames⟩ fits, bind_ok (asIssued_ok run), update_bind]
    rfl
  · rw [← out, countFrame]
    split <;> rfl

theorem frameBits_length (h : FrameHead) (ks : List CodedChannel) :
    (frameBits h ks).length = 8 * (frameBody h ks (framePad h ks)).length + 16 := by
  rw [frameBits, List.length_append, bytesBits_length, natBits_length]

/-- Settles O48: the frame by `encBlock_frame`, its decoding by `decFrame_ok`. -/
theorem encodedFrameDecodesToItsBlock : Obligations.EncodedFrameDecodesToItsBlock := by
  unfold Obligations.EncodedFrameDecodesToItsBlock
  intro s t d cfg blk rest si acceptable encoded live mode aligned valid hsi eight channels bps rate big atFrame
  obtain ⟨len, w, h, ks, run, out, frame⟩ := encBlock_frame (sel := Config.selections) acceptable
  obtain ⟨liveS, _, _, _, _, _, _, high, _, _, _, blockRows, _⟩ := acceptable
  have whole := issue_ok (side := .write) (op := do let len ← encBlock Config.selections; pure (.nat len)) liveS (bind_ok run)
  have outT : t.out = s.out ++ frameBits h ks := by
    obtain rfl : _ = t := Host.Outcome.next.inj (whole.symm.trans encoded)
    exact out
  have fits := fun row mem => (blockRows row mem).2
  obtain ⟨writable, chans, size, sampleRate, depth, count, ok, block⟩ := frame
  have ready : ReadyFor d si h := ⟨live, mode, aligned, valid, hsi, eight, writable, by rw [chans, channels], by rw [depth, bps],
    by rw [sampleRate, rate], by rw [size, big]; exact high⟩
  rw [outT, List.drop_left] at atFrame
  obtain ⟨u, decoded, only, pos, rows, fh, crcs⟩ := decFrame_ok ready (by rw [count, chans]) ok (framePad_length h ks)
    (fun x mem => List.eq_of_mem_replicate mem) (crc16Of _).isLt atFrame rfl (by rw [block, depth]; exact fits)
  refine ⟨_, issue_unit_ok live decoded, rfl, ?_, ?_, ?_, ?_, ?_, ?_, ?_, only.answered⟩
  · have place : u.brPos + s.out.length = d.brPos + t.out.length := by
      rw [pos, outT, List.length_append, frameBits_length]
      omega
    exact place
  · exact congrArg FhRegs.valid fh
  · exact (congrArg FhRegs.blocksize fh).trans (congrArg some size)
  · exact (congrArg FhRegs.channels fh).trans (congrArg some chans)
  · exact (congrArg FhRegs.bps fh).trans (congrArg some depth)
  · exact (congrArg FhRegs.sampleRate fh).trans (congrArg some sampleRate)
  · rw [count, size, block] at rows
    exact rows

end Sys2Proof.Machine

/-! PROOFS. The output port (20_memory.md R82), the queues of the host (R83), and the end of an encoder session (47_encoder.md
R347). -/

namespace Sys2Proof.Machine

variable {s : State}

/-! ### The output pulled -/

/-- A partial byte behind whole bytes is no completed byte (10_state.md R25). -/
theorem bitsBytes_partial (bs : List Byte) {rest : List Bool} (short : rest.length < 8) : bitsBytes (bytesBits bs ++ rest) = bs := by
  induction bs with
  | nil =>
    rw [bytesBits, List.flatMap_nil, List.nil_append]
    unfold bitsBytes
    split
    · simp only [List.length_cons] at short
      omega
    · rfl
  | cons b bs ih =>
    rw [bytesBits, List.flatMap_cons, List.append_assoc]
    exact (bitsBytes_byteBits b _).trans (congrArg (b :: ·) ih)

/-- The completed bytes hold the bits up to the last byte boundary. -/
theorem bytesBits_bitsBytes_take (bits : List Bool) : bytesBits (bitsBytes bits) = bits.take (8 * (bits.length / 8)) := by
  have front : (bits.take (8 * (bits.length / 8))).length % 8 = 0 := by
    rw [List.length_take]
    omega
  have back : (bits.drop (8 * (bits.length / 8))).length < 8 := by
    rw [List.length_drop]
    omega
  have bytes : bitsBytes bits = bitsBytes (bits.take (8 * (bits.length / 8))) := by
    conv_lhs => rw [← List.take_append_drop (8 * (bits.length / 8)) bits, ← bytesBits_bitsBytes front, bitsBytes_partial _ back]
  rw [bytes, bytesBits_bitsBytes front]

/-- The completed bytes of `W` from one on, as bits. -/
theorem bytesBits_outBytes (s : State) (from_ : Nat) :
    bytesBits (s.outBytes from_) = (s.out.take (8 * (s.out.length / 8))).drop (8 * from_) := by
  have bound : 8 * ((s.out.length - 8 * from_) / 8) = 8 * (s.out.length / 8) - 8 * from_ := by omega
  rw [State.outBytes, bytesBits_bitsBytes_take, List.length_drop, bound, List.drop_take]

/-- Settles O7: what is pulled is `outBytes` from `OUT_RD` on, which holds no partial byte. -/
theorem pullTakesTheCompletedBytes : Obligations.PullTakesTheCompletedBytes := by
  unfold Obligations.PullTakesTheCompletedBytes
  exact fun s => ⟨s.outBytes s.outRd, rfl, bytesBits_outBytes s s.outRd⟩

/-! ### The block pushed -/

theorem payloadSamples_ok {channels n : Nat} {rows : List (List Int)} (payload : s.payload = .samples rows)
    (shape : rows.length = channels ∧ ∀ row ∈ rows, row.length = n) : payloadSamples channels n s = .ok rows s := by
  simp only [payloadSamples, payload]
  exact if_pos shape

theorem payloadSamples_refused {channels n : Nat}
    (h : ∀ rows, s.payload = .samples rows → ¬ (rows.length = channels ∧ ∀ row ∈ rows, row.length = n)) :
    payloadSamples channels n s = .error (.exc (.logic .badOperand)) s := by
  cases payload : s.payload with
  | samples rows =>
    simp only [payloadSamples, payload]
    exact if_neg (h rows payload)
  | none | bytes _ | blocks _ | config _ => simp only [payloadSamples, payload]

/-- What `PCM_PUSH` does in a ready session (R83). -/
def pushBlock (n : Nat) : Op Result := do
  check (Config.blocksizeMin ≤ n ∧ n ≤ Config.blocksizeMax) (.logic .badOperand)
  let cfg ← readReg State.cfg
  let rows ← payloadSamples cfg.channels n
  update fun t => { t with pcmIn := t.pcmIn ++ [⟨n, rows⟩] }
  pure .none

theorem exec_pcmPush (n : Nat) (s : State) : exec (.pcmPush n) s =
    issue .write (do needMode .encode; let e ← look State.estate; check (e = EState.ready) (.logic .badMode); pushBlock n) s := rfl

section
variable {n : Nat}

theorem pushBlock_size (h : ¬ (1 ≤ n ∧ n ≤ 65535)) : pushBlock n s = .error (.exc (.logic .badOperand)) s :=
  check_bind_false _ _ _ h

variable {cfg : EncConfig} (hcfg : s.cfg = some cfg)
include hcfg

theorem pushBlock_sized (sized : 1 ≤ n ∧ n ≤ 65535) : pushBlock n s =
    (do let rows ← payloadSamples cfg.channels n
        update fun t => { t with pcmIn := t.pcmIn ++ [⟨n, rows⟩] }
        pure .none : Op Result) s :=
  (check_bind_true _ _ _ sized).trans (bind_ok (readReg_some hcfg))

theorem pushBlock_ok {rows : List (List Int)} (sized : 1 ≤ n ∧ n ≤ 65535) (payload : s.payload = .samples rows)
    (shape : rows.length = cfg.channels ∧ ∀ row ∈ rows, row.length = n) :
    pushBlock n s = .ok .none { s with pcmIn := s.pcmIn ++ [⟨n, rows⟩] } :=
  (pushBlock_sized hcfg sized).trans (bind_ok (payloadSamples_ok payload shape))

theorem pushBlock_refused (h : n = 0 ∨ 65535 < n ∨
      (∀ rows, s.payload = .samples rows → rows.length ≠ cfg.channels ∨ ∃ row ∈ rows, row.length ≠ n)) :
    pushBlock n s = .error (.exc (.logic .badOperand)) s := by
  by_cases sized : 1 ≤ n ∧ n ≤ 65535
  · have shape := (h.resolve_left (by omega)).resolve_left (by omega)
    refine (pushBlock_sized hcfg sized).trans (bind_error (payloadSamples_refused fun rows payload ⟨count, whole⟩ => ?_))
    rcases shape rows payload with other | ⟨row, mem, ragged⟩
    · exact other count
    · exact ragged (whole row mem)
  · exact pushBlock_size sized

end

/-- Settles O8: the four pops, and what `PCM_PUSH` queues and refuses. -/
theorem hostQueues : Obligations.HostQueues := by
  unfold Obligations.HostQueues
  refine ⟨fun s => ⟨rfl, rfl, rfl, rfl⟩, fun s n live h => ?_, fun s cfg n live hcfg =>
    ⟨fun rows mode ready low high payload count whole => ?_, fun mode ready h => ?_⟩⟩ <;> rw [exec_pcmPush]
  · exact issue_exc live (needReady_refused _ h)
  · exact issue_ok live ((needReady_ok _ mode ready).trans (pushBlock_ok hcfg ⟨low, high⟩ payload ⟨count, whole⟩))
  · exact issue_exc live ((needReady_ok _ mode ready).trans (pushBlock_refused hcfg h))

/-! ### The final StreamInfo -/

theorem streamInfoBits_length (si : StreamInfo) : si.bits.length = 272 := by
  simp only [StreamInfo.bits, List.length_append, natBits_length]

/-- The body of a StreamInfo is its bits in 34 bytes (30_encoding.md R106). -/
theorem streamInfoBody (si : StreamInfo) : (bitsBytes si.bits).length = 34 ∧ bytesBits (bitsBytes si.bits) = si.bits := by
  have whole : bytesBits (bitsBytes si.bits) = si.bits := bytesBits_bitsBytes (by rw [streamInfoBits_length])
  have count := congrArg List.length whole
  rw [bytesBits_length, streamInfoBits_length] at count
  exact ⟨by omega, whole⟩

/-- `MD5_FINAL` completes a hash that is not done, and answers its digest (42_crc_hash.md R207). -/
theorem md5Final_going (going : s.md5.done = false) :
    md5Final s = .ok (md5Digest (md5Absorb s.md5 (md5Padding s.md5.len))) { s with md5 := md5Finish s.md5 } := by
  rw [md5Final, update_bind, if_neg (by simp [going])]
  exact readReg_some rfl

/-- The final StreamInfo of a session in `s`, with the digest of its samples (R347). -/
def State.finalInfo (s : State) (si : StreamInfo) (digest : BitVec 128) : StreamInfo :=
  { si with
    md5 := digest
    totalSamples := s.encSamples
    minFramesize := if 0 < s.encFrameNo then s.encMinFs else si.minFramesize
    maxFramesize := if 0 < s.encFrameNo then s.encMaxFs else si.maxFramesize }

/-- The frame sizes stay as they are only where there was no frame. -/
theorem finalInfo_eq (s : State) (si : StreamInfo) (digest : BitVec 128) : s.finalInfo si digest =
    { si with
      md5 := digest
      totalSamples := s.encSamples
      minFramesize := if s.encFrameNo = 0 then si.minFramesize else s.encMinFs
      maxFramesize := if s.encFrameNo = 0 then si.maxFramesize else s.encMaxFs } := by
  rcases Nat.eq_zero_or_pos s.encFrameNo with empty | counted
  · simp [State.finalInfo, empty]
  · simp [State.finalInfo, counted, counted.ne']

theorem encFinish_ok {si final : StreamInfo} (mode : s.mode = .encode) (ready : s.estate = .ready) (hsi : s.si = some si)
    (going : s.md5.done = false) (hf : s.finalInfo si (md5Digest (md5Absorb s.md5 (md5Padding s.md5.len))) = final) :
    encFinish s = .ok () { s with
      md5 := md5Finish s.md5
      si := some final
      siOut := s.siOut ++ [bitsBytes final.bits]
      estate := .finished } := by
  subst hf
  rw [encFinish, needReady_ok _ mode ready]
  exact asIssued_ok ((bind_ok (md5Final_going going)).trans
    (bind_ok (readReg_some (s := { s with md5 := md5Finish s.md5 }) hsi)))

/-- Settles O51: the body put on `SI_OUT` is that of the final StreamInfo (`encFinish_ok`, `streamInfoBody`). -/
theorem finishGivesTheFinalStreamInfo : Obligations.FinishGivesTheFinalStreamInfo := by
  unfold Obligations.FinishGivesTheFinalStreamInfo
  rintro s si e live mode ready hsi going rfl - - - - final
  obtain ⟨len, bits⟩ := streamInfoBody final
  exact ⟨bitsBytes final.bits, len, bits, issue_unit_ok live (encFinish_ok mode ready hsi going (finalInfo_eq s si _))⟩

end Sys2Proof.Machine

/-! PROOFS. Words and instructions (30_encoding.md R100 to R135): decode of encode, encode of decode, and words written out; and the
step that runs an issued word (70_reset_and_hazards.md R422). -/

namespace Sys2Proof

/-! ### Fields -/

theorem fitsWidth_iff {bits width : Nat} : fitsWidth bits width = true ↔ bits < 2 ^ width := by
  have halves : 2 ^ width = 2 ^ (width - width / 2) * 2 ^ (width / 2) := by
    rw [← Nat.pow_add, Nat.sub_add_cancel (Nat.div_le_self width 2)]
  rw [fitsWidth, decide_eq_true_iff, halves, Nat.div_lt_iff_lt_mul (Nat.two_pow_pos _)]

theorem field_lt (w lo width : Nat) : field w lo width < 2 ^ width := Nat.mod_lt _ (Nat.two_pow_pos width)

theorem field_all {w width : Nat} (h : w < 2 ^ width) : field w 0 width = w := by
  rw [field, Nat.pow_zero, Nat.div_one, Nat.mod_eq_of_lt h]

/-- Two fields side by side are one field. -/
theorem field_merge {w lo m hi n : Nat} (side : lo + m = hi) :
    field w hi n * 2 ^ hi + field w lo m * 2 ^ lo = field w lo (m + n) * 2 ^ lo := by
  subst side
  rw [field, field, field, Nat.pow_add, Nat.pow_add, ← Nat.div_div_eq_div_mul, Nat.mod_mul]
  ring

/-- The last field stands at bit 0. -/
theorem field_last {w hi n width : Nat} (fits : w < 2 ^ width) (side : hi + n = width) :
    field w hi n * 2 ^ hi + field w 0 hi = w := by
  subst side
  have merged := field_merge (w := w) (n := n) (Nat.zero_add hi)
  rwa [field_all fits, Nat.pow_zero, Nat.mul_one, Nat.mul_one] at merged

/-- Two's complement in 64 bits undone (00_scope.md R13). -/
theorem sext64_tc64 {v : Int} (h : fitsB64 v) : sext64 (tc64 v) = v := by
  obtain ⟨low, high⟩ := h
  unfold sext64 tc64
  split <;> omega

theorem tc64_sext64 {b : Nat} (h : b < 2 ^ 64) : tc64 (sext64 b) = b := by
  unfold sext64 tc64
  split <;> omega

theorem sext64_fits {b : Nat} (h : b < 2 ^ 64) : fitsB64 (sext64 b) := by
  unfold sext64
  constructor <;> split <;> omega

/-! ### Commands -/

/-- A command reads back where its operands do (R100). -/
theorem decode_cmd_ok {c : Cmd} {a b : Nat} {i : Instr} (ha : a < 2 ^ 8) (hb : b < 2 ^ 64)
    (h : decodeCmd (Config.opcode c) a b = .ok i) : decode (cmd c a b) = .ok i :=
  (decode_cmd ha hb).trans h

theorem noOperand_ok {c : Cmd} {a b : Nat} {i j : Instr} (h : noOperand c a b i = .ok j) : a = 0 ∧ b = 0 ∧ i = j := by
  unfold noOperand at h
  split at h
  next zero => exact ⟨zero.1, zero.2, Except.ok.inj h⟩
  next => cases h

theorem onlyA_ok {c : Cmd} {a b : Nat} {f : Nat → Instr} {j : Instr} (h : onlyA c a b f = .ok j) : b = 0 ∧ f a = j := by
  unfold onlyA at h
  split at h
  next zero => exact ⟨zero, Except.ok.inj h⟩
  next => cases h

theorem onlyB_ok {c : Cmd} {a b : Nat} {f : Nat → Instr} {j : Instr} (h : onlyB c a b f = .ok j) : a = 0 ∧ f b = j := by
  unfold onlyB at h
  split at h
  next zero => exact ⟨zero, Except.ok.inj h⟩
  next => cases h

/-- The two halves of operand `b` of `RICE_PARAM_SELECT`. -/
theorem halves_split {f c : Nat} (hf : f < 2 ^ 32) (hc : c < 2 ^ 32) :
    field (f * 2 ^ 32 + c) 32 32 = f ∧ field (f * 2 ^ 32 + c) 0 32 = c := by
  unfold field
  omega

/-- What operands decode to carries them, and its command is the one that was decoded (R100). -/
theorem encode_of_decodeCmd {op a b : Nat} {i : Instr} (ha : a < 2 ^ 8) (hb : b < 2 ^ 64) (h : decodeCmd op a b = .ok i) :
    ∃ c, Config.opcode c = op ∧ i.WellFormed ∧ encode i = cmd c a b := by
  cases found : cmdOf op with
  | none =>
    simp only [decodeCmd, found] at h
    cases h
  | some c =>
    refine ⟨c, opcode_of_cmdOf found, ?_⟩
    simp only [decodeCmd, found] at h
    cases c with
    | streamReset | brReadU | brReadS | brReadRice | brReadCoded | sfDec | fixedResidual | sfSelect | chDecorrFwd =>
      obtain ⟨rfl, rfl⟩ := onlyA_ok h
      exact ⟨ha, rfl⟩
    | inPush | pcmPush | brReadBytes | bwWriteUnary | bwWriteBytes | bwWriteCoded | crc8Update | crc16Update | md5Update
    | mdseqCheck | encInit | seekLoad | seekLookup =>
      obtain ⟨rfl, rfl⟩ := onlyB_ok h
      exact ⟨hb, rfl⟩
    | bwWriteU | mbhWrite =>
      cases h
      exact ⟨⟨ha, hb⟩, rfl⟩
    | bwWriteS | bwWriteRice =>
      cases h
      exact ⟨⟨ha, sext64_fits hb⟩, congrArg (cmd _ a) (tc64_sext64 hb)⟩
    | riceParamSelect =>
      cases h
      exact ⟨⟨ha, field_lt b 32 32, field_lt b 0 32⟩, congrArg (cmd _ a) (field_last hb rfl)⟩
    | _ =>
      obtain ⟨rfl, rfl, rfl⟩ := noOperand_ok h
      exact ⟨trivial, rfl⟩

/-! ### Wire structures -/

theorem decode_mbHeader {w : Nat} (h : w < 2 ^ Form.mbHeader.width) :
    decode ⟨.mbHeader, w⟩ = .ok (.wireMbHeader (field w 31 1) (field w 24 7) (field w 0 24)) := if_pos (fitsWidth_iff.2 h)

theorem decode_streamInfo {w : Nat} (h : w < 2 ^ Form.streamInfo.width) : decode ⟨.streamInfo, w⟩ =
    .ok (.wireStreamInfo (field w 256 16) (field w 240 16) (field w 216 24) (field w 192 24) (field w 172 20) (field w 169 3)
      (field w 164 5) (field w 128 36) (field w 0 128)) := if_pos (fitsWidth_iff.2 h)

theorem decode_frameHeader {w : Nat} (h : w < 2 ^ Form.frameHeader.width) : decode ⟨.frameHeader, w⟩ = decodeFrameHeader w :=
  if_pos (fitsWidth_iff.2 h)

theorem decode_subframeHeader {w : Nat} (h : w < 2 ^ Form.subframeHeader.width) :
    decode ⟨.subframeHeader, w⟩ = decodeSubframeHeader w :=
  if_pos (fitsWidth_iff.2 h)

theorem decode_resHeader {w : Nat} (h : w < 2 ^ Form.resHeader.width) :
    decode ⟨.resHeader, w⟩ = .ok (.wireResHeader (field w 4 2) (field w 0 4)) :=
  if_pos (fitsWidth_iff.2 h)

theorem decode_seekPoint {w : Nat} (h : w < 2 ^ Form.seekPoint.width) :
    decode ⟨.seekPoint, w⟩ = .ok (.wireSeekpoint (field w 80 64) (field w 16 64) (field w 0 16)) := if_pos (fitsWidth_iff.2 h)

theorem decode_frameFooter {w : Nat} (h : w < 2 ^ Form.frameFooter.width) :
    decode ⟨.frameFooter, w⟩ = .ok (.wireFrameFooter (field w 0 16)) :=
  if_pos (fitsWidth_iff.2 h)

theorem decodeSubframeHeader_plain : ∀ w < 2, decodeSubframeHeader w = .ok (.wireSfConstant w) ∧
    decodeSubframeHeader (2 + w) = .ok (.wireSfVerbatim w) := by decide

theorem decodeSubframeHeader_fixed : ∀ o < 2 ^ 3, ∀ w < 2, decodeSubframeHeader (16 + o * 2 + w) = .ok (.wireSfFixed o w) := by
  decide

theorem decodeSubframeHeader_lpc : ∀ o < 2 ^ 5, ∀ w < 2, decodeSubframeHeader (64 + o * 2 + w) = .ok (.wireSfLpc o w) := by
  decide

/-- The fixed bits of a frame header stand above its fields (R110). -/
theorem decodeFrameHeader_ok {r v b s c d : Nat} (wf : (Instr.wireFrameHeader r v b s c d).WellFormed) :
    decodeFrameHeader (encode (.wireFrameHeader r v b s c d)).bits = .ok (.wireFrameHeader r v b s c d) := by
  simp only [Instr.WellFormed] at wf
  have sync : startsWithSync (encode (.wireFrameHeader r v b s c d)).bits := by
    simp only [startsWithSync, encode, Config.syncCode, Config.syncLen, field]
    omega
  rw [decodeFrameHeader, if_pos sync]
  simp only [encode, Config.syncCode, Config.syncLen, field]
  congr 2 <;> omega

/-- A frame header is its fields between the fixed bits (R110). -/
theorem frameHeader_join {w : Nat} (fits : w < 2 ^ Form.frameHeader.width) (sync : startsWithSync w) :
    encode (.wireFrameHeader (field w 17 1) (field w 16 1) (field w 12 4) (field w 8 4) (field w 4 4) (field w 1 3)) =
      ⟨.frameHeader, w⟩ := by
  obtain ⟨code, last⟩ := sync
  have whole : field w 18 14 * 2 ^ 18 + field w 17 1 * 2 ^ 17 + field w 16 1 * 2 ^ 16 + field w 12 4 * 2 ^ 12 +
      field w 8 4 * 2 ^ 8 + field w 4 4 * 2 ^ 4 + field w 1 3 * 2 ^ 1 + field w 0 1 = w := by
    rw [field_merge, field_merge, field_merge, field_merge, field_merge, field_merge, field_last fits] <;> rfl
  rw [show field w 18 14 = Config.syncCode from code, last] at whole
  exact congrArg _ whole

theorem encode_of_decodeSubframeHeader {w : Nat} {i : Instr} (h : decodeSubframeHeader w = .ok i) :
    i.WellFormed ∧ encode i = ⟨.subframeHeader, w⟩ := by
  unfold decodeSubframeHeader at h
  split_ifs at h with constant verbatim fixed lpc <;> cases h
  · exact ⟨field_lt w 0 1, congrArg _ (field_all (by omega))⟩
  · exact ⟨field_lt w 0 1, congrArg (Code.mk .subframeHeader) (by unfold field; omega)⟩
  · exact ⟨⟨field_lt w 1 3, field_lt w 0 1⟩, congrArg (Code.mk .subframeHeader) (by unfold field; omega)⟩
  · exact ⟨⟨field_lt w 1 5, field_lt w 0 1⟩, congrArg (Code.mk .subframeHeader) (by unfold field; omega)⟩

theorem streamInfo_join {w : Nat} (fits : w < 2 ^ Form.streamInfo.width) : field w 256 16 * 2 ^ 256 + field w 240 16 * 2 ^ 240 +
    field w 216 24 * 2 ^ 216 + field w 192 24 * 2 ^ 192 + field w 172 20 * 2 ^ 172 + field w 169 3 * 2 ^ 169 +
    field w 164 5 * 2 ^ 164 + field w 128 36 * 2 ^ 128 + field w 0 128 = w := by
  rw [field_merge, field_merge, field_merge, field_merge, field_merge, field_merge, field_merge, field_last fits] <;> rfl

/-! ### Both directions -/

/-- Settles O4: a command by its opcode and operands, a wire structure by its fields. -/
theorem decodeOfEncodeIsTheInstruction : Obligations.DecodeOfEncodeIsTheInstruction := by
  unfold Obligations.DecodeOfEncodeIsTheInstruction
  intro i wf
  cases i with
  | streamReset | brReadU | brReadS | brReadRice | brReadCoded | sfDec | fixedResidual | sfSelect | chDecorrFwd =>
    exact decode_cmd_ok wf (Nat.two_pow_pos 64) rfl
  | inPush | pcmPush | brReadBytes | bwWriteUnary | bwWriteBytes | bwWriteCoded | crc8Update | crc16Update | md5Update
  | mdseqCheck | encInit | seekLoad | seekLookup => exact decode_cmd_ok (Nat.two_pow_pos 8) wf rfl
  | bwWriteU | mbhWrite => exact decode_cmd_ok wf.1 wf.2 rfl
  | bwWriteS a v | bwWriteRice a v =>
    refine decode_cmd_ok wf.1 (Laws.EncodeFits.tc64_lt v) ?_
    conv_rhs => rw [← sext64_tc64 wf.2]
    rfl
  | riceParamSelect a f c =>
    obtain ⟨ha, hf, hc⟩ := wf
    obtain ⟨first, count⟩ := halves_split hf hc
    exact decode_cmd_ok ha (by omega) (congrArg₂ (fun f c => Except.ok (Instr.riceParamSelect a f c)) first count)
  | wireMbHeader l t n =>
    refine (decode_mbHeader (Laws.EncodeFits.wireMbHeader l t n wf)).trans ?_
    simp only [Instr.WellFormed] at wf
    simp only [encode, field]
    congr 2 <;> omega
  | wireStreamInfo a b f g r c d t h =>
    refine (decode_streamInfo (Laws.EncodeFits.wireStreamInfo a b f g r c d t h wf)).trans ?_
    simp only [Instr.WellFormed] at wf
    simp only [encode, field]
    congr 2 <;> omega
  | wireFrameHeader r v b s c d =>
    exact (decode_frameHeader (Laws.EncodeFits.wireFrameHeader r v b s c d wf)).trans (decodeFrameHeader_ok wf)
  | wireSfConstant w =>
    exact (decode_subframeHeader (Laws.EncodeFits.wireSfConstant w wf)).trans (decodeSubframeHeader_plain w wf).1
  | wireSfVerbatim w =>
    exact (decode_subframeHeader (Laws.EncodeFits.wireSfVerbatim w wf)).trans (decodeSubframeHeader_plain w wf).2
  | wireSfFixed o w =>
    exact (decode_subframeHeader (Laws.EncodeFits.wireSfFixed o w wf)).trans (decodeSubframeHeader_fixed o wf.1 w wf.2)
  | wireSfLpc o w =>
    exact (decode_subframeHeader (Laws.EncodeFits.wireSfLpc o w wf)).trans (decodeSubframeHeader_lpc o wf.1 w wf.2)
  | wireResHeader m p =>
    refine (decode_resHeader (Laws.EncodeFits.wireResHeader m p wf)).trans ?_
    simp only [Instr.WellFormed] at wf
    simp only [encode, field]
    congr 2 <;> omega
  | wireSeekpoint s o n =>
    refine (decode_seekPoint (Laws.EncodeFits.wireSeekpoint s o n wf)).trans ?_
    simp only [Instr.WellFormed] at wf
    simp only [encode, field]
    congr 2 <;> omega
  | wireFrameFooter c => exact (decode_frameFooter wf).trans (congrArg _ (congrArg _ (field_all wf)))
  | _ => exact decode_cmd_ok (Nat.two_pow_pos 8) (Nat.two_pow_pos 64) rfl

/-- What decodes fits its format. -/
theorem bits_lt_of_decode {c : Code} {i : Instr} (h : decode c = .ok i) : c.bits < 2 ^ c.form.width := by
  unfold decode at h
  split at h
  next fits => exact fitsWidth_iff.1 fits
  next => cases h

/-- Settles O5: the fields that a word is taken apart into are the word, side by side. -/
theorem encodeOfDecodeIsTheWord : Obligations.EncodeOfDecodeIsTheWord := by
  unfold Obligations.EncodeOfDecodeIsTheWord
  rintro ⟨form, w⟩ i h
  have fits : w < 2 ^ form.width := bits_lt_of_decode h
  cases form with
  | cmd80 =>
    have run : decode ⟨.cmd80, w⟩ = decodeCmd (field w 72 8) (field w 64 8) (field w 0 64) := if_pos (fitsWidth_iff.2 fits)
    obtain ⟨c, opcode, wf, word⟩ := encode_of_decodeCmd (field_lt w 64 8) (field_lt w 0 64) (run.symm.trans h)
    refine ⟨wf, word.trans ?_⟩
    rw [cmd, opcode, field_merge, field_last fits] <;> rfl
  | mbHeader =>
    cases (decode_mbHeader fits).symm.trans h
    refine ⟨⟨field_lt w 31 1, field_lt w 24 7, field_lt w 0 24⟩, ?_⟩
    rw [encode, field_merge, field_last fits] <;> rfl
  | streamInfo =>
    cases (decode_streamInfo fits).symm.trans h
    exact ⟨⟨field_lt w _ _, field_lt w _ _, field_lt w _ _, field_lt w _ _, field_lt w _ _, field_lt w _ _, field_lt w _ _,
      field_lt w _ _, field_lt w _ _⟩, congrArg _ (streamInfo_join fits)⟩
  | frameHeader =>
    have read := (decode_frameHeader fits).symm.trans h
    unfold decodeFrameHeader at read
    split at read
    next sync =>
      cases read
      exact ⟨⟨field_lt w _ _, field_lt w _ _, field_lt w _ _, field_lt w _ _, field_lt w _ _, field_lt w _ _⟩,
        frameHeader_join fits sync⟩
    next => cases read
  | subframeHeader => exact encode_of_decodeSubframeHeader ((decode_subframeHeader fits).symm.trans h)
  | resHeader =>
    cases (decode_resHeader fits).symm.trans h
    exact ⟨⟨field_lt w 4 2, field_lt w 0 4⟩, congrArg _ (field_last fits rfl)⟩
  | seekPoint =>
    cases (decode_seekPoint fits).symm.trans h
    refine ⟨⟨field_lt w 80 64, field_lt w 16 64, field_lt w 0 16⟩, ?_⟩
    rw [encode, field_merge, field_last fits] <;> rfl
  | frameFooter =>
    cases (decode_frameFooter fits).symm.trans h
    exact ⟨field_lt w 0 16, congrArg _ (field_all fits)⟩

/-- Settles O2: each word decoded. -/
theorem writtenOutWordsDecode : Obligations.WrittenOutWordsDecode := by
  unfold Obligations.WrittenOutWordsDecode
  decide +kernel

end Sys2Proof

namespace Sys2Proof.Machine

/-! ### The step -/

/-- A word that is no operation is refused in a live session, whatever is wrong with it (R100). -/
theorem badCommand_live {c : Code} {s : State} (why : Reject) (live : s.faulted = false) :
    Raises (badCommand c why s) s (.neutral c) (.logic .badOperand) := by
  cases why with
  | unusedNotZero op =>
    rw [badCommand]
    split
    · rfl
    · exact issue_exc live rfl
  | tooWide | unknownOpcode | otherStructure => exact issue_exc live rfl

/-- Settles O3: the port empty, or its oldest word decoded, or refused by `badCommand_live`. -/
theorem stepRunsTheIssuedOperation : Obligations.StepRunsTheIssuedOperation := by
  unfold Obligations.StepRunsTheIssuedOperation
  refine fun s c p rest => ⟨fun i port word => ?_, fun why live port word => ?_, fun port => ?_⟩
  · simp only [step, takeIssue, port, word]
  · simp only [step, takeIssue, port, word]
    exact badCommand_live why live
  · simp only [step, takeIssue, port]

end Sys2Proof.Machine

/-! PROOFS. `BR_READ_CODED` (41_bitstream_io.md R168): the number in each form of 30_encoding.md R116, malformed and cut short. -/

namespace Sys2Proof.Machine

variable {s : State}

/-! ### A coded number, byte by byte -/

/-- A continuation byte adds its six bits to the number. -/
def codedValue (hi : Nat) (tail : List Byte) : Nat := tail.foldl (fun v x => v * 64 + x.toNat % 64) hi

/-- Continuation bytes that are there are read; the rest of the number is read behind them. -/
theorem readCodedTail_append (n : Nat) : ∀ (tail : List Byte) (acc : Nat) (s : State), (∀ x ∈ tail, x.toNat / 64 = 2) →
    AtCursor s (bytesBits tail) →
    readCodedTail (tail.length + n) acc s =
      readCodedTail n (codedValue acc tail) { s with brPos := s.brPos + 8 * tail.length }
  | [], acc, s, _, _ => by rw [List.length_nil, Nat.zero_add]; rfl
  | x :: tail, acc, s, marked, h => by
    obtain ⟨first, others⟩ := List.forall_mem_cons.1 marked
    have rest := readCodedTail_append n tail (acc * 64 + x.toNat % 64) _ others h.behindByte
    rw [List.length_cons, Nat.add_right_comm, readCodedTail, bind_ok (readByte_atCursor h), check_bind_true _ _ _ first, rest]
    simp only [codedValue, List.foldl_cons, Nat.add_assoc, Nat.mul_succ, Nat.add_comm 8]

/-- The leading ones of a first byte, as the shift of `codedBytes` makes them. -/
theorem firstByte_eq : ∀ len < 8, 2 ≤ len → 256 - 2 ^ (8 - len) = 0xFF * 2 ^ (8 - len) % 256 := by decide

section
variable {limit len hi : Nat} {b0 : Byte} {tail : List Byte}
  (two : 2 ≤ len) (short : len ≤ limit) (seven : limit ≤ 7) (top : hi < 2 ^ (7 - len))
  (first : b0.toNat = 256 - 2 ^ (8 - len) + hi)
  (marked : ∀ x ∈ tail, x.toNat / 64 = 2)
include two short seven top first marked

/-- A number of `len` bytes whose first byte and some further ones are there: the others are read behind them. -/
theorem readCodedBytes_front {n : Nat} (count : tail.length + 1 + n = len) (h : AtCursor s (bytesBits (b0 :: tail))) :
    readCodedBytes limit s = readCodedTail n (codedValue hi tail) { s with brPos := s.brPos + 8 * (tail.length + 1) } := by
  obtain ⟨lead, value⟩ := leadOnes_first len (by omega) two hi top
  rw [← firstByte_eq len (by omega) two, ← first] at lead value
  rw [Nat.mod_eq_of_lt b0.isLt] at value
  have rest := readCodedTail_append n tail hi _ marked h.behindByte
  rw [readCodedBytes, bind_ok (readByte_atCursor h), lead, if_neg (by omega), check_bind_true _ _ _ (by omega), value,
    show len - 1 = tail.length + n by omega, rest]
  simp only [Nat.add_assoc, Nat.mul_succ, Nat.add_comm 8]

/-- A number that is there. -/
theorem readCodedBytes_whole (count : tail.length = len - 1) (h : AtCursor s (bytesBits (b0 :: tail))) :
    readCodedBytes limit s = .ok (codedValue hi tail) { s with brPos := s.brPos + 8 * len } := by
  rw [readCodedBytes_front two short seven top first marked (n := 0) (by omega) h, show tail.length + 1 = len by omega]
  rfl

/-- A byte that continues no number, in the place of a continuation byte. -/
theorem readCodedBytes_broken {x : Byte} (count : tail.length + 1 < len) (bad : x.toNat / 64 ≠ 2)
    (h : AtCursor s (bytesBits (b0 :: tail ++ [x]))) :
    ∃ t, readCodedBytes limit s = .error (.exc (.sync .badCodedNumber)) t := by
  obtain ⟨n, rfl⟩ : ∃ n, len = tail.length + 1 + (n + 1) := ⟨len - tail.length - 2, by omega⟩
  rw [bytesBits_append] at h
  have last := h.tail
  rw [bytesBits_length, List.length_cons] at last
  rw [readCodedBytes_front two short seven top first marked rfl h.head, readCodedTail, bind_ok (readByte_atCursor last),
    check_bind_false _ _ _ bad]
  exact ⟨_, rfl⟩

/-- A number whose last bytes are not there. -/
theorem readCodedBytes_cut (count : tail.length + 1 < len) (h : bitsFrom s.input s.brPos = bytesBits (b0 :: tail)) :
    ∃ t, readCodedBytes limit s = .error s.want t := by
  obtain ⟨n, rfl⟩ : ∃ n, len = tail.length + 1 + (n + 1) := ⟨len - tail.length - 2, by omega⟩
  have size := congrArg List.length h
  rw [bitsFrom_length, bytesBits_length, List.length_cons] at size
  have lacks : Lacks { s with brPos := s.brPos + 8 * (tail.length + 1) } 8 := by
    dsimp only [Lacks]
    omega
  rw [readCodedBytes_front two short seven top first marked rfl (h ▸ List.prefix_rfl), readCodedTail,
    bind_error (readBits_lacks lacks)]
  exact ⟨_, rfl⟩

end

/-- A number of one byte. -/
theorem readCodedBytes_single {limit : Nat} {b0 : Byte} (small : b0.toNat < 0x80) (h : AtCursor s (bytesBits [b0])) :
    readCodedBytes limit s = .ok b0.toNat { s with brPos := s.brPos + 8 } := by
  rw [readCodedBytes, bind_ok (readByte_atCursor h), leadOnes_single _ (by omega), if_pos rfl]
  rfl

theorem readCodedBytes_lacks {limit : Nat} (h : Lacks s 8) : readCodedBytes limit s = .error s.want s :=
  bind_error (readBits_lacks h)

/-! ### The operation -/

theorem exec_brReadCoded (limit : Nat) (s : State) : exec (.brReadCoded limit) s =
    issue .read (do checkCodedLimit limit; let v ← readCoded limit; pure (.nat v)) s := rfl

section
variable {limit : Nat} {t : State} (live : s.faulted = false) (range : limit = 6 ∨ limit = 7) (aligned : s.brPos % 8 = 0)
include range

theorem brReadCoded_run : (do checkCodedLimit limit; let v ← readCoded limit; pure (.nat v) : Op Result) s =
    (do let v ← readCoded limit; pure (.nat v) : Op Result) s := check_bind_true _ _ _ range

include aligned in
/-- Nothing stays of a number that is not read. -/
theorem brReadCoded_error {e : Stop} (h : readCodedBytes limit s = .error e t) :
    (do checkCodedLimit limit; let v ← readCoded limit; pure (.nat v) : Op Result) s = .error e s := by
  have run : readCoded limit s = .error e s := (bind_ok (readAligned_ok aligned)).trans (by rw [atomically, h])
  exact (brReadCoded_run range).trans (bind_error run)

include live

theorem brReadCoded_unaligned (unaligned : s.brPos % 8 ≠ 0) :
    Raises (exec (.brReadCoded limit) s) s .read (.logic .notAligned) :=
  issue_exc live ((brReadCoded_run range).trans (bind_error (bind_error (readAligned_refused unaligned))))

include aligned

theorem brReadCoded_ok {v : Nat} (h : readCodedBytes limit s = .ok v t) : Answers (exec (.brReadCoded limit) s) t (.nat v) := by
  have run : readCoded limit s = .ok v t := (bind_ok (readAligned_ok aligned)).trans (by rw [atomically, h])
  exact issue_ok live ((brReadCoded_run range).trans (bind_ok run))

theorem brReadCoded_malformed (h : readCodedBytes limit s = .error (.exc (.sync .badCodedNumber)) t) :
    Raises (exec (.brReadCoded limit) s) s .read (.sync .badCodedNumber) :=
  issue_exc live (brReadCoded_error range aligned h)

theorem brReadCoded_starves (h : readCodedBytes limit s = .error s.want t) : Starves (exec (.brReadCoded limit) s) s := by
  have run := brReadCoded_error range aligned h
  constructor <;> intro e <;> rw [State.want, e] at run
  · exact issue_hold live run
  · exact issue_exc live run

end

/-- Settles O12: each form by the bytes that are there (`readCodedBytes_front`). -/
theorem readCodedNumber : Obligations.ReadCodedNumber := by
  unfold Obligations.ReadCodedNumber
  intro s limit live
  have seven : limit = 6 ∨ limit = 7 → limit ≤ 7 := by omega
  refine ⟨fun b0 range aligned small h => ?_, fun len hi b0 tail range aligned two short top first count marked h => ?_,
    fun b0 range aligned bad h => ?_, fun len hi b0 x tail range aligned two short top first count marked bad h => ?_,
    fun len hi b0 tail range aligned two short top first count marked h => ?_, fun range aligned lacks => ?_,
    fun range unaligned => ?_, fun six seven => ?_⟩
  · exact brReadCoded_ok live range aligned (readCodedBytes_single small h)
  · exact brReadCoded_ok live range aligned (readCodedBytes_whole two short (seven range) top first marked count h)
  · refine brReadCoded_malformed live range aligned ?_ (t := { s with brPos := s.brPos + 8 })
    rcases range with rfl | rfl
    · exact readCodedBytes_first (v := 0) (by omega) h
    · exact readCodedBytes_first (v := 1) (by omega) h
  · obtain ⟨t, run⟩ := readCodedBytes_broken two short (seven range) top first marked count bad h
    exact brReadCoded_malformed live range aligned run
  · obtain ⟨t, run⟩ := readCodedBytes_cut two short (seven range) top first marked count h
    exact brReadCoded_starves live range aligned run
  · exact brReadCoded_starves live range aligned (readCodedBytes_lacks lacks)
  · exact brReadCoded_unaligned live range unaligned
  · exact issue_exc live (check_bind_false _ _ _ (not_or.2 ⟨six, seven⟩))

end Sys2Proof.Machine

/-! PROOFS. Fields written one after another, and read back (41_bitstream_io.md R178). -/

namespace Sys2Proof.Machine

variable {s : State}

/-! ### The bits of a field -/

/-- The bits that stand for a field (R171 to R174). -/
def BitField.bits : BitField → List Bool
  | .unsigned n v => natBits n v
  | .signed n v => natBits n (tc n v)
  | .unary q => unaryBits q
  | .rice k r => riceBits k r

/-- The bits of fields in order. -/
def fieldBits (fields : List BitField) : List Bool := fields.flatMap BitField.bits

theorem Answers.answerOf {i : Instr} {s t : State} {r : Result} (h : Answers (exec i s) t r) :
    answerOf i s = some (r, { t with reply := some (.ok r) }) := by
  rw [Machine.answerOf, h]

/-- Writing a field the writer accepts appends its bits. -/
theorem BitField.write_ok {f : BitField} (w : f.Writable) (live : s.faulted = false) :
    Answers (exec f.writeOp s) { s with out := s.out ++ f.bits } .none := by
  cases f with
  | unsigned n v =>
    obtain ⟨h1, h2, fits⟩ := w
    exact issue_ok live ((check_bind_true _ _ _ ⟨h1, h2⟩).trans (bind_ok (writeU_ok h1 fits s)))
  | signed n v =>
    obtain ⟨h1, h2, low, high⟩ := w
    exact issue_ok live ((check_bind_true _ _ _ ⟨h1, h2⟩).trans (bind_ok (writeS_ok ⟨h1, low, high⟩ s)))
  | unary q => exact issue_ok live (check_bind_true _ _ _ w)
  | rice k r =>
    obtain ⟨hk, low, high⟩ := w
    have range : residualOk r := by
      simp only [residualOk, Config.residualMin, Config.residualMax]
      omega
    exact issue_ok live ((check_bind_true _ _ _ hk).trans (bind_ok (check_bind_true _ _ _ range)))

/-- Reading a field whose bits stand at the cursor answers its value. -/
theorem BitField.read_ok {f : BitField} (w : f.Writable) (live : s.faulted = false) (h : AtCursor s f.bits) :
    Answers (exec f.readOp s) { s with brPos := s.brPos + f.bits.length } f.value := by
  cases f with
  | unsigned n v =>
    obtain ⟨h1, h2, fits⟩ := w
    have run := readBits_atCursor h1 h
    rw [Nat.mod_eq_of_lt fits] at run
    rw [bits, natBits_length]
    exact issue_ok live ((check_bind_true _ _ _ ⟨h1, h2⟩).trans (bind_ok run))
  | signed n v =>
    obtain ⟨h1, h2, low, high⟩ := w
    have run := readBits_atCursor h1 h
    rw [Nat.mod_eq_of_lt (tc_lt n v)] at run
    rw [bits, natBits_length, value, ← sext_tc ⟨h1, low, high⟩]
    exact issue_ok live ((check_bind_true _ _ _ ⟨h1, h2⟩).trans (bind_ok run))
  | unary q =>
    rw [bits, unaryBits_length]
    exact issue_ok live (bind_ok (readUnary_atCursor h))
  | rice k r =>
    rw [bits, riceBits_length]
    exact issue_ok live ((check_bind_true _ _ _ w.1).trans (bind_ok (readRice_atCursor h)))

/-! ### Fields in order -/

theorem answersOf_cons {i : Instr} {is : List Instr} {s t u : State} {r : Result} {rs : List Result}
    (first : answerOf i s = some (r, t)) (rest : answersOf is t = some (rs, u)) : answersOf (i :: is) s = some (r :: rs, u) := by
  simp only [answersOf, first, rest, Option.map_some]

/-- Fields written one after another append their bits in order. -/
theorem writes_answer : ∀ (fields : List BitField) (s : State), s.faulted = false → (∀ f ∈ fields, f.Writable) →
    ∃ t, answersOf (fields.map BitField.writeOp) s = some (fields.map fun _ => .none, t) ∧ t.faulted = false ∧
      t.out = s.out ++ fieldBits fields
  | [], s, live, _ => ⟨s, rfl, live, (List.append_nil _).symm⟩
  | f :: rest, s, live, writable => by
    obtain ⟨first, others⟩ := List.forall_mem_cons.1 writable
    obtain ⟨t, run, alive, out⟩ :=
      writes_answer rest { s with out := s.out ++ f.bits, reply := some (.ok .none) } live others
    exact ⟨t, answersOf_cons (BitField.write_ok first live).answerOf run, alive, out.trans (List.append_assoc s.out f.bits _)⟩

/-- Fields that stand at the cursor are read one after another. -/
theorem reads_answer : ∀ (fields : List BitField) (s : State), s.faulted = false → (∀ f ∈ fields, f.Writable) →
    AtCursor s (fieldBits fields) →
    ∃ t, answersOf (fields.map BitField.readOp) s = some (fields.map BitField.value, t) ∧
      t.brPos = s.brPos + (fieldBits fields).length
  | [], s, _, _, _ => ⟨s, rfl, rfl⟩
  | f :: rest, s, live, writable, h => by
    obtain ⟨first, others⟩ := List.forall_mem_cons.1 writable
    rw [fieldBits, List.flatMap_cons] at h
    obtain ⟨t, run, place⟩ :=
      reads_answer rest { s with brPos := s.brPos + f.bits.length, reply := some (.ok f.value) } live others h.tail
    refine ⟨t, answersOf_cons (BitField.read_ok first live h.head).answerOf run, place.trans ?_⟩
    rw [fieldBits, fieldBits, List.flatMap_cons, List.length_append, Nat.add_assoc]

/-- A reader given the bytes of an output padded to whole bytes finds the bits that were written. -/
theorem atCursor_outBytes {w r : State} {bits : List Bool} {pad : Nat} (whole : (bits.length + pad) % 8 = 0)
    (out : w.out = bits ++ List.replicate pad false) (start : r.brPos = 0) (input : r.input = w.outBytes 0) : AtCursor r bits := by
  have back : bytesBits (w.outBytes 0) = w.out := bytesBits_bitsBytes (by
    rw [List.drop_zero, out, List.length_append, List.length_replicate, whole])
  rw [AtCursor, bitsFrom_eq, input, start, back, out]
  exact List.prefix_append _ _

/-- Settles O15: the fields by `writes_answer` and `reads_answer`, the coded number by `readCodedBytes_atCursor`. -/
theorem readsReturnWhatWasWritten : Obligations.ReadsReturnWhatWasWritten := by
  unfold Obligations.ReadsReturnWhatWasWritten
  refine ⟨fun fields w live empty writable => ?_, fun s v limit live aligned h range => ?_⟩
  · obtain ⟨w1, run, alive, out⟩ := writes_answer fields w live writable
    rw [empty, List.nil_append] at out
    have pads : Answers (exec .bwAlign w1) { w1 with out := w1.out ++ List.replicate (alignGap w1.out.length) false }
        (.nat (alignGap w1.out.length)) := issue_ok alive rfl
    refine ⟨w1, _, _, run, Answers.answerOf pads, fun r living start input => ?_⟩
    have bits : AtCursor r w1.out := atCursor_outBytes (by rw [alignGap]; omega) rfl start input
    rw [out] at bits
    obtain ⟨r1, reads, place⟩ := reads_answer fields r living writable bits
    exact ⟨r1, reads, by rw [place, start, out, Nat.zero_add]⟩
  · have fits : v < 2 ^ 36 := by omega
    have short : codedLength v ≤ limit := by
      unfold codedLength
      split_ifs <;> omega
    exact brReadCoded_ok live (by omega) aligned (readCodedBytes_atCursor fits short h)

end Sys2Proof.Machine

/-! PROOFS. The bit-reader operations of the host (41_bitstream_io.md R162 to R167): fields, numbers and bytes that stand at the
cursor, and the want of them. -/

namespace Sys2Proof.Machine

variable {s : State}

/-- An operation that lacks input and leaves nothing written (R161). -/
theorem starves_of_want {op : Op Result} (live : s.faulted = false) (h : op s = .error s.want s) :
    Starves (issue .read op s) s := by
  constructor <;> intro e <;> rw [State.want, e] at h
  · exact issue_hold live h
  · exact issue_exc live h

/-! ### Fields (R162, R163) -/

/-- Settles O9: what stands at the cursor by `BitField.read_ok`; a width outside the range fails the check ahead of the access. -/
theorem readUnsignedAndSigned : Obligations.ReadUnsignedAndSigned := by
  unfold Obligations.ReadUnsignedAndSigned
  intro s n live
  refine ⟨fun v h1 h32 fits h => ?_, fun v h1 h32 low high h => ?_, fun range => ?_, fun h1 h32 lacks => ?_⟩
  · have run := BitField.read_ok (f := .unsigned n v) ⟨h1, h32, fits⟩ live h
    rw [BitField.bits, natBits_length] at run
    exact run
  · have run := BitField.read_ok (f := .signed n v) ⟨h1, h32, low, high⟩ live h
    rw [BitField.bits, natBits_length] at run
    exact run
  · exact ⟨raises_first live (check_false _ _ range), raises_first live (check_false _ _ range)⟩
  · have cut {f : Nat → Op Result} : (checkWidth n >>= fun _ => readBits n >>= f) s = .error s.want s :=
      (check_bind_true _ _ _ ⟨h1, h32⟩).trans (bind_error (readBits_lacks lacks))
    exact ⟨starves_of_want live cut, starves_of_want live cut⟩

/-! ### Unary numbers and Rice code words (R164, R165) -/

/-- Without a stop bit there is no unary number. -/
theorem leadRun_eq_none : ∀ {bits : List Bool}, (∀ b ∈ bits, b = false) → leadRun bits = none
  | [], _ => rfl
  | b :: bits, h => by
    obtain ⟨first, others⟩ := List.forall_mem_cons.1 h
    subst first
    rw [leadRun, leadRun_eq_none others]
    rfl

theorem peekUnary_lacks (h : ∀ b ∈ bitsFrom s.input s.brPos, b = false) : peekUnary s = .error s.want s := by
  rw [peekUnary, leadRun_eq_none h, State.want]
  cases s.inEof <;> rfl

/-- A Rice code word whose remainder is cut off. -/
theorem readRice_cut {k q : Nat} {rest : List Bool} (bits : bitsFrom s.input s.brPos = unaryBits q ++ rest)
    (short : rest.length < k) : readRice k s = .error s.want s := by
  have seen : peekUnary s = .ok q s := peekUnary_atCursor ⟨rest, bits.symm⟩
  have len := congrArg List.length bits
  rw [bitsFrom_length, List.length_append, unaryBits_length] at len
  rw [readRice, bind_ok seen]
  exact bind_error (starve_lacks (by dsimp only [Lacks]; omega))

/-- Settles O10: the words at the cursor by `readUnary_atCursor` and `readRice_atCursor`; a word cut short is not seen whole. -/
theorem readUnaryAndRice : Obligations.ReadUnaryAndRice := by
  unfold Obligations.ReadUnaryAndRice
  intro s k live
  refine ⟨fun q h => issue_ok live (bind_ok (readUnary_atCursor h)), fun r small h => ?_,
    fun big => raises_first live (check_false _ _ (Nat.not_le.2 big)),
    fun none => starves_first live (bind_error (peekUnary_lacks none)), fun q rest small cut => ?_⟩
  · have run := readRice_atCursor h
    rw [riceSize, ← Nat.add_assoc, ← Nat.add_assoc] at run
    exact issue_ok live ((check_bind_true _ _ _ small).trans (bind_ok run))
  · have lacks : readRice k s = .error s.want s := by
      rcases cut with none | ⟨bits, short⟩
      · exact bind_error (peekUnary_lacks none)
      · exact readRice_cut (q := q) (bits.trans (List.append_cons _ _ _)) short
    exact starves_of_want live ((check_bind_true _ _ _ small).trans (bind_error lacks))

/-! ### The byte boundary and bytes (R166, R167) -/

theorem alignGap_lt (p : Nat) : alignGap p < 8 := Nat.mod_lt _ (by decide)

theorem alignGap_aligns (p : Nat) : (p + alignGap p) % 8 = 0 := by
  unfold alignGap
  omega

/-- Settles O11: the gap to the boundary, and the bytes by `readBytes_atCursor`. -/
theorem alignAndReadBytes : Obligations.AlignAndReadBytes := by
  unfold Obligations.AlignAndReadBytes
  intro s count live ⟨inside, _⟩
  refine ⟨⟨alignGap s.brPos, alignGap_lt _, alignGap_aligns _, issue_ok live rfl⟩, fun bs small aligned len h => ?_,
    fun small unaligned => ?_, fun small aligned lacks => ?_, fun big => raises_first live (check_false _ _ (Nat.not_lt.2 big))⟩
  · subst len
    exact issue_ok live ((check_bind_true _ _ _ small).trans (bind_ok (readBytes_atCursor aligned inside h)))
  · exact issue_exc live ((check_bind_true _ _ _ small).trans (bind_error (bind_error (readAligned_refused unaligned))))
  · exact starves_of_want live ((check_bind_true _ _ _ small).trans (bind_error (readBytes_lacks aligned lacks)))

end Sys2Proof.Machine

/-! PROOFS. The bit-writer operations of the host (41_bitstream_io.md R170 to R177): what they append, and what they refuse, which
appends nothing. -/

namespace Sys2Proof.Machine

variable {s : State}

/-! ### Fields (R171 to R174) -/

/-- A signed field that does not fit is refused, nothing appended (R172). -/
theorem writeS_refused {n : Nat} {v : Int} (n1 : 1 ≤ n) (big : ¬ fitsS v n) (s : State) :
    writeS n v s = .error (.exc (.logic .valueOutOfRange)) s := by
  rw [writeS, if_neg (by omega), check_bind_false _ _ _ big]

/-- Settles O13: what fits by `BitField.write_ok`; each refusal is a check that fails ahead of the write. -/
theorem writeFields : Obligations.WriteFields := by
  unfold Obligations.WriteFields
  intro s n k q v x r live
  refine ⟨fun h1 h32 fits => BitField.write_ok (f := .unsigned n v) ⟨h1, h32, fits⟩ live, fun h1 h32 big => ?_,
    fun h1 h32 low high => BitField.write_ok (f := .signed n x) ⟨h1, h32, low, high⟩ live, fun h1 h32 big => ?_, fun range => ?_,
    fun fits => BitField.write_ok (f := .unary q) fits live, fun big => raises_first live (check_false _ _ (Nat.not_lt.2 big)),
    fun small low high => ?_, fun small big => ?_, fun big => raises_first live (check_false _ _ (Nat.not_le.2 big))⟩
  · exact issue_exc live ((check_bind_true _ _ _ ⟨h1, h32⟩).trans (bind_error (writeU_refused h1 big s)))
  · exact issue_exc live ((check_bind_true _ _ _ ⟨h1, h32⟩).trans (bind_error (writeS_refused h1 (fun fits => big fits.2) s)))
  · exact ⟨raises_first live (check_false _ _ range), raises_first live (check_false _ _ range)⟩
  · have run := BitField.write_ok (f := .rice k r) ⟨small, low, high⟩ live
    rw [BitField.bits, riceBits, unaryBits, List.append_assoc] at run
    exact run
  · exact issue_exc live ((check_bind_true _ _ _ small).trans
      (bind_error (check_bind_false _ _ _ ((residualOk_iff r).not.2 big))))

/-! ### Bytes, padding and coded numbers (R175 to R177) -/

/-- A payload that is not `count` bytes (log 16). -/
theorem payloadBytes_refused {count : Nat} (h : ∀ bs, Carries s bs → bs.length ≠ count) :
    payloadBytes count s = .error (.exc (.logic .badOperand)) s := by
  unfold payloadBytes
  cases e : s.payload with
  | none => exact if_neg (h [] (.inr ⟨rfl, e⟩))
  | bytes bs => exact if_neg (h bs (.inl e))
  | samples _ | blocks _ | config _ => rfl

/-- Settles O14: alignment is checked first; at a byte boundary what is appended is the payload, the padding or the coded number. -/
theorem writeBytesPaddingAndCoded : Obligations.WriteBytesPaddingAndCoded := by
  unfold Obligations.WriteBytesPaddingAndCoded
  intro s count v bs live
  refine ⟨fun aligned carried len => ?_, fun aligned other => ?_, fun unaligned => ?_,
    ⟨alignGap s.out.length, alignGap_lt _, alignGap_aligns _, issue_ok live rfl⟩, fun aligned fits => ?_, fun aligned big => ?_⟩
  · exact issue_ok live ((bind_ok (writeAligned_ok aligned)).trans
      ((bind_ok (payloadBytes_ok carried len)).trans (bind_ok (writeBytes_ok aligned))))
  · exact issue_exc live ((bind_ok (writeAligned_ok aligned)).trans (bind_error (payloadBytes_refused other)))
  · exact ⟨raises_first live (writeAligned_refused unaligned), raises_first live (bind_error (writeAligned_refused unaligned))⟩
  · exact issue_ok live (bind_ok ((bind_ok (writeAligned_ok aligned)).trans (check_bind_true _ _ _ fits)))
  · exact raises_first live ((bind_ok (writeAligned_ok aligned)).trans (check_bind_false _ _ _ (Nat.not_lt.2 big)))

end Sys2Proof.Machine

/-! PROOFS. What an exception or a hold of any operation does to the state (60_exceptions.md R371, R374; 41_bitstream_io.md R161): how
the parts of an operation may end. -/

namespace Sys2Proof.Machine

variable {α β : Type} {b : Prop}

/-! ### How a part of an operation may end -/

/-- How a part that began in `s` ended: `REPORT` and the end-of-input flag are as they were, a hold came with more input to come, and
`b` says whether it may end as a sequencer whose unit operation met a `LogicError`. -/
def Ends (b : Prop) (s : State) : EStateM.Result Stop State α → Prop
  | .ok _ t => t.report = s.report ∧ t.inEof = s.inEof
  | .error (.exc _) t => t.report = s.report ∧ t.inEof = s.inEof
  | .error .hold _ => s.inEof = false
  | .error (.issued _) _ => b

/-- The part ends so wherever it begins. -/
def Quiet (b : Prop) (m : Op α) : Prop := ∀ s, Ends b s (m s)

theorem Ends.before {s t : State} {r : EStateM.Result Stop State α} (h : Ends b t r)
    (same : t.report = s.report ∧ t.inEof = s.inEof) : Ends b s r := by
  obtain ⟨report, inEof⟩ := same
  unfold Ends at *
  rwa [report, inEof] at h

@[simp] theorem quiet_bind {x : Op α} {f : α → Op β} (hx : Quiet b x) (hf : ∀ a, Quiet b (f a)) : Quiet b (x >>= f) := by
  intro s
  have h := hx s
  rw [bind_run]
  cases run : x s with
  | ok a t =>
    rw [run] at h
    exact (hf a t).before h
  | error e t =>
    rw [run] at h
    cases e <;> exact h

@[simp] theorem quiet_map (g : α → β) {x : Op α} (hx : Quiet b x) : Quiet b (g <$> x) := by
  intro s
  have h := hx s
  rw [map_run]
  cases run : x s with
  | ok a t =>
    rw [run] at h
    exact h
  | error e t =>
    rw [run] at h
    cases e <;> exact h

@[simp] theorem quiet_update {f : State → State} :
    Quiet b (update f) ↔ ∀ s, (f s).report = s.report ∧ (f s).inEof = s.inEof := Iff.rfl
@[simp] theorem quiet_pure (a : α) : Quiet b (pure a : Op α) := fun _ => ⟨rfl, rfl⟩
@[simp] theorem quiet_look (f : State → α) : Quiet b (look f) := fun _ => ⟨rfl, rfl⟩
@[simp] theorem quiet_raise (e : Exc) : Quiet b (raise e : Op α) := fun _ => ⟨rfl, rfl⟩

@[simp] theorem quiet_ite {c : Prop} [Decidable c] {x y : Op α} (hx : Quiet b x) (hy : Quiet b y) :
    Quiet b (if c then x else y) := by
  split <;> assumption

@[simp] theorem quiet_check (c : Prop) [Decidable c] (e : Exc) : Quiet b (check c e) := by
  intro s
  unfold check
  split <;> exact ⟨rfl, rfl⟩

@[simp] theorem quiet_written (r : Reg α) : Quiet b (written r) := by
  intro s
  cases r <;> exact ⟨rfl, rfl⟩

@[simp] theorem quiet_readReg (f : State → Reg α) : Quiet b (readReg f) := quiet_bind (quiet_look f) quiet_written

@[simp] theorem quiet_readEntries (l : List α) (n : Nat) : Quiet b (readEntries l n) := by
  intro s
  unfold readEntries
  split <;> exact ⟨rfl, rfl⟩

@[simp] theorem quiet_forEach {f : α → Op Unit} (h : ∀ a, Quiet b (f a)) : ∀ l, Quiet b (forEach f l)
  | [] => quiet_pure ()
  | a :: rest => quiet_bind (h a) fun _ => quiet_forEach h rest

@[simp] theorem quiet_countUp {f : Nat → Op Unit} (h : ∀ i, Quiet b (f i)) : ∀ n i, Quiet b (countUp f n i)
  | 0, _ => quiet_pure ()
  | n + 1, i => quiet_bind (h i) fun _ => quiet_countUp h n (i + 1)

/-- A part of which an exception leaves only writes outside `REPORT` and the end-of-input flag. -/
theorem quiet_leaving {kept : State → State → State} {m : Op α} (h : Quiet b m)
    (k : ∀ s t, (kept s t).report = s.report ∧ (kept s t).inEof = s.inEof) : Quiet b (leaving kept m) := by
  intro s
  have hs := h s
  unfold leaving
  cases run : m s with
  | ok a t => rw [run] at hs; exact hs
  | error e t =>
    rw [run] at hs
    cases e with
    | exc e => exact k s t
    | hold => exact hs
    | issued l => exact hs

@[simp] theorem quiet_atomically {m : Op α} (h : Quiet b m) : Quiet b (atomically m) :=
  quiet_leaving (kept := fun s _ => s) h fun _ _ => ⟨rfl, rfl⟩

@[simp] theorem quiet_presented (bits : List Bool) {m : Op α} (h : Quiet b m) : Quiet b (presented bits m) := by
  intro s
  have hs := h (s.reading (bitsBytes (bits ++ List.replicate (alignGap bits.length) false)) 0)
  unfold presented
  cases run : m (s.reading (bitsBytes (bits ++ List.replicate (alignGap bits.length) false)) 0) with
  | ok a t => rw [run] at hs; exact hs
  | error e t =>
    rw [run] at hs
    cases e <;> exact hs

@[simp] theorem quiet_attempt (allowed : b) {m : Op α} (h : Quiet b m) : Quiet b (attempt m) := by
  intro s
  have hs := h s
  unfold attempt
  cases run : m s with
  | ok a t => rw [run] at hs; exact hs
  | error e t =>
    rw [run] at hs
    cases e with
    | hold => exact hs
    | issued l => exact allowed
    | exc e =>
      cases e with
      | logic l => exact allowed
      | _ => exact hs

@[simp] theorem quiet_asIssued (allowed : b) {m : Op α} (h : Quiet b m) : Quiet b (asIssued m) := by
  intro s
  have hs := h s
  unfold asIssued
  cases run : m s with
  | ok a t => rw [run] at hs; exact hs
  | error e t =>
    rw [run] at hs
    cases e with
    | hold => exact hs
    | issued l => exact allowed
    | exc e =>
      cases e with
      | logic l => exact allowed
      | _ => exact hs

/-! ### The bit reader and writer, and the operands -/

@[simp] theorem quiet_starve (n : Nat) : Quiet b (starve n) := by
  intro s
  rcases starve_cases n s with ⟨_, run⟩ | ⟨_, _, run⟩ | ⟨_, going, run⟩ <;> rw [run]
  · exact ⟨rfl, rfl⟩
  · exact ⟨rfl, rfl⟩
  · exact going

@[simp] theorem quiet_peekUnary : Quiet b peekUnary := by
  intro s
  unfold peekUnary
  cases leadRun (bitsFrom s.input s.brPos) with
  | some q => exact ⟨rfl, rfl⟩
  | none =>
    cases ended : s.inEof with
    | false => exact ended
    | true => exact ⟨rfl, rfl⟩

@[simp] theorem quiet_readBits (n : Nat) : Quiet b (readBits n) := by
  simp (maxDischargeDepth := 100) [readBits, peekBits, skipBits]
@[simp] theorem quiet_readU (n : Nat) : Quiet b (readU n) := by simp (maxDischargeDepth := 100) [readU]
@[simp] theorem quiet_readS (n : Nat) : Quiet b (readS n) := by simp (maxDischargeDepth := 100) [readS]
@[simp] theorem quiet_readUnary : Quiet b readUnary := by simp (maxDischargeDepth := 100) [readUnary, skipBits]
@[simp] theorem quiet_readRice (k : Nat) : Quiet b (readRice k) := by
  simp (maxDischargeDepth := 100) [readRice, skipBits]
@[simp] theorem quiet_readAligned : Quiet b readAligned := by simp [readAligned]
@[simp] theorem quiet_readBytes (n : Nat) : Quiet b (readBytes n) := by
  simp (maxDischargeDepth := 100) [readBytes, skipBits]

@[simp] theorem quiet_readCodedTail : ∀ n v, Quiet b (readCodedTail n v)
  | 0, v => quiet_pure v
  | n + 1, _ => quiet_bind (quiet_readBits 8) fun _ => quiet_bind (quiet_check _ _) fun _ => quiet_readCodedTail n _

@[simp] theorem quiet_readCodedBytes (m : Nat) : Quiet b (readCodedBytes m) := by
  simp (maxDischargeDepth := 100) [readCodedBytes]

@[simp] theorem quiet_emit (bits : List Bool) : Quiet b (emit bits) := fun _ => ⟨rfl, rfl⟩
@[simp] theorem quiet_writeU (n v : Nat) : Quiet b (writeU n v) := by simp (maxDischargeDepth := 100) [writeU]
@[simp] theorem quiet_writeS (n : Nat) (v : Int) : Quiet b (writeS n v) := by simp (maxDischargeDepth := 100) [writeS]
@[simp] theorem quiet_writeAligned : Quiet b writeAligned := by simp [writeAligned]
@[simp] theorem quiet_writeBytes (bs : List Byte) : Quiet b (writeBytes bs) := by simp [writeBytes]
@[simp] theorem quiet_writeCoded (v : Nat) : Quiet b (writeCoded v) := by simp (maxDischargeDepth := 100) [writeCoded]
@[simp] theorem quiet_padOut : Quiet b padOut := by simp (maxDischargeDepth := 100) [padOut]

@[simp] theorem quiet_notEncode : Quiet b notEncode := by simp [notEncode]
@[simp] theorem quiet_needMode (m : Mode) : Quiet b (needMode m) := by simp [needMode]

/-- A part that writes nothing and never waits. -/
theorem quiet_of_reader {m : Op α} (h : ∀ s, (∃ a, m s = .ok a s) ∨ ∃ e, m s = .error (.exc e) s) : Quiet b m := by
  intro s
  rcases h s with ⟨a, run⟩ | ⟨e, run⟩ <;> rw [run] <;> exact ⟨rfl, rfl⟩

end Sys2Proof.Machine

/-! PROOFS. How the unit operations and the encoder's sequencer may end, one lemma per operation (60_exceptions.md R371, R374). -/

namespace Sys2Proof.Machine

variable {α β : Type} {b : Prop}

/-! ### The payload -/

@[simp] theorem quiet_payloadBytes (n : Nat) : Quiet b (payloadBytes n) := quiet_of_reader fun s => by
  unfold payloadBytes
  cases s.payload <;> dsimp only <;> (try split) <;> simp

@[simp] theorem quiet_payloadSamples (c n : Nat) : Quiet b (payloadSamples c n) := quiet_of_reader fun s => by
  unfold payloadSamples
  cases s.payload <;> dsimp only <;> (try split) <;> simp

@[simp] theorem quiet_payloadBlocks (n : Nat) : Quiet b (payloadBlocks n) := quiet_of_reader fun s => by
  unfold payloadBlocks
  cases s.payload <;> dsimp only <;> (try split) <;> simp

@[simp] theorem quiet_payloadConfig : Quiet b payloadConfig := quiet_of_reader fun s => by
  unfold payloadConfig
  cases s.payload <;> simp

/-! ### Checksums, marker, metadata and frame header -/

@[simp] theorem quiet_hashDepth : Quiet b hashDepth := by
  intro s
  unfold hashDepth
  cases s.mode
  case idle => exact ⟨rfl, rfl⟩
  case decode | encode => exact (quiet_bind (quiet_readReg _) fun _ => quiet_pure _) s

@[simp] theorem quiet_readSmp (r n : Nat) : Quiet b (readSmp r n) := by
  intro s
  unfold readSmp
  split <;> exact ⟨rfl, rfl⟩

@[simp] theorem quiet_md5UpdateBytes (bs : List Byte) : Quiet b (md5UpdateBytes bs) := by
  simp (maxDischargeDepth := 100) [md5UpdateBytes]
@[simp] theorem quiet_md5UpdatePcm : Quiet b md5UpdatePcm := by simp (maxDischargeDepth := 100) [md5UpdatePcm]
@[simp] theorem quiet_md5Final : Quiet b md5Final := by simp (maxDischargeDepth := 100) [md5Final]
@[simp] theorem quiet_seekLoad (bs : List Byte) : Quiet b (seekLoad bs) := by simp [seekLoad]
@[simp] theorem quiet_mkRead : Quiet b mkRead := by simp (maxDischargeDepth := 100) [mkRead]

@[simp] theorem quiet_mbhRead : Quiet b mbhRead := by
  refine quiet_bind quiet_notEncode fun _ => quiet_bind quiet_readAligned fun _ => quiet_bind (quiet_starve _) fun _ =>
    quiet_bind (quiet_readU _) fun _ => quiet_bind (quiet_readU _) fun _ => quiet_bind (quiet_readU _) fun _ =>
    quiet_bind (quiet_update.2 fun s => ?_) fun _ => quiet_pure _
  split <;> exact ⟨rfl, rfl⟩

@[simp] theorem quiet_validStreamInfo : Quiet b validStreamInfo := by simp (maxDischargeDepth := 100) [validStreamInfo]
@[simp] theorem quiet_siRead : Quiet b siRead := by simp (maxDischargeDepth := 100) [siRead, readStreamInfo]
@[simp] theorem quiet_siValidate : Quiet b siValidate := by simp (maxDischargeDepth := 100) [siValidate]
@[simp] theorem quiet_mbReadBody : Quiet b mbReadBody := by simp (maxDischargeDepth := 100) [mbReadBody]

@[simp] theorem quiet_mdseqCheck (bs : List MdEntry) : Quiet b (mdseqCheck bs) := by
  cases bs <;> simp (maxDischargeDepth := 100) [mdseqCheck]

@[simp] theorem quiet_fhFixed : Quiet b fhFixed := by
  simp (maxDischargeDepth := 100) [fhFixed, peekBits, skipBits]
@[simp] theorem quiet_headerStart : Quiet b headerStart := by simp [headerStart]
@[simp] theorem quiet_fhParse : Quiet b fhParse := by
  simp (maxDischargeDepth := 100) [fhParse, fhBlocksize, fhSampleRate]
@[simp] theorem quiet_fhValidate : Quiet b fhValidate := by simp (maxDischargeDepth := 100) [fhValidate]
@[simp] theorem quiet_mkWrite : Quiet b mkWrite := quiet_writeBytes _
@[simp] theorem quiet_mbhWrite (l v : Nat) : Quiet b (mbhWrite l v) := by simp (maxDischargeDepth := 100) [mbhWrite]
@[simp] theorem quiet_siWrite : Quiet b siWrite := by simp (maxDischargeDepth := 100) [siWrite]
@[simp] theorem quiet_fhWrite : Quiet b fhWrite := by simp (maxDischargeDepth := 100) [fhWrite]

/-! ### The residual coder -/

@[simp] theorem quiet_escRead (n : Nat) : Quiet b (escRead n) := by
  unfold escRead
  refine quiet_ite (quiet_pure _) ?_
  split <;> simp (maxDischargeDepth := 100)

@[simp] theorem quiet_readRun {one : Op Int} (h : Quiet b one) : ∀ cnt idx, Quiet b (readRun one cnt idx)
  | 0, _ => quiet_pure ()
  | cnt + 1, idx => quiet_bind h fun _ => quiet_bind (by simp [writeRes]) fun _ => quiet_readRun h cnt (idx + 1)

@[simp] theorem quiet_readPartition (m i cnt idx : Nat) : Quiet b (readPartition m i cnt idx) := by
  simp (maxDischargeDepth := 100) [readPartition, writeEntry, riceRead]

@[simp] theorem quiet_readPartitions (n o m p : Nat) : ∀ left i idx, Quiet b (readPartitions n o m p left i idx)
  | 0, _, _ => quiet_pure ()
  | left + 1, _, _ => quiet_bind (quiet_readPartition _ _ _ _) fun _ => quiet_readPartitions n o m p left _ _

@[simp] theorem quiet_readResHeader (n o : Nat) : Quiet b (readResHeader n o) := by
  simp (maxDischargeDepth := 100) [readResHeader]
@[simp] theorem quiet_blockGeometry : Quiet b blockGeometry := by simp (maxDischargeDepth := 100) [blockGeometry]
@[simp] theorem quiet_resDecode : Quiet b resDecode := by simp (maxDischargeDepth := 100) [resDecode]

@[simp] theorem quiet_entryChoices : ∀ es, Quiet b (entryChoices es)
  | [] => quiet_pure _
  | e :: rest => quiet_bind (by simp (maxDischargeDepth := 100) [entryChoice]) fun _ =>
      quiet_bind (quiet_entryChoices rest) fun _ => quiet_pure _

@[simp] theorem quiet_checkChoice (m : Nat) (x : List Int × PartChoice) : Quiet b (checkChoice m x) := by
  unfold checkChoice
  split <;> simp

@[simp] theorem quiet_resEncode : Quiet b resEncode := by simp (maxDischargeDepth := 100) [resEncode]

/-! ### The predictor -/

@[simp] theorem quiet_readRow (c n : Nat) : Quiet b (readRow c n) := by simp [readRow]
@[simp] theorem quiet_writeRow (c : Nat) (vs : List Int) : Quiet b (writeRow c vs) := by simp [writeRow]
@[simp] theorem quiet_writeSmp (c i : Nat) (v : Int) : Quiet b (writeSmp c i v) := by simp [writeSmp]
@[simp] theorem quiet_codedSamples : Quiet b codedSamples := by simp (maxDischargeDepth := 100) [codedSamples]

@[simp] theorem quiet_readSamples (c bps : Nat) : ∀ cnt i, Quiet b (readSamples c bps cnt i)
  | 0, _ => quiet_pure ()
  | cnt + 1, _ => quiet_bind (quiet_readS _) fun _ => quiet_bind (quiet_writeSmp _ _ _) fun _ => quiet_readSamples c bps cnt _

@[simp] theorem quiet_readCoefs (prec : Nat) : ∀ cnt j, Quiet b (readCoefs prec cnt j)
  | 0, _ => quiet_pure ()
  | cnt + 1, _ => quiet_bind (quiet_readS _) fun _ => quiet_bind (by simp) fun _ => quiet_readCoefs prec cnt _

@[simp] theorem quiet_fixedRestore : Quiet b fixedRestore := by simp (maxDischargeDepth := 100) [fixedRestore]
@[simp] theorem quiet_lpcRestore : Quiet b lpcRestore := by simp (maxDischargeDepth := 100) [lpcRestore]
@[simp] theorem quiet_sfDecConstant : Quiet b sfDecConstant := by simp (maxDischargeDepth := 100) [sfDecConstant]
@[simp] theorem quiet_sfDecVerbatim : Quiet b sfDecVerbatim := by simp (maxDischargeDepth := 100) [sfDecVerbatim]
@[simp] theorem quiet_sfDecFixed : Quiet b sfDecFixed := by simp (maxDischargeDepth := 100) [sfDecFixed]
@[simp] theorem quiet_sfDecLpc : Quiet b sfDecLpc := by simp (maxDischargeDepth := 100) [sfDecLpc]
@[simp] theorem quiet_sfBody (t : SfType) : Quiet b (sfBody t) := by cases t <;> simp [sfBody]

@[simp] theorem quiet_setSfType (t : Nat) : Quiet b (setSfType t) := by
  unfold setSfType
  cases sfTypeOf t <;> simp

@[simp] theorem quiet_sfHeader : Quiet b sfHeader := by simp (maxDischargeDepth := 100) [sfHeader]
@[simp] theorem quiet_sfDec (c : Nat) : Quiet b (sfDec c) := by
  simp (maxDischargeDepth := 100) [sfDec, readWasted, finishSubframe]

@[simp] theorem quiet_leaving_samples {m : Op Unit} (h : Quiet b m) :
    Quiet b (leaving (fun s t => { s with brPos := t.brPos, smp := t.smp }) m) := quiet_leaving h fun _ _ => ⟨rfl, rfl⟩

@[simp] theorem quiet_fixedResidual (o : Nat) : Quiet b (fixedResidual o) := by
  simp (maxDischargeDepth := 100) [fixedResidual]
@[simp] theorem quiet_lpcResidual : Quiet b lpcResidual := by simp (maxDischargeDepth := 100) [lpcResidual]
@[simp] theorem quiet_writeSamples (bps : Nat) (xs : List Int) : Quiet b (writeSamples bps xs) := by simp [writeSamples]
@[simp] theorem quiet_checkResidual (n o : Nat) : Quiet b (checkResidual n o) := by
  simp (maxDischargeDepth := 100) [checkResidual]
@[simp] theorem quiet_sfEncConstant : Quiet b sfEncConstant := by simp (maxDischargeDepth := 100) [sfEncConstant]
@[simp] theorem quiet_sfEncVerbatim : Quiet b sfEncVerbatim := by simp (maxDischargeDepth := 100) [sfEncVerbatim]
@[simp] theorem quiet_sfEncFixed : Quiet b sfEncFixed := by simp (maxDischargeDepth := 100) [sfEncFixed]
@[simp] theorem quiet_sfEncLpc : Quiet b sfEncLpc := by simp (maxDischargeDepth := 100) [sfEncLpc]
@[simp] theorem quiet_sfEncode (t : SfType) : Quiet b (sfEncode t) := by cases t <;> simp [sfEncode]

/-! ### The selections and the stereo transforms -/

@[simp] theorem quiet_riceParamSelect (k f c : Nat) : Quiet b (riceParamSelect k f c) := by
  simp (maxDischargeDepth := 100) [riceParamSelect]

@[simp] theorem quiet_writeTable (param : Nat → Reg Nat → Fin 31) (raw : Nat → Reg Nat → Fin 32) :
    ∀ cs i, Quiet b (writeTable param raw cs i)
  | [], _ => quiet_pure ()
  | _ :: rest, i => quiet_bind (fun _ => ⟨rfl, rfl⟩) fun _ => quiet_writeTable param raw rest (i + 1)

@[simp] theorem quiet_partSelect (sel : Selections) : Quiet b (partSelect sel) := by
  simp (maxDischargeDepth := 100) [partSelect]
@[simp] theorem quiet_setPredictor (p : Nat) (r : LpcResult) : Quiet b (setPredictor p r) := by simp [setPredictor]

@[simp] theorem quiet_lpcAnalyze (sel : Selections) : Quiet b (lpcAnalyze sel) := by
  refine quiet_bind (quiet_readReg _) fun _ => quiet_bind quiet_codedSamples fun _ => ?_
  split <;> simp

@[simp] theorem quiet_sfSelect (sel : Selections) (c : Nat) : Quiet b (sfSelect sel c) := by
  refine quiet_bind (quiet_needMode _) fun _ => quiet_bind (quiet_readReg _) fun _ => quiet_bind (quiet_readReg _) fun _ =>
    quiet_bind (quiet_check _ _) fun _ => quiet_bind (quiet_readReg _) fun _ => quiet_bind (quiet_readReg _) fun _ =>
    quiet_bind (quiet_readRow _ _) fun _ => ?_
  dsimp only
  refine quiet_bind (fun _ => ⟨rfl, rfl⟩) fun _ => ?_
  split <;> simp (maxDischargeDepth := 100)

@[simp] theorem quiet_stereoSelect (sel : Selections) : Quiet b (stereoSelect sel) := by
  simp (maxDischargeDepth := 100) [stereoSelect]
@[simp] theorem quiet_chDecorrFwd (ca : Nat) : Quiet b (chDecorrFwd ca) := by
  simp (maxDischargeDepth := 100) [chDecorrFwd]
@[simp] theorem quiet_chDecorrInv : Quiet b chDecorrInv := by
  simp (maxDischargeDepth := 100) [chDecorrInv, undoAt, checkAt, readSmpAt]

/-! ### Frames -/

@[simp] theorem quiet_readPadding : ∀ k, Quiet b (readPadding k)
  | 0 => quiet_pure ()
  | k + 1 => quiet_bind (quiet_readU 1) fun _ => quiet_bind (quiet_check _ _) fun _ => quiet_readPadding k

@[simp] theorem quiet_checkFooter (start stop crc : Nat) : Quiet b (checkFooter start stop crc) := by
  simp (maxDischargeDepth := 100) [checkFooter]
@[simp] theorem quiet_decFrame : Quiet b decFrame := by
  simp (maxDischargeDepth := 100) [decFrame, frameStart, frameFooter]
@[simp] theorem quiet_readSubframeByte : Quiet b readSubframeByte := by
  simp (maxDischargeDepth := 100) [readSubframeByte]
@[simp] theorem quiet_encodeSubframe (sel : Selections) (c : Nat) : Quiet b (encodeSubframe sel c) := by
  simp (maxDischargeDepth := 100) [encodeSubframe]
@[simp] theorem quiet_assembleFrame (sel : Selections) : Quiet b (assembleFrame sel) := by
  simp (maxDischargeDepth := 100) [assembleFrame]

/-! ### The encoder sequencer -/

section
variable (allowed : b)
include allowed

theorem quiet_encInit : Quiet b encInit := by
  refine quiet_bind (quiet_needMode _) fun _ => quiet_bind (quiet_look _) fun _ => quiet_bind (quiet_check _ _) fun _ =>
    quiet_bind quiet_payloadConfig fun c => ?_
  cases configError c <;> simp (maxDischargeDepth := 100) [allowed, encoderFails]

theorem quiet_encFinish : Quiet b encFinish := by simp (maxDischargeDepth := 100) [encFinish, allowed]

theorem quiet_encBlock (sel : Selections) : Quiet b (encBlock sel) := by
  refine quiet_bind (quiet_needMode _) fun _ => quiet_bind (quiet_look _) fun _ => quiet_bind (quiet_check _ _) fun _ =>
    quiet_bind (quiet_look _) fun q => ?_
  have counted (n len : Nat) (s : State) :
      (countFrame n len s).report = s.report ∧ (countFrame n len s).inEof = s.inEof := by
    unfold countFrame
    split <;> exact ⟨rfl, rfl⟩
  cases q <;> simp (maxDischargeDepth := 100) [allowed, encoderFails, counted]

end

end Sys2Proof.Machine

/-! PROOFS. How an operation of the host may end, the decoder sequencer's operations among them (60_exceptions.md R371, R374). -/

namespace Sys2Proof.Machine

variable {α β : Type} {b : Prop}

/-! ### How an operation may end -/

/-- How an operation that began in `s` ended: behind an exception that is no `LogicError` the report is as it was, a hold came with
more input to come, and `b` says whether it may end as a sequencer whose unit operation met a `LogicError`. -/
def Closes (b : Prop) (s : State) : EStateM.Result Stop State α → Prop
  | .ok _ _ => True
  | .error (.exc (.logic _)) _ => True
  | .error (.exc _) t => t.report = s.report
  | .error .hold _ => s.inEof = false
  | .error (.issued _) _ => b

/-- The operation ends so wherever it begins. -/
def Orderly (b : Prop) (m : Op α) : Prop := ∀ s, Closes b s (m s)

/-- A part that waits for nothing and raises nothing but a `LogicError`, whose effects are undone: it may add to the report. -/
def Sure (b : Prop) (m : Op α) : Prop := ∀ s, (∃ a t, m s = .ok a t) ∨ (∃ l t, m s = .error (.exc (.logic l)) t) ∨
  b ∧ ∃ l t, m s = .error (.issued l) t

theorem Closes.error {s t : State} {e : Stop} (h : Closes b s (.error e t : EStateM.Result Stop State α)) :
    Closes b s (.error e t : EStateM.Result Stop State β) := by
  cases e with
  | hold => exact h
  | issued l => exact h
  | exc e => cases e <;> exact h

theorem Closes.before {s t : State} {r : EStateM.Result Stop State α} (h : Closes b t r)
    (same : t.report = s.report ∧ t.inEof = s.inEof) : Closes b s r := by
  obtain ⟨report, inEof⟩ := same
  unfold Closes at *
  rwa [report, inEof] at h

theorem Ends.closes {s : State} {r : EStateM.Result Stop State α} (h : Ends b s r) : Closes b s r := by
  cases r with
  | ok a t => exact True.intro
  | error e t =>
    cases e with
    | hold => exact h
    | issued l => exact h
    | exc e =>
      cases e with
      | logic l => exact True.intro
      | _ => exact h.1

theorem Quiet.orderly {m : Op α} (h : Quiet b m) : Orderly b m := fun s => (h s).closes

theorem Sure.orderly {m : Op α} (h : Sure b m) : Orderly b m := by
  intro s
  rcases h s with ⟨a, t, run⟩ | ⟨l, t, run⟩ | ⟨allowed, l, t, run⟩ <;> rw [run]
  · exact True.intro
  · exact True.intro
  · exact allowed

theorem orderly_bind {x : Op α} {f : α → Op β} (hx : Quiet b x) (hf : ∀ a, Orderly b (f a)) : Orderly b (x >>= f) := by
  intro s
  have h := hx s
  cases run : x s with
  | ok a t =>
    rw [run] at h
    rw [bind_ok run]
    exact (hf a t).before h
  | error e t =>
    rw [run] at h
    rw [bind_error run]
    exact h.closes.error

/-- What follows an orderly part adds to the report only where it raises nothing but a `LogicError`. -/
theorem orderly_sure {x : Op α} {f : α → Op β} (hx : Orderly b x) (hf : ∀ a, Sure b (f a)) : Orderly b (x >>= f) := by
  intro s
  have h := hx s
  cases run : x s with
  | ok a t =>
    rw [bind_ok run]
    rcases hf a t with ⟨c, u, rest⟩ | ⟨l, u, rest⟩ | ⟨allowed, l, u, rest⟩ <;> rw [rest]
    · exact True.intro
    · exact True.intro
    · exact allowed
  | error e t =>
    rw [run] at h
    rw [bind_error run]
    exact h.error

theorem orderly_ite {c : Prop} [Decidable c] {x y : Op α} (hx : Orderly b x) (hy : Orderly b y) :
    Orderly b (if c then x else y) := by
  split <;> assumption

theorem sure_update (f : State → State) : Sure b (update f) := fun _ => .inl ⟨_, _, rfl⟩
theorem sure_look (f : State → α) : Sure b (look f) := fun _ => .inl ⟨_, _, rfl⟩
theorem sure_pure (a : α) : Sure b (pure a : Op α) := fun _ => .inl ⟨_, _, rfl⟩

theorem sure_readReg (f : State → Reg α) : Sure b (readReg f) := by
  intro s
  rw [readReg_run]
  cases f s with
  | some v => exact .inl ⟨v, s, rfl⟩
  | none => exact .inr (.inl ⟨_, s, rfl⟩)

theorem sure_bind {x : Op α} {f : α → Op β} (hx : Sure b x) (hf : ∀ a, Sure b (f a)) : Sure b (x >>= f) := by
  intro s
  rcases hx s with ⟨a, t, run⟩ | ⟨l, t, run⟩ | ⟨allowed, l, t, run⟩
  · rw [bind_ok run]
    exact hf a t
  · exact .inr (.inl ⟨l, t, bind_error run⟩)
  · exact .inr (.inr ⟨allowed, l, t, bind_error run⟩)

theorem sure_ite {c : Prop} [Decidable c] {x y : Op α} (hx : Sure b x) (hy : Sure b y) : Sure b (if c then x else y) := by
  split <;> assumption

theorem sure_asIssued (allowed : b) {m : Op α} (h : Sure b m) : Sure b (asIssued m) := by
  intro s
  rcases h s with ⟨a, t, run⟩ | ⟨l, t, run⟩ | ⟨_, l, t, run⟩ <;> simp only [asIssued, run]
  · exact .inl ⟨a, t, rfl⟩
  · exact .inr (.inr ⟨allowed, l, t, rfl⟩)
  · exact .inr (.inr ⟨allowed, l, t, rfl⟩)

/-! ### The decoder sequencer -/

theorem sure_fatal (e : Exc) (pos : Nat) : Sure b (fatal e pos) := sure_update _

theorem sure_metadataFault (e : Exc) (pos : Nat) : Sure b (metadataFault e pos) :=
  sure_ite (sure_bind (sure_update _) fun _ => sure_fatal _ _) (sure_fatal _ _)

theorem sure_finishDecode : Sure b finishDecode :=
  sure_bind (sure_bind (sure_update _) fun _ => sure_readReg _) fun _ => sure_bind (sure_readReg _) fun _ =>
    sure_bind (sure_update _) fun _ => sure_bind (sure_look _) fun _ => sure_bind (sure_update _) fun _ => sure_update _

theorem quiet_emitBlock : Quiet b emitBlock := by simp (maxDischargeDepth := 100) [emitBlock]

section
variable (allowed : b)
include allowed

theorem orderly_metadataOp {m : Op α} {next : α → Op Unit} (h : Quiet b m) (k : ∀ a, Orderly b (next a)) :
    Orderly b (metadataOp m next) := by
  refine orderly_bind (quiet_look _) fun pos => orderly_bind (quiet_attempt allowed h) fun r => ?_
  cases r with
  | ok a => exact k a
  | error e => exact (sure_metadataFault e pos).orderly

theorem orderly_stepInit : Orderly b stepInit :=
  orderly_metadataOp allowed quiet_mkRead fun _ => (sure_update _).orderly

theorem orderly_stepReadStreamInfo : Orderly b stepReadStreamInfo := by
  refine orderly_bind (quiet_look _) fun start => orderly_metadataOp allowed quiet_mbhRead fun h => ?_
  refine orderly_ite (sure_metadataFault _ _).orderly (orderly_ite (sure_metadataFault _ _).orderly ?_)
  refine orderly_bind (quiet_look _) fun body => orderly_metadataOp allowed quiet_siRead fun _ =>
    orderly_metadataOp allowed quiet_siValidate fun _ => ?_
  exact (sure_bind (sure_update _) fun _ => sure_update _).orderly

theorem orderly_stepReadMetadata : Orderly b stepReadMetadata := by
  refine orderly_bind (quiet_look _) fun start => orderly_metadataOp allowed quiet_mbhRead fun h => ?_
  refine orderly_ite (sure_metadataFault _ _).orderly (orderly_metadataOp allowed quiet_mbReadBody fun body => ?_)
  exact orderly_ite (orderly_bind (quiet_seekLoad _) fun _ => (sure_update _).orderly) (sure_update _).orderly

theorem orderly_syncedFrame (start : Nat) : Orderly b (syncedFrame start) := by
  refine orderly_bind (quiet_attempt allowed quiet_decFrame) fun r => ?_
  split
  · exact (quiet_asIssued allowed quiet_emitBlock).orderly
  · exact (sure_update _).orderly
  · exact (sure_ite (sure_bind (sure_update _) fun _ => sure_update _) (sure_fatal _ _)).orderly

theorem orderly_stepSynced : Orderly b stepSynced := by
  intro s
  by_cases whole : s.brPos = 8 * s.input.length
  · have run : stepSynced s = (if s.inEof then sequencerWork finishDecode else hold) s := by
      rw [stepSynced, look_bind, look_bind, look_bind, if_pos whole]
    rw [run]
    cases ended : s.inEof with
    | false => exact ended
    | true => exact (sure_asIssued allowed sure_finishDecode).orderly s
  · rw [stepSynced_frame whole]
    exact orderly_syncedFrame allowed _ s

theorem orderly_stepResync : Orderly b stepResync := by
  intro s
  simp only [stepResync, look_bind]
  cases scanSync (s.input.drop ((s.brPos + 7) / 8)) ((s.brPos + 7) / 8) with
  | some j => exact True.intro
  | none =>
    cases ended : s.inEof with
    | false => exact ended
    | true =>
      exact (sure_bind (sure_update _) fun _ => sure_bind (sure_look _) fun _ =>
        sure_ite (sure_fatal _ _) (sure_asIssued allowed sure_finishDecode)).orderly s

theorem orderly_decStep : Orderly b decStep := by
  refine orderly_bind (quiet_needMode _) fun _ => orderly_bind (quiet_look _) fun d => ?_
  have answer (_ : Unit) : Sure b (look State.dstate) := sure_look _
  cases d with
  | init => exact orderly_sure (orderly_stepInit allowed) answer
  | readStreamInfo => exact orderly_sure (orderly_stepReadStreamInfo allowed) answer
  | readMetadata => exact orderly_sure (orderly_stepReadMetadata allowed) answer
  | synced => exact orderly_sure (orderly_stepSynced allowed) answer
  | resync => exact orderly_sure (orderly_stepResync allowed) answer
  | done | fatalError => exact (answer ()).orderly

end

theorem orderly_decFlush : Orderly b decFlush :=
  orderly_bind (quiet_needMode _) fun _ => orderly_bind (quiet_look _) fun _ => orderly_bind (quiet_check _ _) fun _ =>
    (sure_update _).orderly

/-! ### Delivery -/

/-- From `s` to `t` nothing has changed but flags, report and reply, and the fields that end a sequencer (R374). -/
def OnlyRecorded (s t : State) : Prop :=
  { t with
    status := s.status, report := s.report, reply := s.reply, dstate := s.dstate
    estate := s.estate, verdict := s.verdict, fatalCode := s.fatalCode, fatalSub := s.fatalSub } = s

/-- What an operation issued in `s` left, if it raised or held (R371, R374, R435); `b` says whether it may end a sequencer. -/
structure Disciplined (b : Prop) (s t : State) : Prop where
  raised : ∀ e, t.reply = some (.fault e) → t.flag e.flag = true ∧
    ∃ pos rest, t.report = s.report ++ .exception e.code e.sub pos :: rest ∧ ((∀ l, e ≠ .logic l) → rest = []) ∧ (¬ b → rest = [])
  dead : ∀ l, t.reply = some (.fault (.logic l)) → OnlyRecorded s t ∧
    (¬ b → t.status = s.status ||| 0x0002#16 ∧ t.dstate = s.dstate ∧ t.estate = s.estate ∧ t.verdict = s.verdict ∧
      t.fatalCode = s.fatalCode ∧ t.fatalSub = s.fatalSub)
  held : t.reply = some .hold → t = { s with reply := some .hold } ∧ s.inEof = false

theorem Flag.mask_self (f : Flag) : f.mask.getLsbD f.bit = true := by cases f <;> rfl

theorem State.setFlag_flag (s : State) (f : Flag) : (s.setFlag f).flag f = true := by
  rw [State.flag, State.setFlag_status, BitVec.getLsbD_or, Flag.mask_self, Bool.or_true]

/-- An exception is recorded in the state before the operation if it is a `LogicError`, else in what the operation left. -/
theorem takeException_eq (s u : State) (side : Side) (e : Exc) : ∃ base, ((∃ l, e = .logic l) ∧ base = s ∨
    (∀ l, e ≠ .logic l) ∧ base = u) ∧ s.takeException u side e = { base.record e (side.pos s) with reply := some (.fault e) } := by
  cases e with
  | logic l => exact ⟨s, .inl ⟨⟨l, rfl⟩, rfl⟩, rfl⟩
  | _ => exact ⟨u, .inr ⟨nofun, rfl⟩, rfl⟩

theorem disciplined_takeException {s u : State} {side : Side} {e : Exc} (h : (∀ l, e ≠ .logic l) → u.report = s.report) :
    Disciplined b s (s.takeException u side e) := by
  obtain ⟨base, which, run⟩ := takeException_eq s u side e
  rw [run]
  refine ⟨fun x k => ?_, fun l k => ?_, nofun⟩
  · cases k
    have report : base.report = s.report := by
      rcases which with ⟨_, rfl⟩ | ⟨other, rfl⟩
      · rfl
      · exact h other
    refine ⟨base.setFlag_flag e.flag, side.pos s, [], ?_, fun _ => rfl, fun _ => rfl⟩
    rw [← report]
    rfl
  · cases k
    rcases which with ⟨_, rfl⟩ | ⟨other, _⟩
    · exact ⟨rfl, fun _ => ⟨rfl, rfl, rfl, rfl, rfl, rfl⟩⟩
    · exact absurd rfl (other l)

theorem sequencerFailed_report (t : State) (e : Exc) : ∃ more, (t.sequencerFailed e).report = t.report ++ more := by
  unfold State.sequencerFailed
  split
  · exact ⟨[], (List.append_nil _).symm⟩
  · exact ⟨_, rfl⟩
  · exact ⟨_, rfl⟩

theorem sequencerFailed_reply (t : State) (e : Exc) : (t.sequencerFailed e).reply = t.reply := by
  unfold State.sequencerFailed
  split <;> rfl

theorem OnlyRecorded.sequencerFailed {s t : State} (h : OnlyRecorded s t) (e : Exc) : OnlyRecorded s (t.sequencerFailed e) := by
  unfold State.sequencerFailed
  split <;> exact h

/-- A sequencer fails behind the recording of the `LogicError` that its unit operation met. -/
theorem disciplined_sequencerFailed {s : State} {side : Side} {l : LogicSub} (allowed : b) :
    Disciplined b s ((s.takeException s side (.logic l)).sequencerFailed (.logic l)) := by
  have recorded : Disciplined b s (s.takeException s side (.logic l)) := disciplined_takeException fun _ => rfl
  generalize ht : s.takeException s side (.logic l) = t at recorded
  have reply : t.reply = some (.fault (.logic l)) := by rw [← ht]; rfl
  refine ⟨fun e k => ?_, fun l' k => ?_, fun k => ?_⟩ <;> rw [sequencerFailed_reply, reply] at k <;> cases k
  · obtain ⟨flag, pos, rest, report, _⟩ := recorded.raised _ reply
    obtain ⟨more, grown⟩ := sequencerFailed_report t (.logic l)
    refine ⟨(frame_sequencerFailed t _).sticky _ flag, pos, rest ++ more, ?_, fun other => absurd rfl (other l),
      fun never => absurd allowed never⟩
    rw [grown, report, List.append_assoc, List.cons_append]
  · exact ⟨(recorded.dead l reply).1.sequencerFailed _, fun never => absurd allowed never⟩

section
variable {side : Side} {op : Op Result} {s t : State}

theorem disciplined_issueAlways (h : Orderly b op) (e : issueAlways side op s = .next t) : Disciplined b s t := by
  have ends := h s
  cases e
  cases run : op s with
  | ok r u => exact ⟨nofun, nofun, nofun⟩
  | error x u =>
    rw [run] at ends
    cases x with
    | hold => exact ⟨nofun, nofun, fun _ => ⟨rfl, ends⟩⟩
    | issued l => exact disciplined_sequencerFailed ends
    | exc x =>
      refine disciplined_takeException fun other => ?_
      cases x with
      | logic l => exact absurd rfl (other l)
      | _ => exact ends

theorem disciplined_issue (live : s.faulted = false) (h : Orderly b op) (e : issue side op s = .next t) : Disciplined b s t := by
  rw [issue_live live] at e
  exact disciplined_issueAlways h e

end

/-! ### Every instruction -/

/-- The operations that issue others and may be ended by a `LogicError` of one of them (R374). -/
def isSequencer : Instr → Bool
  | .decStep | .encInit _ | .encBlock | .encFinish => true
  | _ => false

theorem isSequencer_eq_false {i : Instr} (h : i ∉ [.decStep, .encBlock, .encFinish]) (k : ∀ b, i ≠ .encInit b) :
    isSequencer i = false := by
  cases i
  case decStep | encBlock | encFinish => simp at h
  case encInit b => exact absurd rfl (k b)
  all_goals rfl

/-- The operations that are accepted in a dead session too (R374). -/
theorem exec_always {i : Instr} {s t : State}
    (h : (∃ m, i = .streamReset m) ∨ i ∈ [.outPull, .pcmPop, .mdPop, .reportPop, .siPop]) (e : exec i s = .next t) :
    Disciplined b s t := by
  rcases h with ⟨m, rfl⟩ | h
  · rcases exec_streamReset_cases e with ⟨mode, rfl⟩ | rfl
    · exact ⟨nofun, nofun, nofun⟩
    · exact disciplined_takeException fun _ => rfl
  · simp only [List.mem_cons, List.not_mem_nil, or_false] at h
    rcases h with rfl | rfl | rfl | rfl | rfl <;> refine disciplined_issueAlways (Sure.orderly ?_) e <;>
      exact sure_bind (sure_look _) fun _ => sure_bind (sure_update _) fun _ => sure_pure _

/-- What any instruction leaves in a live session, if it raised or held. -/
theorem exec_disciplined {i : Instr} {s t : State} (live : s.faulted = false) (e : exec i s = .next t) :
    Disciplined (isSequencer i = true) s t := by
  cases i
  case streamReset m => exact exec_always (.inl ⟨m, rfl⟩) e
  case outPull | pcmPop | mdPop | reportPop | siPop => exact exec_always (.inr (by simp)) e
  case inPush n =>
    refine disciplined_issue live (Quiet.orderly ?_) (exec_inPush_cases e).1
    simp (maxDischargeDepth := 100)
  all_goals refine disciplined_issue live ?_ e
  case inEof => exact (sure_bind (sure_update _) fun _ => sure_pure _).orderly
  case decStep => exact orderly_sure (orderly_decStep rfl) fun _ => sure_pure _
  case decFlush => exact orderly_sure orderly_decFlush fun _ => sure_pure _
  case encInit => exact (quiet_bind (quiet_check _ _) fun _ => quiet_bind (quiet_encInit rfl) fun _ => quiet_pure _).orderly
  case encBlock => exact (quiet_bind (quiet_encBlock rfl _) fun _ => quiet_pure _).orderly
  case encFinish => exact (quiet_bind (quiet_encFinish rfl) fun _ => quiet_pure _).orderly
  all_goals
    refine Quiet.orderly ?_
    simp (maxDischargeDepth := 100) [checkWidth, checkRiceParam, checkByteCount, checkCodedLimit, skipBits, readCoded, writeRice]

/-- In a dead session all but reset and the queue reads are refused (R374). -/
theorem exec_dead {i : Instr} {s : State} (dead : s.faulted = true) (h : ∀ m, i ≠ .streamReset m)
    (k : i ∉ [.outPull, .pcmPop, .mdPop, .reportPop, .siPop]) :
    exec i s = .next { s with reply := some (.fault (.logic .faulted)) } := by
  cases i
  case streamReset m => exact absurd rfl (h m)
  case outPull | pcmPop | mdPop | reportPop | siPop => simp at k
  case inPush n =>
    change execInPush n s = _
    rw [execInPush, issue_dead dead]
    exact if_pos (.inl rfl)
  all_goals exact issue_dead dead

/-- An operation holds only while more input may come, in a dead session not at all. -/
theorem exec_held {i : Instr} {s t : State} (e : exec i s = .next t) (reply : t.reply = some .hold) :
    t = { s with reply := some .hold } ∧ s.inEof = false := by
  cases live : s.faulted with
  | false => exact (exec_disciplined live e).held reply
  | true =>
    by_cases accepted : (∃ m, i = .streamReset m) ∨ i ∈ [.outPull, .pcmPop, .mdPop, .reportPop, .siPop]
    · exact (exec_always (b := False) accepted e).held reply
    · obtain ⟨other, queue⟩ := not_or.1 accepted
      rw [exec_dead live (not_exists.1 other) queue] at e
      cases e
      cases reply

/-- Settles O57: the dead session by `exec_dead`, a live one by `exec_disciplined`, which rests on how each part of each operation
may end (`Quiet`, `Orderly`). -/
theorem faultDiscipline : Obligations.FaultDiscipline := by
  unfold Obligations.FaultDiscipline
  intro i s
  have single (h : i ∉ [.decStep, .encBlock, .encFinish]) (k : ∀ b, i ≠ .encInit b) : ¬ isSequencer i = true := by
    simp [isSequencer_eq_false h k]
  refine ⟨exec_dead, fun t e live run reply => ?_, fun t l live run reply => ?_, fun t => exec_held⟩
  · obtain ⟨flag, pos, rest, report, other, unit⟩ := (exec_disciplined live run).raised e reply
    exact ⟨flag, pos, rest, report, other, fun h k => unit (single h k)⟩
  · have disciplined := exec_disciplined live run
    obtain ⟨flag, _⟩ := disciplined.raised _ reply
    obtain ⟨recorded, unit⟩ := disciplined.dead l reply
    exact ⟨flag, recorded, fun h k => unit (single h k)⟩

end Sys2Proof.Machine

/-! PROOFS. The CRC engines: each step loses nothing, and bytes followed by their own CRC leave zero (42_crc_hash.md R191 to R199). -/

namespace Sys2Proof.Machine

variable {w : Nat}

/-! ### A turn of either engine -/

/-- A turn of a CRC register of `w + 1` bits (R191, R194). -/
def crcTurn (poly c : BitVec (w + 1)) : BitVec (w + 1) := if c.getLsbD w then (c <<< 1) ^^^ poly else c <<< 1

theorem crc8Step_eq (c : BitVec 8) (x : Byte) : crc8Step c x = (crcTurn Config.crc8.poly)^[8] (c ^^^ x) := rfl

theorem crc16Step_eq (c : BitVec 16) (x : Byte) :
    crc16Step c x = (crcTurn Config.crc16.poly)^[8] (c ^^^ (x.setWidth 16 <<< 8)) := rfl

/-- While no bit leaves the register a turn only shifts. -/
theorem crcTurn_of_top_clear {poly c : BitVec (w + 1)} (top : c.getLsbD w = false) : crcTurn poly c = c <<< 1 :=
  if_neg (Bool.eq_false_iff.1 top)

/-- The constant term of the polynomial brings the bit that leaves the register back in at the bottom. -/
theorem crcTurn_getLsbD_zero {poly : BitVec (w + 1)} (odd : poly.getLsbD 0 = true) (c : BitVec (w + 1)) :
    (crcTurn poly c).getLsbD 0 = c.getLsbD w := by
  have shifted : (c <<< 1).getLsbD 0 = false := by simp
  unfold crcTurn
  split <;> simp only [BitVec.getLsbD_xor, Bool.false_xor, *]

/-- Every other bit comes from the one below it, and from the polynomial if a bit leaves the register. -/
theorem crcTurn_getLsbD_succ (poly c : BitVec (w + 1)) {i : Nat} (h : i < w) :
    (crcTurn poly c).getLsbD (i + 1) = (c.getLsbD i ^^ (c.getLsbD w && poly.getLsbD (i + 1))) := by
  have shifted : (c <<< 1).getLsbD (i + 1) = c.getLsbD i := by
    simp [h, -BitVec.getLsbD_eq_getElem]
  unfold crcTurn
  split <;> simp only [BitVec.getLsbD_xor, Bool.true_and, Bool.false_and, Bool.xor_false, *]

theorem crcTurn_injective {poly : BitVec (w + 1)} (odd : poly.getLsbD 0 = true) : Function.Injective (crcTurn poly) := by
  intro c d h
  have top : c.getLsbD w = d.getLsbD w := by rw [← crcTurn_getLsbD_zero odd, h, crcTurn_getLsbD_zero odd]
  refine BitVec.eq_of_getLsbD_eq fun i hi => ?_
  rcases Nat.lt_succ_iff_lt_or_eq.1 hi with below | rfl
  · have bit := congrArg (·.getLsbD (i + 1)) h
    simpa only [crcTurn_getLsbD_succ _ _ below, top, Bool.xor_left_inj] using bit
  · exact top

/-! ### A step of either engine -/

theorem xor_right_injective (c : BitVec w) : Function.Injective (c ^^^ ·) := fun _ _ => (BitVec.xor_right_inj c).1

theorem xor_left_injective (x : BitVec w) : Function.Injective (· ^^^ x) := fun _ _ => (BitVec.xor_left_inj x).1

/-- The high byte of a word tells the byte. -/
theorem highByte_injective : Function.Injective fun x : Byte => x.setWidth 16 <<< 8 := by
  have back (x : Byte) : (x.setWidth 16 <<< 8).extractLsb' 8 8 = x := by
    ext i hi
    simp [show 8 + i < 16 by omega, BitVec.getLsbD_eq_getElem hi]
  intro x y h
  rw [← back x, ← back y]
  exact congrArg _ h

theorem crc8Step_injective_register (x : Byte) : Function.Injective (crc8Step · x) :=
  ((crcTurn_injective rfl).iterate 8).comp (xor_left_injective x)

theorem crc8Step_injective_byte (c : BitVec 8) : Function.Injective (crc8Step c) :=
  ((crcTurn_injective rfl).iterate 8).comp (xor_right_injective c)

theorem crc16Step_injective_register (x : Byte) : Function.Injective (crc16Step · x) :=
  ((crcTurn_injective rfl).iterate 8).comp (xor_left_injective _)

theorem crc16Step_injective_byte (c : BitVec 16) : Function.Injective (crc16Step c) :=
  ((crcTurn_injective rfl).iterate 8).comp ((xor_right_injective c).comp highByte_injective)

/-! ### One byte changed (R199) -/

theorem foldl_injective {σ : Type} {step : σ → Byte → σ} (register : ∀ x, Function.Injective (step · x)) :
    ∀ bs : List Byte, Function.Injective fun c => bs.foldl step c
  | [] => Function.injective_id
  | b :: bs => (foldl_injective register bs).comp (register b)

/-- A fold that loses nothing of its state and sees every byte ends elsewhere when one byte is another. -/
theorem foldl_set_ne {σ : Type} {step : σ → Byte → σ} (register : ∀ x, Function.Injective (step · x))
    (byte : ∀ c, Function.Injective (step c)) {x y : Byte} (other : y ≠ x) :
    ∀ {bs : List Byte} {k : Nat} (c : σ), bs[k]? = some x → (bs.set k y).foldl step c ≠ bs.foldl step c
  | [], _, _, here => by simp at here
  | b :: bs, 0, c, here => by
    obtain rfl : b = x := by simpa using here
    exact (foldl_injective register bs).ne ((byte c).ne other)
  | b :: bs, k + 1, c, here => foldl_set_ne register byte other (bs := bs) (step c b) (by simpa using here)

/-- The remainder is handed out as it is (00_scope.md R10). -/
theorem crcOut_crc8 (c : BitVec 8) : crcOut Config.crc8 c = c := BitVec.xor_zero

theorem crcOut_crc16 (c : BitVec 16) : crcOut Config.crc16 c = c := BitVec.xor_zero

theorem crc8Of_eq (bs : List Byte) : crc8Of bs = bs.foldl crc8Step 0#8 := crcOut_crc8 _

theorem crc16Of_eq (bs : List Byte) : crc16Of bs = bs.foldl crc16Step 0#16 := crcOut_crc16 _

theorem flipBit_ne (x : Byte) (j : Fin 8) : x ^^^ (1#8 <<< j.val) ≠ x := by
  have bit : ∀ j : Fin 8, 1#8 <<< j.val ≠ 0#8 := by decide
  exact fun h => bit j (xor_right_injective x (h.trans BitVec.xor_zero.symm))

/-- Settles O18: a step is injective in the register and in the byte, so that the difference is never lost. -/
theorem crcDetectsEverySingleBit : Obligations.CrcDetectsEverySingleBit := by
  unfold Obligations.CrcDetectsEverySingleBit
  intro bs k j x here
  simp only [crc8Of_eq, crc16Of_eq]
  exact ⟨foldl_set_ne crc8Step_injective_register crc8Step_injective_byte (flipBit_ne x j) _ here,
    foldl_set_ne crc16Step_injective_register crc16Step_injective_byte (flipBit_ne x j) _ here⟩

/-! ### Bytes followed by their own CRC (R198) -/

theorem crc8Step_self (c : BitVec 8) : crc8Step c c = 0#8 := by
  rw [crc8Step_eq, BitVec.xor_self]
  rfl

/-- As many turns as there are zeros at the top of the register only shift it. -/
theorem crcTurn_iterate_of_small (poly : BitVec (w + 1)) {c : BitVec (w + 1)} :
    ∀ n, c.toNat < 2 ^ (w + 1 - n) → (crcTurn poly)^[n] c = c <<< n
  | 0, _ => by simp
  | n + 1, small => by
    have before := crcTurn_iterate_of_small poly n (small.trans_le (Nat.pow_le_pow_right (by decide) (by omega)))
    have top : (c <<< n).getLsbD w = false := by
      have clear : c.getLsbD (w - n) = false := Nat.testBit_lt_two_pow (by rwa [Nat.add_sub_add_right] at small)
      rw [BitVec.getLsbD_shiftLeft, clear, Bool.and_false]
    rw [Function.iterate_succ_apply', before, crcTurn_of_top_clear top, ← BitVec.shiftLeft_add]

/-- The high byte of the register takes it to its low byte, moved up: no bit of the high byte is left to turn. -/
theorem crc16Step_highByte (c : BitVec 16) : crc16Step c (c.extractLsb' 8 8) = (c.extractLsb' 0 8).setWidth 16 <<< 8 := by
  have low : c ^^^ ((c.extractLsb' 8 8).setWidth 16 <<< 8) = (c.extractLsb' 0 8).setWidth 16 := by
    ext i hi
    rcases Nat.lt_or_ge i 8 with below | above
    · simp [below, hi]
    · simp [Nat.not_lt.2 above, hi, show i - 8 < 8 by omega, Nat.add_sub_cancel' above]
  rw [crc16Step_eq, low]
  exact crcTurn_iterate_of_small _ 8 (by simp; omega)

theorem crc16Step_self (c : BitVec 16) : crc16Step (crc16Step c (c.extractLsb' 8 8)) (c.extractLsb' 0 8) = 0#16 := by
  rw [crc16Step_highByte, crc16Step_eq, BitVec.xor_self]
  rfl

/-- Settles O17: the CRC behind the bytes is taken away from the register that holds it (`crc8Step_self`, `crc16Step_self`). -/
theorem crcOfGoodFrameIsZero : Obligations.CrcOfGoodFrameIsZero := by
  unfold Obligations.CrcOfGoodFrameIsZero
  refine ⟨fun bs => ?_, fun bs => ?_⟩
  · rw [crc8Of_eq, List.foldl_append, ← crc8Of_eq]
    exact crc8Step_self _
  · rw [crc16Of_eq, List.foldl_append, ← crc16Of_eq]
    exact crc16Step_self _

/-! ### The operations (R192, R193, R195, R196) -/

section
variable {s : State} {count : Nat} {bs : List Byte} (live : s.faulted = false) (carried : Carries s bs)
  (len : bs.length = count)
include live carried len

theorem crc8Update_ok : Answers (exec (.crc8Update count) s) { s with crc8 := crc8Fold s.crc8 bs }
    (.nat (crc8Fold s.crc8 bs).toNat) := by
  have run : Answers (exec (.crc8Update count) s) { s with crc8 := crc8Fold s.crc8 bs }
      (.nat (crcOut Config.crc8 (crc8Fold s.crc8 bs)).toNat) := issue_ok live (bind_ok (payloadBytes_ok carried len))
  rwa [crcOut_crc8] at run

theorem crc16Update_ok : Answers (exec (.crc16Update count) s) { s with crc16 := crc16Fold s.crc16 bs }
    (.nat (crc16Fold s.crc16 bs).toNat) := by
  have run : Answers (exec (.crc16Update count) s) { s with crc16 := crc16Fold s.crc16 bs }
      (.nat (crcOut Config.crc16 (crc16Fold s.crc16 bs)).toNat) := issue_ok live (bind_ok (payloadBytes_ok carried len))
  rwa [crcOut_crc16] at run

end

/-- Settles O16: the fold over the payload, the payload refused, and the check values. -/
theorem crcOperations : Obligations.CrcOperations := by
  unfold Obligations.CrcOperations
  refine ⟨fun s count bs live => ⟨issue_unit_ok live rfl, issue_unit_ok live rfl,
      fun carried len => ⟨crc8Update_ok live carried len, crc16Update_ok live carried len⟩,
      fun other => ⟨raises_first live (payloadBytes_refused other), raises_first live (payloadBytes_refused other)⟩⟩,
    by decide +kernel, by decide +kernel, by decide +kernel, by decide +kernel⟩

end Sys2Proof.Machine

/-! PROOFS. The hash engine: its buffer, its padding and its digest, and the operations on it (42_crc_hash.md R203 to R207). -/

namespace Sys2Proof.Machine

variable {s : State} {e : Md5Regs}

/-! ### Bytes absorbed (R204) -/

theorem md5Byte_len (e : Md5Regs) (x : Byte) : (md5Byte e x).len = e.len + 1 := by
  unfold md5Byte
  split <;> rfl

theorem md5Byte_buf (e : Md5Regs) (x : Byte) : (md5Byte e x).buf = if (e.len + 1) % 64 = 0 then [] else e.buf ++ [x] := by
  unfold md5Byte
  split <;> rfl

theorem md5Absorb_append (e : Md5Regs) (xs ys : List Byte) : md5Absorb e (xs ++ ys) = md5Absorb (md5Absorb e xs) ys :=
  List.foldl_append

theorem md5Absorb_len (e : Md5Regs) (xs : List Byte) : (md5Absorb e xs).len = e.len + xs.length := by
  induction xs generalizing e with
  | nil => rfl
  | cons x xs ih =>
    show (md5Absorb (md5Byte e x) xs).len = _
    rw [ih, md5Byte_len, List.length_cons, Nat.add_assoc, Nat.add_comm 1]

/-- A byte keeps the buffer at the bytes since the last whole block. -/
theorem md5Byte_buffered (h : e.buf.length = e.len % 64) (x : Byte) : (md5Byte e x).buf.length = (md5Byte e x).len % 64 := by
  rw [md5Byte_buf, md5Byte_len]
  split
  · exact (‹(e.len + 1) % 64 = 0›).symm
  · rw [List.length_append, List.length_singleton]
    omega

theorem md5Absorb_buffered (h : e.buf.length = e.len % 64) (xs : List Byte) :
    (md5Absorb e xs).buf.length = (e.len + xs.length) % 64 := by
  rw [← md5Absorb_len]
  induction xs generalizing e with
  | nil => exact h
  | cons x xs ih => exact ih (md5Byte_buffered h x)

/-! ### The padding (R207) -/

theorem md5Padding_length (len : Nat) : (md5Padding len).length = (119 - len % 64) % 64 + 9 := by
  rw [md5Padding, List.length_cons, List.length_append, List.length_replicate, leBytes_length]

/-- The padding fills the last block. -/
theorem md5Padding_fills (len : Nat) : (len + (md5Padding len).length) % 64 = 0 := by
  rw [md5Padding_length]
  omega

theorem md5Padding_zeros {len z : Nat} (h : z < (md5Padding len).length - 9) : (md5Padding len)[z + 1]? = some 0#8 := by
  rw [md5Padding_length, Nat.add_sub_cancel] at h
  rw [md5Padding, List.getElem?_cons_succ, List.getElem?_append_left (by rwa [List.length_replicate]),
    List.getElem?_replicate_of_lt h]

theorem md5Finish_buf (h : e.buf.length = e.len % 64) : (md5Finish e).buf = [] :=
  List.length_eq_zero_iff.1 ((md5Absorb_buffered h _).trans (md5Padding_fills _))

/-- Settles O20: the buffer holds the bytes since the last whole block, and the padding ends on one. -/
theorem md5AbsorbsInAnySplit : Obligations.Md5AbsorbsInAnySplit := by
  unfold Obligations.Md5AbsorbsInAnySplit
  intro e xs ys buffered
  refine ⟨md5Absorb_append e xs ys, md5Absorb_len e xs, md5Absorb_buffered buffered xs, md5Finish_buf buffered,
    fun z => md5Padding_zeros, ?_, md5Padding_fills e.len⟩
  rw [md5Padding_length]
  omega

/-! ### The digest (R207) -/

theorem beNat_lt (bs : List Byte) : beNat bs < 2 ^ (8 * bs.length) := by
  rw [← bitsNat_bytesBits, ← bytesBits_length]
  exact bitsNat_lt _

theorem beBytes_beNat (bs : List Byte) : beBytes bs.length (beNat bs) = bs := by
  refine bytesBits_injective ?_
  rw [bytesBits_beBytes, ← bytesBits_length, ← bitsNat_bytesBits, natBits_bitsNat]

/-- The bytes of the digest are the four words, each least significant byte first. -/
theorem beBytes_md5Digest (e : Md5Regs) : beBytes 16 (md5Digest e).toNat =
    leBytes 4 e.a.toNat ++ leBytes 4 e.b.toNat ++ leBytes 4 e.c.toNat ++ leBytes 4 e.d.toNat := by
  unfold md5Digest
  generalize h : leBytes 4 e.a.toNat ++ leBytes 4 e.b.toNat ++ leBytes 4 e.c.toNat ++ leBytes 4 e.d.toNat = bytes
  have len : bytes.length = 16 := by simp [← h]
  have fits := beNat_lt bytes
  rw [len] at fits
  rw [BitVec.toNat_ofNat, Nat.mod_eq_of_lt fits, ← len, beBytes_beNat]

/-! ### The operations -/

theorem md5UpdateBytes_ok (going : s.md5.done = false) (bs : List Byte) :
    md5UpdateBytes bs s = .ok () { s with md5 := md5Absorb s.md5 bs } :=
  check_bind_true _ _ _ going

theorem md5UpdateBytes_refused (done : s.md5.done = true) (bs : List Byte) :
    md5UpdateBytes bs s = .error (.exc (.logic .badOperand)) s :=
  check_bind_false _ _ _ (by simp [done])

/-- A second `MD5_FINAL` answers the digest that is there. -/
theorem md5Final_done {d : BitVec 128} (done : s.md5.done = true) (digest : s.md5.digest = some d) : md5Final s = .ok d s := by
  rw [md5Final, update_bind, if_pos done]
  exact readReg_some digest

/-- Settles O19: the engine by `md5UpdateBytes_ok` and `md5Final_going`, the digest's bytes by `beBytes_md5Digest`. -/
theorem md5Operations : Obligations.Md5Operations := by
  unfold Obligations.Md5Operations
  intro s count bs live
  refine ⟨issue_unit_ok live rfl, fun going carried len => ?_, fun refused => ?_, ?_, fun d done digest => ?_⟩
  · exact issue_ok live ((bind_ok (payloadBytes_ok carried len)).trans (bind_ok (md5UpdateBytes_ok going bs)))
  · by_cases fits : ∃ xs, Carries s xs ∧ xs.length = count
    · obtain ⟨xs, carried, len⟩ := fits
      have done : s.md5.done = true := refused.resolve_right fun other => other xs carried len
      exact issue_exc live ((bind_ok (payloadBytes_ok carried len)).trans (bind_error (md5UpdateBytes_refused done xs)))
    · exact raises_first live (payloadBytes_refused fun xs carried len => fits ⟨xs, carried, len⟩)
  · rintro e going rfl
    rw [← beBytes_md5Digest]
    exact issue_ok live (bind_ok (md5Final_going going))
  · exact issue_ok live (bind_ok (md5Final_done done digest))

end Sys2Proof.Machine

/-! PROOFS. A step of the decoder issued by the host, and the steps through marker and metadata (46_decoder_pipeline.md R311 to R313;
60_exceptions.md R376, R387). -/

namespace Sys2Proof.Machine

variable {α : Type} {s t : State}

/-! ### A step issued by the host -/

/-- What `DEC_STEP` does in a state of the decoder (R311). -/
def stepOf : DState → Op Unit
  | .init => stepInit
  | .readStreamInfo => stepReadStreamInfo
  | .readMetadata => stepReadMetadata
  | .synced => stepSynced
  | .resync => stepResync
  | .done | .fatalError => pure ()

theorem decStep_run {d : DState} (mode : s.mode = .decode) (state : s.dstate = d) :
    decStep s = (do stepOf d; look State.dstate : Op DState) s := by
  rw [decStep, bind_ok (needMode_ok mode), look_bind, state]
  cases d <;> rfl

section
variable {d : DState} (live : s.faulted = false) (mode : s.mode = .decode) (state : s.dstate = d)
include live mode state

theorem decStep_answers (h : stepOf d s = .ok () t) : Answers (exec .decStep s) t (.dstate t.dstate) :=
  issue_ok live (bind_ok ((decStep_run mode state).trans (bind_ok h)))

theorem decStep_holds (h : stepOf d s = .error .hold t) : exec .decStep s = .next { s with reply := some .hold } :=
  issue_hold live (bind_error ((decStep_run mode state).trans (bind_error h)))

/-- A step whose unit operation met a `LogicError` ends the session (R374, R387). -/
theorem decStep_issued {l : LogicSub} (h : stepOf d s = .error (.issued l) t) :
    exec .decStep s = .next ((s.takeException s .read (.logic l)).enterFatal (.logic l)) := by
  have run := issue_issued (side := .read) (op := do let d ← decStep; pure (.dstate d)) live
    (bind_error ((decStep_run mode state).trans (bind_error h)))
  have decoding : (s.takeException s .read (.logic l)).mode = .decode := mode
  rw [State.sequencerFailed, decoding] at run
  exact run

end

/-! ### A unit operation of a metadata step -/

section
variable {m : Op α} {next : α → Op Unit}

theorem metadataOp_ok {a : α} (h : m s = .ok a t) : metadataOp m next s = next a t := by
  have tried : attempt m s = .ok (.ok a) t := by rw [attempt, h]
  rw [metadataOp, look_bind, bind_ok tried]

theorem metadataOp_fault {e : Exc} (other : ∀ l, e ≠ .logic l) (h : m s = .error (.exc e) t) :
    metadataOp m next s = metadataFault e (s.brPos / 8) t := by
  have tried : attempt m s = .ok (.error e) t := by
    rw [attempt, h]
    cases e with
    | logic l => exact absurd rfl (other l)
    | _ => rfl
  rw [metadataOp, look_bind, bind_ok tried]

theorem metadataOp_logic {l : LogicSub} (h : m s = .error (.exc (.logic l)) t) : metadataOp m next s = .error (.issued l) t := by
  rw [metadataOp, look_bind, bind_error (show attempt m s = .error (.issued l) t by rw [attempt, h])]

theorem metadataOp_hold (h : m s = .error .hold t) : metadataOp m next s = .error .hold t := by
  rw [metadataOp, look_bind, bind_error (show attempt m s = .error .hold t by rw [attempt, h])]

end

/-- A fatal exception, recorded at byte `pos` (R387). -/
def State.killed (s : State) (e : Exc) (pos : Nat) : State := (s.record e pos).enterFatal e

theorem metadataFault_other {e : Exc} (h : e ≠ .endOfStream) (pos : Nat) : metadataFault e pos s = .ok () (s.killed e pos) := by
  rw [metadataFault, if_neg h]
  rfl

theorem metadataFault_endOfStream (pos : Nat) : metadataFault .endOfStream pos s =
    .ok () ((s.record .endOfStream pos).killed (.structural .truncatedMetadata) pos) := by
  rw [metadataFault, if_pos rfl]
  rfl

section
variable {d : DState} (live : s.faulted = false) (mode : s.mode = .decode) (state : s.dstate = d)
include live mode state

/-- A step that ends in a fatal exception answers the terminal state. -/
theorem decStep_dies {e : Exc} {pos : Nat} (h : stepOf d s = .ok () (t.killed e pos)) :
    exec .decStep s = .next { t.killed e pos with reply := some (.ok (.dstate .fatalError)) } :=
  decStep_answers live mode state h

/-- A step that comes to a unit operation for which input lacks is held, or finds the metadata truncated (R312, R313, R376). -/
theorem decStep_cut {m : Op α} {next : α → Op Unit} (reached : stepOf d s = metadataOp m next t) (more : t.inEof = s.inEof)
    (lacks : m t = .error t.want t) :
    (s.inEof = false → exec .decStep s = .next { s with reply := some .hold }) ∧
    (s.inEof = true → exec .decStep s = .next {
      (t.record .endOfStream (t.brPos / 8)).killed (.structural .truncatedMetadata) (t.brPos / 8) with reply := some (.ok (.dstate .fatalError)) }) := by
  constructor <;> intro e <;> rw [State.want, more, e] at lacks
  · exact decStep_holds live mode state (reached.trans (metadataOp_hold lacks))
  · exact decStep_dies live mode state (reached.trans ((metadataOp_fault (by nofun) lacks).trans (metadataFault_endOfStream _)))

end

/-! ### The bodies of the metadata steps -/

/-- `ReadStreamInfo` behind a header of the right type and length (R312). -/
def readInfoBody (h : MbHeader) : Op Unit := do
  let body ← look fun s => (s.input.drop (s.brPos / 8)).take Config.streamInfoLen
  metadataOp siRead fun _ => metadataOp siValidate fun _ => do
    update fun s => { s with mdOut := s.mdOut ++ [⟨h.type, h.last, Config.streamInfoLen, body⟩], md5 := Md5Regs.reset }
    afterBlock h.last

/-- `ReadMetadata` behind a header of the right type: the body, then what follows it (R313). -/
def afterBody (h : MbHeader) (body : List Byte) : Op Unit := do
  if h.type = Config.mbType .seekTable then do
    let _ ← seekLoad body
    pure ()
  else pure ()
  afterBlock h.last

section
variable {h : MbHeader} (run : mbhRead s = .ok h t)
include run

theorem stepReadStreamInfo_wrongType (other : h.type ≠ 0) :
    stepReadStreamInfo s = .ok () (t.killed (.structural .noStreamInfo) (s.brPos / 8)) := by
  rw [stepReadStreamInfo, look_bind, metadataOp_ok run, if_pos (show h.type ≠ Config.mbType .streamInfo from other)]
  exact metadataFault_other (by nofun) _

theorem stepReadStreamInfo_wrongLength (type : h.type = 0) (other : h.length ≠ 34) :
    stepReadStreamInfo s = .ok () (t.killed (.structural .badStreamInfoLength) (s.brPos / 8)) := by
  rw [stepReadStreamInfo, look_bind, metadataOp_ok run, if_neg (not_not.2 (show h.type = Config.mbType .streamInfo from type)),
    if_pos (show h.length ≠ Config.streamInfoLen from other)]
  exact metadataFault_other (by nofun) _

theorem stepReadStreamInfo_body (type : h.type = 0) (length : h.length = 34) : stepReadStreamInfo s = readInfoBody h t := by
  rw [stepReadStreamInfo, look_bind, metadataOp_ok run, if_neg (not_not.2 (show h.type = Config.mbType .streamInfo from type)),
    if_neg (not_not.2 (show h.length = Config.streamInfoLen from length))]
  rfl

theorem stepReadMetadata_duplicate (type : h.type = 0) :
    stepReadMetadata s = .ok () (t.killed (.structural .duplicateStreamInfo) (s.brPos / 8)) := by
  rw [stepReadMetadata, look_bind, metadataOp_ok run, if_pos (show h.type = Config.mbType .streamInfo from type)]
  exact metadataFault_other (by nofun) _

theorem stepReadMetadata_body (other : h.type ≠ 0) : stepReadMetadata s = metadataOp mbReadBody (afterBody h) t := by
  rw [stepReadMetadata, look_bind, metadataOp_ok run, if_neg (show h.type ≠ Config.mbType .streamInfo from other)]
  rfl

end

theorem afterBlock_run (last : Bool) : afterBlock last s = .ok () { s with
    firstFramePos := if last then s.brPos / 8 else s.firstFramePos
    dstate := if last then .synced else .readMetadata } := by
  cases last <;> rfl

theorem afterBody_run (h : MbHeader) (body : List Byte) : afterBody h body s = .ok () { s with
    seek := if h.type = 3 then seekTable body else s.seek
    firstFramePos := if h.last then s.brPos / 8 else s.firstFramePos
    dstate := if h.last then .synced else .readMetadata } := by
  by_cases table : h.type = 3
  · rw [afterBody, if_pos (show h.type = Config.mbType .seekTable from table), if_pos table]
    exact afterBlock_run (s := { s with seek := seekTable body }) h.last
  · rw [afterBody, if_neg (show h.type ≠ Config.mbType .seekTable from table), if_neg table]
    exact afterBlock_run h.last

/-! ### A StreamInfo block at the cursor -/

/-- A block header is read. -/
def State.headerRead (s : State) (h : MbHeader) : State := { s with brPos := s.brPos + 32, mb := some h, mbCount := s.mbCount + 1 }

/-- What `ReadStreamInfo` does once the block is validated. -/
def keepInfo (last : Bool) (body : List Byte) : Op Unit := do
  update fun s => { s with mdOut := s.mdOut ++ [⟨0, last, 34, body⟩], md5 := Md5Regs.reset }
  afterBlock last

/-- A StreamInfo block that stands at the cursor is read, and then validated (R312). -/
theorem stepReadStreamInfo_atCursor {last : Nat} {si : StreamInfo} {body : List Byte} (reading : s.mode ≠ .encode)
    (aligned : s.brPos % 8 = 0) (l2 : last < 2) (counted : s.mbCount + 1 < 2 ^ 32) (fresh : s.siValid = false)
    (fits : si.InWidth) (bits : bytesBits body = si.bits) (h : AtCursor s (natBits 1 last ++ natBits 7 0 ++ natBits 24 34 ++ si.bits)) :
    stepReadStreamInfo s = metadataOp siValidate (fun _ => keepInfo (last = 1) body)
      { s.headerRead ⟨last = 1, 0, 34⟩ with brPos := s.brPos + 304, si := some si } := by
  have header := mbhRead_atCursor reading aligned l2 (type := 0) (length := 34) (by decide) (by decide) counted h.head
  have whole : (s.headerRead ⟨last = 1, 0, 34⟩).brPos % 8 = 0 := by
    show (s.brPos + 32) % 8 = 0
    omega
  have behind : AtCursor (s.headerRead ⟨last = 1, 0, 34⟩) si.bits := by
    have rest := h.tail
    simp only [List.length_append, natBits_length] at rest
    exact rest
  have size : body.length = 34 := by
    have count := congrArg List.length bits
    rw [bytesBits_length, streamInfoBits_length] at count
    omega
  have bytes := AtCursor.bytes whole (bits ▸ behind)
  rw [size] at bytes
  have info := siRead_atCursor (s := s.headerRead ⟨last = 1, 0, 34⟩) reading whole fresh fits behind
  refine (stepReadStreamInfo_body header rfl rfl).trans ?_
  rw [readInfoBody, look_bind]
  refine (metadataOp_ok info).trans ?_
  rw [← State.headerRead, show Config.streamInfoLen = 34 from rfl, bytes]
  rfl

/-- Settles O42: the header at the cursor by `mbhRead_atCursor`, then what the step makes of its type and length. -/
theorem metadataSteps : Obligations.MetadataSteps := by
  unfold Obligations.MetadataSteps
  intro s live mode
  have reading : s.mode ≠ .encode := by rw [mode]; decide
  refine ⟨fun h => ?_, fun aligned => ?_⟩
  · rcases h with state | state <;> rw [state]
    · exact state ▸ decStep_answers live mode state rfl
    · exact state ▸ decStep_answers live mode state rfl
  intro first die cut
  refine ⟨fun state h => ?_, fun bs state len other h => ?_, fun state lacks => ?_,
    fun last si body state l2 counted fresh fits bits h => ?_, fun last type length l2 ht hl counted h => ?_⟩
  · have run := (mkRead_atCursor reading aligned rfl h).trans (check_true _ _ rfl)
    exact decStep_answers live mode state (metadataOp_ok run)
  · have run := (mkRead_atCursor reading aligned len h).trans (check_false _ _ other)
    exact decStep_dies live mode state ((metadataOp_fault (by nofun) run).trans (metadataFault_other (by nofun) _))
  · rcases state with state | state | state
    · exact decStep_cut live mode state rfl rfl (mkRead_lacks reading aligned lacks)
    · exact decStep_cut live mode state rfl rfl (mbhRead_lacks reading aligned lacks)
    · exact decStep_cut live mode state rfl rfl (mbhRead_lacks reading aligned lacks)
  · have step := stepReadStreamInfo_atCursor reading aligned l2 counted fresh fits bits h
    have validate := siValidate_run (s := { s.headerRead ⟨last = 1, 0, 34⟩ with brPos := s.brPos + 304, si := some si }) reading rfl
    have place : (s.brPos + 304) / 8 = s.brPos / 8 + 38 := by omega
    refine ⟨fun good => ?_, fun bad => ?_⟩
    · rw [check_bind_true _ _ _ good, update_run] at validate
      have run := decStep_answers live mode state (step.trans ((metadataOp_ok validate).trans (afterBlock_run _)))
      simpa [State.headerRead, place] using run
    · rw [check_bind_false _ _ _ bad] at validate
      have run := decStep_dies live mode state (step.trans
        ((metadataOp_fault (by nofun) validate).trans (metadataFault_other (by nofun) _)))
      rw [place] at run
      exact run
  · have header := mbhRead_atCursor reading aligned l2 ht hl counted h
    have place : (s.brPos + 32) / 8 = s.brPos / 8 + 4 := by omega
    have whole : (s.headerRead ⟨last = 1, type, length⟩).brPos % 8 = 0 := by
      show (s.brPos + 32) % 8 = 0
      omega
    intro read
    refine ⟨fun state other => ?_, fun state type other => ?_, fun state type => ?_, fun state lacks => ?_,
      fun body state other len bits => ?_⟩
    · exact decStep_dies live mode state (stepReadStreamInfo_wrongType header other)
    · exact decStep_dies live mode state (stepReadStreamInfo_wrongLength header type other)
    · exact decStep_dies live mode state (stepReadMetadata_duplicate header type)
    · have behind : Lacks read (8 * length) := by
        show 8 * s.input.length < s.brPos + 32 + 8 * length
        omega
      rcases state with ⟨state, other⟩ | ⟨state, info, rfl, fresh⟩
      · have lack := (mbReadBody_run (s := read) (h := ⟨last = 1, type, length⟩) reading rfl).trans
          (bind_error (readBytes_lacks (s := read) whole behind))
        have run := decStep_cut live mode state (stepReadMetadata_body header other) rfl lack
        rw [place] at run
        exact run
      · have lack : siRead read = .error read.want read := (siRead_run (s := read) reading whole).trans
          ((check_bind_true _ _ _ (show read.siValid = false from fresh)).trans (bind_error (starve_lacks (s := read) behind)))
        have run := decStep_cut live mode state (stepReadStreamInfo_body header info rfl) rfl lack
        rw [place] at run
        exact run
    · have behind : AtCursor read (bytesBits body) := by
        have rest := bits.tail
        simp only [List.length_append, natBits_length] at rest
        exact rest
      have inside : read.brPos ≤ 8 * read.input.length := by
        simpa using h.inside (List.ne_nil_of_length_pos (by simp))
      have there := readBytes_atCursor (s := read) whole inside behind
      rw [len] at there
      have run := decStep_answers live mode state ((stepReadMetadata_body header other).trans ((metadataOp_ok
        ((mbReadBody_run (s := read) (h := ⟨last = 1, type, length⟩) reading rfl).trans (bind_ok there))).trans (afterBody_run _ _)))
      have stop : (s.brPos + 32 + 8 * length) / 8 = s.brPos / 8 + 4 + length := by omega
      simpa [read, stop] using run
end Sys2Proof.Machine

/-! PROOFS. `DEC_FLUSH`, and the step that ends a decode (46_decoder_pipeline.md R320, R323; 60_exceptions.md R379, R384, R385). -/

namespace Sys2Proof.Machine

variable {s : State}

/-! ### `DEC_FLUSH` -/

/-- Settles O41: `DEC_FLUSH` checks the mode, then the state, and raises the same exception for both. -/
theorem flushEntersResync : Obligations.FlushEntersResync := by
  unfold Obligations.FlushEntersResync
  intro s live
  refine ⟨fun mode running => ?_, fun other => ?_⟩
  · refine issue_unit_ok live ?_
    rw [decFlush, bind_ok (needMode_ok mode), look_bind, check_bind_true _ _ _ running]
    rfl
  · refine issue_unit_exc live ?_
    by_cases mode : s.mode = .decode
    · have stopped : ¬ (s.dstate = .synced ∨ s.dstate = .resync) := by
        rcases other with h | ⟨h, k⟩
        · exact absurd mode h
        · exact not_or.2 ⟨h, k⟩
      rw [decFlush, bind_ok (needMode_ok mode), look_bind, check_bind_false _ _ _ stopped]
    · exact bind_error (needMode_refused mode)

/-! ### The end of the input on a frame boundary -/

/-- Each flag has a bit of its own. -/
theorem Flag.mask_getLsbD (f g : Flag) : f.mask.getLsbD g.bit = decide (g = f) := by
  cases f <;> cases g <;> rfl

theorem State.setFlag_flag_iff (s : State) (f g : Flag) : (s.setFlag f).flag g = true ↔ s.flag g = true ∨ g = f := by
  rw [State.flag, State.setFlag_status, BitVec.getLsbD_or, Flag.mask_getLsbD, Bool.or_eq_true, decide_eq_true_iff]
  rfl

theorem checkTotals_flag (si : StreamInfo) (s : State) (f : Flag) : (checkTotals si s).flag f = true ↔
    s.flag f = true ∨ (f = .partial_ ∧ si.totalSamples ≠ 0 ∧ s.samplesOk ≠ si.totalSamples) := by
  by_cases short : si.totalSamples ≠ 0 ∧ s.samplesOk ≠ si.totalSamples
  · rw [checkTotals, if_pos short, State.setFlag_flag_iff]
    tauto
  · rw [checkTotals, if_neg short]
    tauto

theorem recordVerdict_flag (v : Verdict) (s : State) (f : Flag) : (recordVerdict v s).flag f = true ↔
    s.flag f = true ∨ (f = .hashErr ∧ v = .mismatch) := by
  by_cases bad : v = .mismatch
  · rw [recordVerdict, if_pos bad]
    refine (s.setFlag_flag_iff .hashErr f).trans ?_
    tauto
  · rw [recordVerdict, if_neg bad]
    tauto

/-- The verdict over a digest, given what the totals say (R379, R385). -/
def State.verdictFor (s : State) (si : StreamInfo) (digest : BitVec 128) : Verdict :=
  verdictOf (!(checkTotals si s).flag .partial_) si.md5 digest

/-- The final actions once the digest is known (R324). -/
def State.concluded (s : State) (si : StreamInfo) (digest : BitVec 128) : State :=
  enterDone (s.verdictFor si digest) (recordVerdict (s.verdictFor si digest) (checkTotals si s))

/-- The engine is final (R207). -/
def State.md5Closed (s : State) : State := { s with md5 := md5Finish s.md5 }

/-- The digest of everything absorbed (R207). -/
def State.finalDigest (s : State) : BitVec 128 := md5Digest (md5Absorb s.md5 (md5Padding s.md5.len))

theorem finishDecode_going {si : StreamInfo} (info : s.si = some si) (going : s.md5.done = false) :
    finishDecode s = .ok () (s.md5Closed.concluded si s.finalDigest) := by
  have known : readReg State.si s.md5Closed = .ok si s.md5Closed := readReg_some info
  rw [finishDecode, bind_ok (md5Final_going going), ← State.md5Closed, bind_ok known]
  rfl

section
variable (si : StreamInfo) (digest : BitVec 128)

theorem State.concluded_flag (f : Flag) : (s.concluded si digest).flag f = true ↔ s.flag f = true ∨
    (f = .partial_ ∧ si.totalSamples ≠ 0 ∧ s.samplesOk ≠ si.totalSamples) ∨
    (f = .hashErr ∧ s.verdictFor si digest = .mismatch) := by
  have recorded := recordVerdict_flag (s.verdictFor si digest) (checkTotals si s) f
  rw [checkTotals_flag, or_assoc] at recorded
  exact recorded

theorem State.concluded_report_mismatch (bad : s.verdictFor si digest = .mismatch) : (s.concluded si digest).report =
    s.report ++ [.exception 7 0 (s.brPos / 8), .final .mismatch s.framesOk s.samplesOk s.resyncs] := by
  rw [State.concluded, bad, recordVerdict, if_pos rfl, checkTotals]
  split <;> simp [enterDone, Exc.code, Exc.sub]

theorem State.concluded_report_good (good : s.verdictFor si digest ≠ .mismatch) : (s.concluded si digest).report =
    s.report ++ [.final (s.verdictFor si digest) s.framesOk s.samplesOk s.resyncs] := by
  rw [State.concluded, recordVerdict, if_neg good, checkTotals]
  split <;> rfl

theorem State.concluded_rest : { s.concluded si digest with
    verdict := s.verdict, status := s.status, report := s.report, dstate := s.dstate } = s := by
  unfold State.concluded checkTotals recordVerdict
  split <;> split <;> rfl

end

/-- The verdict (R385), for a decode that is partial (R379) or not. -/
theorem State.verdictFor_iff (s : State) (si : StreamInfo) (digest : BitVec 128) :
    let part := s.flag .partial_ = true ∨ (si.totalSamples ≠ 0 ∧ s.samplesOk ≠ si.totalSamples)
    (part ∨ si.md5 = 0#128 → s.verdictFor si digest = .notVerified) ∧
    (¬ part → si.md5 ≠ 0#128 → digest = si.md5 → s.verdictFor si digest = .match_) ∧
    (¬ part → si.md5 ≠ 0#128 → digest ≠ si.md5 → s.verdictFor si digest = .mismatch) := by
  intro part
  have partial_ : (checkTotals si s).flag .partial_ = true ↔ part := by
    rw [checkTotals_flag, eq_self_iff_true, true_and]
  rw [← partial_, State.verdictFor, verdictOf]
  cases (checkTotals si s).flag .partial_ <;> by_cases stored : si.md5 = 0#128 <;> simp +contextual [stored]

/-- The step that ends the decode (R314, R324). -/
theorem stepSynced_done {si : StreamInfo} (atEnd : s.brPos = 8 * s.input.length) (ended : s.inEof = true) (info : s.si = some si)
    (going : s.md5.done = false) : stepSynced s = .ok () (s.md5Closed.concluded si s.finalDigest) := by
  rw [stepSynced, look_bind, look_bind, look_bind, if_pos atEnd, if_pos ended]
  exact asIssued_ok (finishDecode_going info going)

/-- Settles O45: the final actions leave `State.concluded`, whose verdict is `State.verdictFor`. -/
theorem doneGivesTheVerdict : Obligations.DoneGivesTheVerdict := by
  unfold Obligations.DoneGivesTheVerdict
  rintro s si digest live mode state atEnd ended info going rfl
  intro part
  have run := decStep_answers live mode state (stepSynced_done atEnd ended info going)
  have within := (keeps_finishDecode s).reserved
  rw [finishDecode_going info going] at within
  have rest := s.md5Closed.concluded_rest si s.finalDigest
  obtain ⟨unverified, match_, mismatch⟩ := s.md5Closed.verdictFor_iff si s.finalDigest
  refine ⟨_, run, rfl, rfl, ?_, (congrArg State.pcmOut rest :), (congrArg State.brPos rest :), unverified, match_, mismatch, fun f => ?_,
    within, s.md5Closed.concluded_report_mismatch si s.finalDigest, s.md5Closed.concluded_report_good si s.finalDigest, ?_⟩
  · exact (congrArg (fun u => u.md5.digest) rest :)
  · refine (s.md5Closed.concluded_flag si s.finalDigest f).trans ⟨?_, ?_⟩
    · rintro (set | ⟨rfl, short⟩ | bad)
      exacts [.inl set, .inr (.inl ⟨rfl, .inr short⟩), .inr (.inr bad)]
    · rintro (set | ⟨rfl, set | short⟩ | bad)
      exacts [.inl set, .inl set, .inr (.inl ⟨rfl, short⟩), .inr (.inr bad)]
  · exact (congrArg (fun u => { u with md5 := s.md5, reply := s.reply }) rest :)

end Sys2Proof.Machine

/-! PROOFS. What the parts of `DEC_FRAME` and of the metadata operations leave as it is. -/

namespace Sys2Proof.Machine

variable {α : Type} {b : Prop} {I : State → Prop}

/-! ### Conditions that do not look at the read cursor -/

/-- `I` does not look at the read cursor. -/
def Unplaced (I : State → Prop) : Prop := ∀ s p, I s → I { s with brPos := p }

section
variable (free : Unplaced I)
include free

@[simp] theorem stays_skipBits_unplaced (n : Nat) : Stays b I (skipBits n) := fun s h => free s _ h
@[simp] theorem stays_readBits_unplaced (n : Nat) : Stays b I (readBits n) := by
  simp (maxDischargeDepth := 100) [readBits, free]
@[simp] theorem stays_readU_unplaced (n : Nat) : Stays b I (readU n) := by simp (maxDischargeDepth := 100) [readU, free]
@[simp] theorem stays_readS_unplaced (n : Nat) : Stays b I (readS n) := by simp (maxDischargeDepth := 100) [readS, free]
@[simp] theorem stays_readUnary_unplaced : Stays b I readUnary := by simp (maxDischargeDepth := 100) [readUnary, free]
@[simp] theorem stays_readRice_unplaced (k : Nat) : Stays b I (readRice k) := by
  simp (maxDischargeDepth := 100) [readRice, free]
@[simp] theorem stays_readBytes_unplaced (n : Nat) : Stays b I (readBytes n) := by
  simp (maxDischargeDepth := 100) [readBytes, free]

@[simp] theorem stays_readCodedTail_unplaced : ∀ n v, Stays b I (readCodedTail n v)
  | 0, v => stays_pure v
  | n + 1, _ => stays_bind (stays_readBits_unplaced free 8) fun _ => stays_bind (stays_check _ _) fun _ =>
    stays_readCodedTail_unplaced n _

@[simp] theorem stays_readCodedBytes_unplaced (m : Nat) : Stays b I (readCodedBytes m) := by
  refine stays_bind (stays_readBits_unplaced free 8) fun _ => ?_
  dsimp only
  exact stays_ite (stays_pure _) (stays_bind (stays_check _ _) fun _ => stays_readCodedTail_unplaced free _ _)

@[simp] theorem stays_fhBlocksize_unplaced (c : Nat) : Stays b I (fhBlocksize c) := by
  simp (maxDischargeDepth := 100) [fhBlocksize, free]
@[simp] theorem stays_fhSampleRate_unplaced (c : Nat) : Stays b I (fhSampleRate c) := by
  simp (maxDischargeDepth := 100) [fhSampleRate, free]
@[simp] theorem stays_fhFixed_unplaced : Stays b I fhFixed := by simp (maxDischargeDepth := 100) [fhFixed, free]
@[simp] theorem stays_mkRead_unplaced : Stays b I mkRead := by simp (maxDischargeDepth := 100) [mkRead, free]
@[simp] theorem stays_readStreamInfo_unplaced : Stays b I readStreamInfo := by
  simp (maxDischargeDepth := 100) [readStreamInfo, free]
@[simp] theorem stays_readWasted_unplaced (wf : Nat) : Stays b I (readWasted wf) := by
  simp (maxDischargeDepth := 100) [readWasted, free]
@[simp] theorem stays_sfHeader_unplaced : Stays b I sfHeader := by simp (maxDischargeDepth := 100) [sfHeader, free]
@[simp] theorem stays_riceRead_unplaced (k : Nat) : Stays b I (riceRead k) := by
  simp (maxDischargeDepth := 100) [riceRead, free]

@[simp] theorem stays_escRead_unplaced (n : Nat) : Stays b I (escRead n) := by
  unfold escRead
  refine stays_ite (stays_pure _) ?_
  split <;> simp (maxDischargeDepth := 100) [free]

@[simp] theorem stays_readPadding_unplaced : ∀ k, Stays b I (readPadding k)
  | 0 => stays_pure ()
  | k + 1 => stays_bind (stays_readU_unplaced free 1) fun _ => stays_bind (stays_check _ _) fun _ => stays_readPadding_unplaced k

end

/-! ### What `DEC_FRAME` leaves as it is -/

/-- The parts of a frame leave the hash, the output, the counters, the StreamInfo, the sequencer and `STATUS.logic` as `d` has
them, and where `p` holds the header too. -/
def Spared (p : Prop) (d s : State) : Prop :=
  s.md5 = d.md5 ∧ s.pcmOut = d.pcmOut ∧ s.framesOk = d.framesOk ∧ s.samplesOk = d.samplesOk ∧ s.resyncs = d.resyncs ∧
    s.report = d.report ∧ s.dstate = d.dstate ∧ s.si = d.si ∧ s.status.getLsbD 1 = d.status.getLsbD 1 ∧ (p → s.fh = d.fh)

variable {p : Prop} {d : State}

theorem Spared.refl (p : Prop) (d : State) : Spared p d d := ⟨rfl, rfl, rfl, rfl, rfl, rfl, rfl, rfl, rfl, fun _ => rfl⟩

theorem unplaced_spared : Unplaced (Spared p d) := fun _ _ h => h

/-- A flag other than `logic` keeps the session alive. -/
theorem Spared.setFlag {f : Flag} {s : State} (h : Spared p d s) (other : f ≠ .logic) : Spared p d (s.setFlag f) := by
  obtain ⟨md5, pcm, frames, samples, resyncs, report, state, si, alive, fh⟩ := h
  refine ⟨md5, pcm, frames, samples, resyncs, report, state, si, ?_, fh⟩
  rw [State.setFlag_status, BitVec.getLsbD_or, show f.mask.getLsbD 1 = false from (Flag.mask_getLsbD f .logic).trans
    (decide_eq_false other.symm), Bool.or_false, alive]

@[simp] theorem stays_frameStart_spared : Stays b (Spared p d) frameStart := fun _ h => h
@[simp] theorem stays_headerStart_spared : Stays b (Spared False d) headerStart := by simp [headerStart, Spared]
@[simp] theorem stays_fhParse_spared : Stays b (Spared False d) fhParse := by
  refine stays_bind stays_notEncode fun _ => stays_bind stays_readAligned fun _ => stays_bind stays_headerStart_spared fun _ =>
    stays_bind (stays_look _) fun _ => stays_bind (stays_fhFixed_unplaced unplaced_spared) fun _ =>
    stays_bind (stays_readCodedBytes_unplaced unplaced_spared _) fun _ => stays_bind (stays_fhBlocksize_unplaced unplaced_spared _) fun _ =>
    stays_bind (stays_fhSampleRate_unplaced unplaced_spared _) fun _ => stays_bind (stays_look _) fun _ =>
    stays_bind (stays_readU_unplaced unplaced_spared _) fun _ => stays_bind (by simp [Spared]) fun _ => stays_bind (stays_look _) fun _ =>
    stays_ite (stays_bind (fun _ h => h.setFlag (by decide)) fun _ => stays_raise _) (by simp [Spared])
@[simp] theorem stays_fhValidate_spared : Stays b (Spared False d) fhValidate := by
  simp (maxDischargeDepth := 100) [fhValidate, Spared]
@[simp] theorem stays_writeRes_spared (i : Nat) (r : Int) : Stays b (Spared p d) (writeRes i r) := fun _ h => h
@[simp] theorem stays_readRun_spared {one : Op Int} (h : Stays b (Spared p d) one) : ∀ cnt idx, Stays b (Spared p d) (readRun one cnt idx)
  | 0, _ => stays_pure ()
  | cnt + 1, idx => stays_bind h fun _ => stays_bind (stays_writeRes_spared _ _) fun _ => stays_readRun_spared h cnt (idx + 1)
@[simp] theorem stays_readResHeader_spared (n o : Nat) : Stays b (Spared p d) (readResHeader n o) := by
  simp (maxDischargeDepth := 100) [readResHeader, Spared, unplaced_spared]
@[simp] theorem stays_writeEntry_spared (i : Nat) (c : PartChoice) : Stays b (Spared p d) (writeEntry i c) := fun _ h => h
@[simp] theorem stays_readPartition_spared (m i cnt idx : Nat) : Stays b (Spared p d) (readPartition m i cnt idx) := by
  simp (maxDischargeDepth := 100) [readPartition, unplaced_spared]
@[simp] theorem stays_readPartitions_spared (n o m q : Nat) : ∀ left i idx, Stays b (Spared p d) (readPartitions n o m q left i idx)
  | 0, _, _ => stays_pure ()
  | left + 1, _, _ => stays_bind (stays_readPartition_spared _ _ _ _) fun _ => stays_readPartitions_spared n o m q left _ _
@[simp] theorem stays_resDecode_spared : Stays b (Spared p d) resDecode := by simp (maxDischargeDepth := 100) [resDecode]
@[simp] theorem stays_writeSmp_spared (c i : Nat) (v : Int) : Stays b (Spared p d) (writeSmp c i v) := fun _ h => h
@[simp] theorem stays_writeRow_spared (c : Nat) (vs : List Int) : Stays b (Spared p d) (writeRow c vs) := fun _ h => h
@[simp] theorem stays_readSamples_spared (c bps : Nat) : ∀ cnt i, Stays b (Spared p d) (readSamples c bps cnt i)
  | 0, _ => stays_pure ()
  | cnt + 1, _ => stays_bind (stays_readS_unplaced unplaced_spared _) fun _ => stays_bind (stays_writeSmp_spared _ _ _) fun _ =>
    stays_readSamples_spared c bps cnt _
@[simp] theorem stays_readCoefs_spared (prec : Nat) : ∀ cnt j, Stays b (Spared p d) (readCoefs prec cnt j)
  | 0, _ => stays_pure ()
  | cnt + 1, _ => stays_bind (stays_readS_unplaced unplaced_spared _) fun _ => stays_bind (fun _ h => h) fun _ =>
    stays_readCoefs_spared prec cnt _
@[simp] theorem stays_sfDecConstant_spared : Stays b (Spared p d) sfDecConstant := by
  simp (maxDischargeDepth := 100) [sfDecConstant, unplaced_spared]
@[simp] theorem stays_sfDecVerbatim_spared : Stays b (Spared p d) sfDecVerbatim := by
  simp (maxDischargeDepth := 100) [sfDecVerbatim]
@[simp] theorem stays_fixedRestore_spared : Stays b (Spared p d) fixedRestore := by
  simp (maxDischargeDepth := 100) [fixedRestore]
@[simp] theorem stays_lpcRestore_spared : Stays b (Spared p d) lpcRestore := by
  simp (maxDischargeDepth := 100) [lpcRestore]
@[simp] theorem stays_sfDecFixed_spared : Stays b (Spared p d) sfDecFixed := by
  simp (maxDischargeDepth := 100) [sfDecFixed]
@[simp] theorem stays_sfDecLpc_spared : Stays b (Spared p d) sfDecLpc := by
  simp (maxDischargeDepth := 100) [sfDecLpc, Spared, unplaced_spared]
@[simp] theorem stays_finishSubframe_spared (c n bps w : Nat) : Stays b (Spared p d) (finishSubframe c n bps w) := by
  simp (maxDischargeDepth := 100) [finishSubframe]
@[simp] theorem stays_setSfType_spared (t : Nat) : Stays b (Spared p d) (setSfType t) := by
  unfold setSfType
  split
  · exact stays_bind (fun _ h => h) fun _ => stays_pure _
  · exact stays_raise _
@[simp] theorem stays_sfBody_spared (t : SfType) : Stays b (Spared p d) (sfBody t) := by cases t <;> simp [sfBody]
@[simp] theorem stays_sfDec_spared (c : Nat) : Stays b (Spared p d) (sfDec c) := by
  simp (maxDischargeDepth := 100) [sfDec, Spared, unplaced_spared]
@[simp] theorem stays_undoAt_spared (ca i : Nat) : Stays b (Spared p d) (undoAt ca i) := by
  simp (maxDischargeDepth := 100) [undoAt]
@[simp] theorem stays_chDecorrInv_spared : Stays b (Spared p d) chDecorrInv := by simp (maxDischargeDepth := 100) [chDecorrInv]
@[simp] theorem stays_checkFooter_spared (start stop crc : Nat) : Stays b (Spared p d) (checkFooter start stop crc) := by
  refine stays_bind (fun _ h => h) fun _ => stays_bind (stays_look _) fun _ => ?_
  exact stays_ite (stays_bind (fun _ h => h.setFlag (by decide)) fun _ => stays_raise _) (stays_pure _)
@[simp] theorem stays_frameFooter_spared (start : Nat) : Stays b (Spared p d) (frameFooter start) := by
  simp (maxDischargeDepth := 100) [frameFooter, unplaced_spared]
@[simp] theorem stays_decFrame_spared : Stays b (Spared False d) decFrame := by
  simp (maxDischargeDepth := 100) [decFrame, unplaced_spared]

end Sys2Proof.Machine

/-! PROOFS. A step of the decoder that begins a frame (46_decoder_pipeline.md R314, R319; 60_exceptions.md R378, R382). -/

namespace Sys2Proof.Machine

variable {s t u : State}

/-! ### A frame that is decoded -/

theorem stays_countUp_from {b : Prop} {I : State → Prop} {f : Nat → Op Unit} :
    ∀ n k, (∀ i, k ≤ i → Stays b I (f i)) → Stays b I (countUp f n k)
  | 0, _, _ => stays_pure ()
  | n + 1, k, h => stays_bind (h k (Nat.le_refl k)) fun _ => stays_countUp_from n (k + 1) fun i hi => h i (by omega)

/-- What each turn of a count establishes, and the turns behind it leave, holds at the end. -/
theorem of_countUp_ok {f : Nat → Op Unit} {P : Nat → State → Prop} (each : ∀ i s t, f i s = .ok () t → P i t)
    (later : ∀ i j, j < i → Stays False (P j) (f i)) :
    ∀ n i s t, countUp f n i s = .ok () t → ∀ j, i ≤ j → j < i + n → P j t
  | 0, i, s, t, _, j, low, high => absurd high (by omega)
  | n + 1, i, s, t, h, j, low, high => by
    obtain ⟨_, u, first, rest⟩ := of_bind_ok h
    rcases Nat.lt_or_ge i j with behind | here
    · exact of_countUp_ok each later n (i + 1) u t rest j behind (by omega)
    · obtain rfl : i = j := by omega
      exact (stays_countUp_from n (i + 1) fun k hk => later k i hk).ok (each i s u first) rest

theorem getElem?_setAt {l : List Int} {i j : Nat} {v w : Int} (before : j < i) (h : l[j]? = some w) : (setAt l i v)[j]? = some w := by
  obtain ⟨inside, _⟩ := List.getElem?_eq_some_iff.1 h
  rw [setAt, List.getElem?_append_left (by rw [List.length_take]; omega), List.getElem?_take_of_lt before, h]

/-- What is written to a row at `i` leaves the entries before. -/
theorem stays_writeSmp_before {b : Prop} {c i j k : Nat} {v w : Int} (before : j < i) :
    Stays b (fun s => (s.row c)[j]? = some w) (writeSmp k i v) := by
  intro s h
  show ((s.smp.modify k fun row => setAt row i v).getD c [])[j]? = some w
  rw [State.row] at h
  rcases Nat.lt_or_ge c s.smp.length with row | none
  · rw [List.getD_eq_getElem _ _ (by simpa using row), List.getElem_modify]
    rw [List.getD_eq_getElem _ _ row] at h
    split
    · exact getElem?_setAt before h
    · exact h
  · rw [List.getD_eq_default _ _ none] at h
    cases h

/-- Sample `i` of row `c` is written and fits the depth. -/
def State.FitsAt (s : State) (bps c i : Nat) : Prop := ∃ v, (s.row c)[i]? = some v ∧ fitsS v bps

theorem of_checkAt_ok {bps i c : Nat} (h : checkAt bps i c s = .ok () t) : t.FitsAt bps c i := by
  obtain ⟨v, hv, h⟩ := of_readReg_bind_ok h
  obtain ⟨fits, rfl⟩ := of_check_ok h
  exact ⟨v, hv, fits⟩

/-- The sample behind leaves the samples before. -/
theorem stays_undoAt_before {b : Prop} {ca bps c i j : Nat} (before : j < i) : Stays b (State.FitsAt · bps c j) (undoAt ca i) := by
  rintro s ⟨v, hv, fits⟩
  have kept : Stays b (fun s => (s.row c)[j]? = some v) (undoAt ca i) :=
    stays_ite (stays_bind (stays_readSmpAt _ _) fun _ => stays_bind (stays_readSmpAt _ _) fun _ =>
      stays_bind (stays_writeSmp_before before) fun _ => stays_writeSmp_before before) (stays_pure _)
  exact (kept s hv).mono fun _ h => ⟨v, h, fits⟩

/-- Behind `CH_DECORR_INV` every sample of the block fits the depth (R318). -/
theorem of_chDecorrInv_ok {n ch bps : Nat} (size : s.fh.blocksize = some n) (depth : s.fh.bps = some bps)
    (channels : s.fh.channels = some ch) (h : chDecorrInv s = .ok () t) : ∀ c i, c < ch → i < n → t.FitsAt bps c i := by
  obtain ⟨ca, _, h⟩ := of_readReg_bind_ok h
  obtain ⟨n', hn, h⟩ := of_readReg_bind_ok h
  obtain ⟨bps', hbps, h⟩ := of_readReg_bind_ok h
  obtain ⟨ch', hch, h⟩ := of_readReg_bind_ok h
  obtain rfl := Option.some.inj (size.symm.trans hn)
  obtain rfl := Option.some.inj (depth.symm.trans hbps)
  obtain rfl := Option.some.inj (channels.symm.trans hch)
  intro c i hc hi
  refine of_countUp_ok (P := fun i s => s.FitsAt bps c i) (fun i s t run => ?_) (fun i j before => ?_) n 0 s t h i
    (Nat.zero_le _) (by omega)
  · obtain ⟨_, u, _, checks⟩ := of_bind_ok run
    exact of_countUp_ok (P := fun c s => s.FitsAt bps c i) (fun _ _ _ => of_checkAt_ok) (fun _ _ _ => stays_checkAt _ _ _) ch 0 u t checks c
      (Nat.zero_le _) (by omega)
  · exact stays_bind (stays_undoAt_before before) fun _ => stays_countUp (fun _ => stays_checkAt _ _ _) _ _

/-! ### What a good header holds -/

theorem blocksizeOfCode_pos {c n : Nat} (h : blocksizeOfCode c = some n) : 1 ≤ n := by
  unfold blocksizeOfCode at h
  split_ifs at h <;> cases h <;> exact Nat.succ_le_of_lt (by positivity)

theorem of_fhBlocksize_ok {bsc n : Nat} (h : fhBlocksize bsc s = .ok (some n) t) : 1 ≤ n := by
  unfold fhBlocksize at h
  split at h
  · obtain ⟨v, _, _, h⟩ := of_bind_ok h
    cases h
    omega
  split at h
  · obtain ⟨v, _, _, h⟩ := of_bind_ok h
    cases h
    omega
  · exact blocksizeOfCode_pos (EStateM.Result.ok.inj h).1

theorem of_fhParse_ok {n : Nat} (h : fhParse s = .ok () t) (size : t.fh.blocksize = some n) : 1 ≤ n := by
  obtain ⟨_, _, _, h⟩ := of_bind_ok h
  obtain ⟨_, _, _, h⟩ := of_bind_ok h
  obtain ⟨_, _, _, h⟩ := of_bind_ok h
  rw [look_bind] at h
  obtain ⟨_, _, _, h⟩ := of_bind_ok h
  obtain ⟨_, _, _, h⟩ := of_bind_ok h
  obtain ⟨bs, _, block, h⟩ := of_bind_ok h
  obtain ⟨_, _, _, h⟩ := of_bind_ok h
  rw [look_bind] at h
  obtain ⟨_, _, _, h⟩ := of_bind_ok h
  rw [update_bind, look_bind] at h
  split at h
  · cases h
  · cases h
    exact of_fhBlocksize_ok (block.trans (by rw [show bs = some n from size]))

/-- A header that `FH_VALIDATE` accepts is that of a frame of the stream (R229 to R232). -/
theorem of_fhValidate_ok (h : fhValidate s = .ok () t) : ∃ si first rate, s.si = some si ∧ t.fh.valid = true ∧
    t.fh.bps = some si.bps ∧ t.fh.firstSample = some first ∧ t.fh.sampleRate = some rate ∧ t.fh.blocksize = s.fh.blocksize := by
  rw [fhValidate, validStreamInfo, seq_assoc, look_bind, seq_assoc] at h
  obtain ⟨_, h⟩ := of_check_bind_ok h
  obtain ⟨si, info, h⟩ := of_readReg_bind_ok h
  obtain ⟨_, _, h⟩ := of_readReg_bind_ok h
  obtain ⟨_, h⟩ := of_check_bind_ok h
  obtain ⟨_, _, h⟩ := of_readReg_bind_ok h
  obtain ⟨_, h⟩ := of_check_bind_ok h
  obtain ⟨n, _, h⟩ := of_readReg_bind_ok h
  obtain ⟨_, h⟩ := of_check_bind_ok h
  obtain ⟨ca, _, h⟩ := of_readReg_bind_ok h
  obtain ⟨_, h⟩ := of_check_bind_ok h
  obtain ⟨_, _, h⟩ := of_readReg_bind_ok h
  obtain ⟨_, h⟩ := of_check_bind_ok h
  obtain ⟨bps, _, depth, h⟩ := of_bind_ok h
  obtain ⟨_, rfl⟩ := of_written_ok depth
  rw [update_bind] at h
  obtain ⟨rate, rated, h⟩ := of_readReg_bind_ok h
  obtain ⟨⟨_, same, _⟩, h⟩ := of_check_bind_ok h
  obtain ⟨_, _, h⟩ := of_readReg_bind_ok h
  obtain ⟨_, _, h⟩ := of_readReg_bind_ok h
  cases h
  exact ⟨si, _, rate, info, rfl, congrArg some same, rfl, rated, rfl⟩

/-- What `DEC_FRAME` leaves when it answers: a valid header of the stream's depth, and a block of samples that fit it. -/
structure FrameDecoded (t : State) (n ch bps : Nat) : Prop where
  size : t.fh.blocksize = some n
  channels : t.fh.channels = some ch
  depth : t.fh.bps = some bps
  valid : t.fh.valid = true
  first : ∃ v, t.fh.firstSample = some v
  rate : ∃ v, t.fh.sampleRate = some v
  info : ∃ si, t.si = some si ∧ si.bps = bps
  pos : 1 ≤ n
  fits : ∀ c i, c < ch → i < n → t.FitsAt bps c i

/-- `DEC_FRAME` behind the header checks. -/
def frameRest : Op Unit := do
  let channels ← readReg fun s => s.fh.channels
  countUp sfDec channels 0
  let p ← look State.brPos
  readPadding (alignGap p)
  let start ← readReg fun s => s.fh.start
  frameFooter start
  chDecorrInv

theorem stays_frameRest {b p : Prop} {d : State} : Stays b (Spared p d) frameRest := by
  simp (maxDischargeDepth := 100) [frameRest, unplaced_spared]

theorem of_frameRest_ok (h : frameRest s = .ok () t) : ∃ u, u.fh = t.fh ∧ chDecorrInv u = .ok () t := by
  obtain ⟨_, _, h⟩ := of_readReg_bind_ok h
  obtain ⟨_, _, _, h⟩ := of_bind_ok h
  rw [look_bind] at h
  obtain ⟨_, _, _, h⟩ := of_bind_ok h
  obtain ⟨_, _, h⟩ := of_readReg_bind_ok h
  obtain ⟨_, u, _, h⟩ := of_bind_ok h
  obtain ⟨_, _, _, _, _, _, _, _, _, fh⟩ := (stays_chDecorrInv_spared (b := False) (p := True)).ok (Spared.refl _ u) h
  exact ⟨u, (fh trivial).symm, h⟩

theorem of_decFrame_ok {n ch bps : Nat} (h : decFrame s = .ok () t) (size : t.fh.blocksize = some n)
    (channels : t.fh.channels = some ch) (depth : t.fh.bps = some bps) : FrameDecoded t n ch bps := by
  obtain ⟨_, _, _, h⟩ := of_bind_ok h
  obtain ⟨_, _, _, h⟩ := of_bind_ok h
  obtain ⟨_, p, parse, h⟩ := of_bind_ok h
  obtain ⟨_, v, validate, h⟩ := of_bind_ok h
  obtain ⟨_, _, _, _, _, _, _, si, _, fh⟩ := (stays_frameRest (b := False) (p := True)).ok (Spared.refl _ v) h
  obtain ⟨_, _, _, _, _, _, _, si', _, _⟩ := (stays_fhValidate_spared (b := False)).ok (Spared.refl _ p) validate
  obtain ⟨info, first, rate, known, valid, bps', first', rate', parsed⟩ := of_fhValidate_ok validate
  obtain ⟨u, same, decorr⟩ := of_frameRest_ok h
  rw [← fh trivial] at valid bps' first' rate' parsed
  exact ⟨size, channels, depth, valid, ⟨first, first'⟩, ⟨rate, rate'⟩,
    ⟨info, by rw [si, si', known], Option.some.inj (bps'.symm.trans depth)⟩,
    of_fhParse_ok parse (parsed.symm.trans size),
    of_chDecorrInv_ok (same ▸ size) (same ▸ depth) (same ▸ channels) decorr⟩

/-! ### The block emitted -/

section
variable {n ch bps : Nat} (frame : FrameDecoded t n ch bps)
include frame

theorem FrameDecoded.rows : ch ≤ t.smp.length := by
  by_contra short
  obtain ⟨v, hv, _⟩ := frame.fits t.smp.length 0 (by omega) frame.pos
  rw [State.row, List.getD_eq_default _ _ (Nat.le_refl _)] at hv
  cases hv

theorem FrameDecoded.long (c : Nat) (hc : c < ch) : n ≤ (t.row c).length := by
  have pos := frame.pos
  obtain ⟨v, hv, _⟩ := frame.fits c (n - 1) hc (by omega)
  obtain ⟨inside, _⟩ := List.getElem?_eq_some_iff.1 hv
  omega

theorem FrameDecoded.block_fits : ∀ row ∈ t.block ch n, ∀ v ∈ row, fitsS v bps := by
  intro row mem v hv
  obtain ⟨c, hc, rfl⟩ := List.mem_map.1 mem
  obtain ⟨i, hi, rfl⟩ := List.mem_iff_getElem.1 hv
  rw [List.length_take] at hi
  obtain ⟨w, hw, fits⟩ := frame.fits c i (List.mem_range.1 hc) (by omega)
  obtain ⟨_, rfl⟩ := List.getElem?_eq_some_iff.1 hw
  rwa [List.getElem_take]

theorem FrameDecoded.block_eq : t.block ch n = (t.smp.take ch).map (·.take n) := by
  rw [block_take frame.rows, List.map_map]
  rfl

/-- The block is hashed, emitted and counted (R319). -/
theorem emitBlock_ok (mode : t.mode = .decode) (going : t.md5.done = false) (frames : t.framesOk + 1 < 2 ^ 64)
    (samples : t.samplesOk + n < 2 ^ 64) {first rate : Nat} (first_ : t.fh.firstSample = some first) (rate_ : t.fh.sampleRate = some rate) :
    emitBlock t = .ok () { t with
      md5 := md5Absorb t.md5 (hashBytes ((t.smp.take ch).map (·.take n)) n bps)
      pcmOut := t.pcmOut ++ [⟨first, n, ch, bps, rate, (t.smp.take ch).map (·.take n)⟩]
      framesOk := t.framesOk + 1
      samplesOk := t.samplesOk + n } := by
  have hashed := md5UpdatePcm_run frame.channels frame.size (.inl ⟨mode, frame.info⟩) frame.valid frame.rows frame.long
  rw [check_bind_true _ _ _ frame.block_fits, md5UpdateBytes_ok going] at hashed
  have rows := readSmp_block (s := { t with md5 := md5Absorb t.md5 (hashBytes (t.block ch n) n bps) }) frame.rows frame.long
  rw [emitBlock, bind_ok hashed]
  simp only [readReg_bind, first_, frame.size, frame.channels, frame.depth, rate_, written_some_bind, bind_ok rows, update_bind,
    update_run, if_pos frames, if_pos samples]
  rw [← frame.block_eq]
  rfl

end

/-! ### The outcome of `DEC_FRAME` -/

/-- `DEC_FRAME` is no sequencer: its exceptions are its own. -/
theorem decFrame_not_issued {l : LogicSub} : decFrame s ≠ .error (.issued l) u := fun run => by
  have kept := stays_decFrame_spared (b := False) s (Spared.refl _ s)
  rw [run] at kept
  exact kept

/-- What a reply to `DEC_FRAME` says of its outcome. -/
def FrameOutcome (s t : State) : Option Reply → Prop
  | some (.ok _) => ∃ u, decFrame s = .ok () u ∧ t = { u with reply := some (.ok .none) }
  | some .hold => ∃ u, decFrame s = .error .hold u
  | some (.fault e) => (∀ l, e ≠ .logic l) →
    ∃ u, decFrame s = .error (.exc e) u ∧ t = { u.record e (s.brPos / 8) with reply := some (.fault e) }
  | _ => True

theorem decFrame_outcome (live : s.faulted = false) (h : exec .decFrame s = .next t) : FrameOutcome s t t.reply := by
  have run : issue .read (do decFrame; pure .none) s = .next t := h
  cases outcome : decFrame s with
  | ok _ u =>
    rw [issue_ok live (bind_ok (f := fun _ => pure .none) outcome)] at run
    cases run
    exact ⟨u, outcome, rfl⟩
  | error why u =>
    cases why with
    | hold =>
      rw [issue_hold live (bind_error (f := fun _ => pure .none) outcome)] at run
      cases run
      exact ⟨u, outcome⟩
    | exc e =>
      rw [issue_exc live (bind_error (f := fun _ => pure .none) outcome)] at run
      cases run
      intro other
      cases e with
      | logic l => exact absurd rfl (other l)
      | _ => exact ⟨u, outcome, rfl⟩
    | issued l => exact absurd outcome decFrame_not_issued

section
variable {start : Nat}

theorem syncedFrame_ok (h : decFrame s = .ok () u) : syncedFrame start s = sequencerWork emitBlock u :=
  bind_ok (show attempt decFrame s = .ok (.ok ()) u by rw [attempt, h])

theorem syncedFrame_sync {sub : SyncSub} (h : decFrame s = .error (.exc (.sync sub)) u) :
    syncedFrame start s = enterResync sub start u :=
  bind_ok (show attempt decFrame s = .ok (.error (.sync sub)) u by rw [attempt, h])

/-- The end of the input within a frame is reported, and then as a truncated frame (R382). -/
def State.truncated (s : State) (start : Nat) : State := { s.record .endOfStream start with
  status := (s.record .endOfStream start).status ||| 0x0030#16
  report := (s.record .endOfStream start).report ++ [.exception 5 11 start]
  skipStart := start
  fh := { s.fh with valid := false }
  dstate := .resync }

theorem syncedFrame_eos (h : decFrame s = .error (.exc .endOfStream) u) : syncedFrame start s = .ok () (u.truncated start) := by
  have tried : attempt decFrame s = .ok (.error .endOfStream) u := by rw [attempt, h]
  have flags : ∀ w : BitVec 16, w ||| Flag.syncErr.mask ||| Flag.partial_.mask = w ||| 0x0030#16 := fun w => BitVec.or_assoc w _ _
  rw [syncedFrame, bind_ok tried, State.truncated, ← flags]
  rfl

theorem syncedFrame_fatal {e : Exc} (notLogic : ∀ l, e ≠ .logic l) (notSync : ∀ sub, e ≠ .sync sub) (notEos : e ≠ .endOfStream)
    (h : decFrame s = .error (.exc e) u) : syncedFrame start s = .ok () (u.killed e start) := by
  have tried : attempt decFrame s = .ok (.error e) u := by
    rw [attempt, h]
    cases e with
    | logic l => exact absurd rfl (notLogic l)
    | _ => rfl
  rw [syncedFrame, bind_ok tried]
  cases e with
  | sync sub => exact absurd rfl (notSync sub)
  | endOfStream => exact absurd rfl notEos
  | _ => rfl

theorem syncedFrame_logic {l : LogicSub} (h : decFrame s = .error (.exc (.logic l)) u) : syncedFrame start s = .error (.issued l) u :=
  bind_error (show attempt decFrame s = .error (.issued l) u by rw [attempt, h])

theorem syncedFrame_hold (h : decFrame s = .error .hold u) : syncedFrame start s = .error .hold u :=
  bind_error (show attempt decFrame s = .error .hold u by rw [attempt, h])

end

/-- Settles O43: what the reply says of `DEC_FRAME` is what the step makes of it. -/
theorem syncedStepActsOnTheFrame : Obligations.SyncedStepActsOnTheFrame := by
  unfold Obligations.SyncedStepActsOnTheFrame
  intro s t live mode state input h
  have outcome := decFrame_outcome live h
  have begins := stepSynced_frame input
  have kept := stays_decFrame_spared (b := False) s (Spared.refl _ s)
  refine ⟨fun n ch bps reply going frames samples size channels depth => ?_, fun sub reply => ?_, fun reply => ?_, fun sub reply => ?_,
    fun reply => ?_⟩ <;> rw [reply] at outcome
  · obtain ⟨u, run, rfl⟩ := outcome
    rw [run] at kept
    have frame := of_decFrame_ok run size channels depth
    obtain ⟨first, first_⟩ := frame.first
    obtain ⟨rate, rate_⟩ := frame.rate
    obtain ⟨md5, pcm, framesOk, samplesOk, _, _, dstate, _⟩ := kept
    rw [← md5] at going ⊢
    rw [← framesOk] at frames ⊢
    rw [← samplesOk] at samples ⊢
    rw [← pcm]
    have decoding := (keeps_decFrame s).mode
    rw [run, mode] at decoding
    refine ⟨first, rate, first_, rate_, ?_⟩
    have emitted := asIssued_ok (emitBlock_ok frame decoding going frames samples first_ rate_)
    refine (decStep_answers live mode state (begins.trans ((syncedFrame_ok run).trans emitted))).trans ?_
    rw [show State.dstate _ = .synced from dstate.trans state]
    rfl
  · obtain ⟨u, run, rfl⟩ := outcome (by nofun)
    rw [run] at kept
    obtain ⟨md5, pcm, framesOk, _, _, report, _⟩ := kept
    refine ⟨congrArg (· ++ [ReportEntry.exception 5 sub.code (s.brPos / 8)]) report, State.setFlag_flag _ _, pcm, md5, framesOk, ?_⟩
    exact (decStep_answers live mode state (begins.trans ((syncedFrame_sync run).trans rfl))).trans rfl
  · obtain ⟨u, run, rfl⟩ := outcome (by nofun)
    rw [run] at kept
    obtain ⟨md5, pcm, _, _, _, report, _⟩ := kept
    refine ⟨congrArg (· ++ [ReportEntry.exception 1 0 (s.brPos / 8)]) report, State.setFlag_flag _ _, pcm, md5, ?_⟩
    exact (decStep_answers live mode state (begins.trans (syncedFrame_eos run))).trans rfl
  · obtain ⟨u, run, rfl⟩ := outcome (by nofun)
    rw [run] at kept
    obtain ⟨_, pcm, framesOk, samplesOk, resyncs, report, _⟩ := kept
    refine ⟨congrArg (· ++ [ReportEntry.exception 6 sub.code (s.brPos / 8)]) report, State.setFlag_flag _ _, pcm, ?_⟩
    refine (decStep_answers live mode state (begins.trans (syncedFrame_fatal (by nofun) (by nofun) (by nofun) run))).trans ?_
    rw [← framesOk, ← samplesOk, ← resyncs]
    rfl
  · obtain ⟨u, run⟩ := outcome
    exact decStep_holds live mode state (begins.trans (syncedFrame_hold run))

end Sys2Proof.Machine

/-! PROOFS. Once the input has ended, every step of the decoder ends the decode or comes nearer to its end (60_exceptions.md R390). -/

namespace Sys2Proof.Machine

variable {α β : Type} {b : Prop} {s t d : State}

/-! ### How far the decode is from its end -/

/-- The bytes not yet consumed, the one at the cursor included. -/
def State.left (s : State) : Nat := s.input.length - s.brPos / 8

/-- A bound on the steps left. A frame that fails costs a step and the search behind it another; fewer than two bytes hold no sync
code. -/
def State.stepsLeft (s : State) : Nat :=
  match s.dstate with
  | .done | .fatalError => 0
  | .resync => if s.left ≤ 1 then 1 else 2 * s.left + 2
  | _ => 2 * s.left + 1

/-- The decode has ended. -/
def State.Ended (s : State) : Prop := s.dstate = .done ∨ s.dstate = .fatalError

/-- After a step from `d`: the decode has ended, or the session lives and is nearer to its end. -/
def Onward (d t : State) : Prop := t.Ended ∨ (t.faulted = false ∧ t.stepsLeft < d.stepsLeft)

/-- A part of a step ends in a state of `Q`, or with a `LogicError` that ends the session. -/
def Lands (Q : State → Prop) : EStateM.Result Stop State α → Prop
  | .ok _ t => Q t
  | .error (.issued _) _ => True
  | .error _ _ => False

/-! ### The session stays alive -/

/-- `STATUS.logic` is clear, as a word's bit. -/
def Alive (s : State) : Prop := s.status.getLsbD 1 = false

theorem unplaced_alive : Unplaced Alive := fun _ _ h => h

theorem stays_mbhRead_alive : Stays b Alive mbhRead := by
  refine stays_bind stays_notEncode fun _ => stays_bind stays_readAligned fun _ => stays_bind (stays_starve _) fun _ =>
    stays_bind (stays_readU_unplaced unplaced_alive _) fun _ => stays_bind (stays_readU_unplaced unplaced_alive _) fun _ =>
    stays_bind (stays_readU_unplaced unplaced_alive _) fun _ => stays_bind (stays_update.2 fun s h => ?_) fun _ => stays_pure _
  split <;> exact h

theorem stays_siRead_alive : Stays b Alive siRead := by simp (maxDischargeDepth := 100) [siRead, Alive, unplaced_alive]
theorem stays_siValidate_alive : Stays b Alive siValidate := by simp (maxDischargeDepth := 100) [siValidate, Alive]
theorem stays_mbReadBody_alive : Stays b Alive mbReadBody := by
  simp (maxDischargeDepth := 100) [mbReadBody, Alive, unplaced_alive]
theorem stays_emitBlock_alive : Stays b Alive emitBlock := by
  simp (maxDischargeDepth := 100) [emitBlock, md5UpdatePcm, md5UpdateBytes, Alive]

theorem stays_decFrame_alive : Stays b Alive decFrame := by
  intro s h
  refine (stays_decFrame_spared s (Spared.refl _ s)).mono fun t kept => ?_
  obtain ⟨_, _, _, _, _, _, _, _, alive, _⟩ := kept
  exact alive.trans h

/-! ### The cursor moves -/

theorem of_starve_ok {n : Nat} {a : Unit} (h : starve n s = .ok a t) : s = t := by
  rcases starve_cases n s with ⟨_, run⟩ | ⟨_, _, run⟩ | ⟨_, _, run⟩ <;> rw [run] at h <;> cases h
  rfl

theorem of_notEncode_ok {a : Unit} (h : notEncode s = .ok a t) : s = t := by
  rw [notEncode, look_bind] at h
  exact (of_check_ok h).2

theorem of_readAligned_ok {a : Unit} (h : readAligned s = .ok a t) : s = t := by
  rw [readAligned, look_bind] at h
  exact (of_check_ok h).2

theorem readU_moves {n v : Nat} (h1 : 1 ≤ n) (h2 : n ≤ 32) (h : readU n s = .ok v t) : t.brPos = s.brPos + n := by
  rw [readU_eq_readBits h1 h2, readBits] at h
  obtain ⟨a, u, peek, rest⟩ := of_bind_ok h
  obtain ⟨_, w, starved, look⟩ := of_bind_ok peek
  obtain rfl := of_starve_ok starved
  cases look
  cases rest
  rfl

theorem readBytes_moves {n : Nat} {bytes : List Byte} (h : readBytes n s = .ok bytes t) : t.brPos = s.brPos + 8 * n := by
  obtain ⟨_, u, aligned, h⟩ := of_bind_ok h
  obtain rfl := of_readAligned_ok aligned
  obtain ⟨_, v, starved, h⟩ := of_bind_ok h
  obtain rfl := of_starve_ok starved
  cases h
  rfl

theorem mkRead_moves {a : Unit} (h : mkRead s = .ok a t) : s.brPos + 8 ≤ t.brPos := by
  obtain ⟨_, _, mode, h⟩ := of_bind_ok h
  obtain rfl := of_notEncode_ok mode
  obtain ⟨bytes, u, read, h⟩ := of_bind_ok h
  obtain ⟨_, rfl⟩ := of_check_ok h
  have moved := readBytes_moves read
  omega

theorem mbhRead_moves {h : MbHeader} (run : mbhRead s = .ok h t) : s.brPos + 8 ≤ t.brPos := by
  obtain ⟨_, _, mode, run⟩ := of_bind_ok run
  obtain rfl := of_notEncode_ok mode
  obtain ⟨_, _, aligned, run⟩ := of_bind_ok run
  obtain rfl := of_readAligned_ok aligned
  obtain ⟨_, _, starved, run⟩ := of_bind_ok run
  obtain rfl := of_starve_ok starved
  obtain ⟨_, w, last, run⟩ := of_bind_ok run
  obtain ⟨_, x, type, run⟩ := of_bind_ok run
  obtain ⟨_, y, length, run⟩ := of_bind_ok run
  have moved1 := readU_moves (by decide) (by decide) last
  have moved2 := readU_moves (by decide) (by decide) type
  have moved3 := readU_moves (by decide) (by decide) length
  have stop : t.brPos = y.brPos := by
    rw [update_bind] at run
    cases run
    split <;> rfl
  omega

/-- What keeps within the frame does not move the cursor back. -/
theorem moved_bind {x : Op α} {f : α → Op β} (inside : s.brPos ≤ 8 * s.input.length) (hx : Keeps x) (hf : ∀ a, Keeps (f a))
    (h : s.brPos + 8 ≤ (endState (x s)).brPos) : s.brPos + 8 ≤ (endState ((x >>= f) s)).brPos := by
  have frame := hx s
  rw [bind_run]
  cases run : x s with
  | ok a u =>
    rw [run] at h frame
    have room : u.brPos ≤ 8 * u.input.length := by
      rw [show u.input = s.input from frame.input]
      exact (frame.cursor inside).2
    exact h.trans ((hf a u).cursor room).1
  | error e u =>
    rw [run] at h
    exact h

/-- The fields of the fixed part of a header behind the sync code (R227). -/
def fhFields : Op FhFixed := do
  let r1 ← readU 1
  let var ← readU 1
  let bsc ← readU 4
  let src ← readU 4
  let ca ← readU 4
  let bpc ← readU 3
  let r2 ← readU 1
  check (src ≠ 15) (.sync .headerReserved)
  pure ⟨r1 ||| r2, var, bsc, src, ca, bpc⟩

/-- Where 14 bits are left the fixed part consumes a byte at least, be the sync code there or not (R227). -/
theorem fhFixed_moved (room : s.brPos + 14 ≤ 8 * s.input.length) : s.brPos + 8 ≤ (endState (fhFixed s)).brPos := by
  have sync : peekBits Config.syncLen s = .ok _ s := bind_ok (starve_ok room)
  have fields : Keeps fhFields := by simp (maxDischargeDepth := 100) [fhFields]
  rw [fhFixed, bind_ok sync]
  split
  · exact Nat.le_refl _
  · have frame := fields { s with brPos := s.brPos + 14 }
    have rest := (frame.cursor room).1
    exact Nat.le_trans (Nat.add_le_add_left (by decide) s.brPos) rest

theorem fhParse_moved (mode : s.mode ≠ .encode) (aligned : s.brPos % 8 = 0) (room : s.brPos + 14 ≤ 8 * s.input.length) :
    s.brPos + 8 ≤ (endState (fhParse s)).brPos := by
  rw [fhParse_run mode aligned]
  have inside : s.begun.brPos ≤ 8 * s.begun.input.length := by
    show s.brPos ≤ 8 * s.input.length
    omega
  exact moved_bind inside keeps_fhFixed (fun _ => by simp (maxDischargeDepth := 100) [fhRest]) (fhFixed_moved (s := s.begun) room)

/-- From an aligned cursor `DEC_FRAME` consumes a byte at least where 14 bits are left. -/
theorem decFrame_moved (mode : s.mode = .decode) (aligned : s.brPos % 8 = 0) (room : s.brPos + 14 ≤ 8 * s.input.length) :
    s.brPos + 8 ≤ (endState (decFrame s)).brPos := by
  rw [decFrame, bind_ok (needMode_ok mode), frameStart, update_bind]
  refine moved_bind (s := { s with crc16 := Config.crc16.init }) (show s.brPos ≤ 8 * s.input.length by omega) keeps_fhParse
    (fun _ => by simp (maxDischargeDepth := 100)) ?_
  exact fhParse_moved (s := { s with crc16 := Config.crc16.init }) (by rw [show State.mode _ = .decode from mode]; decide) aligned room

theorem decFrame_short (mode : s.mode = .decode) (aligned : s.brPos % 8 = 0) (short : Lacks s 14) :
    decFrame s = .error s.want { s with crc16 := Config.crc16.init }.begun := by
  have parse := fhParse_short (s := { s with crc16 := Config.crc16.init })
    (by rw [show State.mode _ = .decode from mode]; decide) aligned short
  rw [decFrame, bind_ok (needMode_ok mode), frameStart, update_bind]
  exact bind_error parse

/-! ### Ahead of where the step began -/

/-- `s` is in the session of `d`, its input ended and the cursor `k` bits ahead at least, and lives. -/
def Ahead (k : Nat) (d s : State) : Prop :=
  s.input = d.input ∧ s.inEof = true ∧ d.brPos + k ≤ s.brPos ∧ s.brPos ≤ 8 * d.input.length ∧ Alive s

/-- A part that answers loses none of what is ahead. -/
theorem Ahead.after {k : Nat} {m : Op α} {a : α} (h : Ahead k d s) (keeps : Keeps m) (stays : Stays False Alive m) (run : m s = .ok a t) :
    Ahead k d t := by
  obtain ⟨input, ended, moved, inside, alive⟩ := h
  have frame := keeps s
  rw [run] at frame
  obtain ⟨on, within⟩ := frame.cursor (input ▸ inside)
  exact ⟨frame.input.trans input, frame.inEof.trans ended, moved.trans on, input ▸ within, stays.ok alive run⟩

theorem Ahead.ended {k : Nat} (h : Ahead k d s) : s.inEof = true := by
  obtain ⟨_, ended, _⟩ := h
  exact ended

/-- The cursor moved by a byte at least. -/
theorem Ahead.byte (h : Ahead 0 d t) (moved : d.brPos + 8 ≤ t.brPos) : Ahead 8 d t := by
  obtain ⟨input, ended, _, inside, alive⟩ := h
  exact ⟨input, ended, moved, inside, alive⟩

theorem State.stepsLeft_le (s : State) : s.stepsLeft ≤ 2 * s.left + 2 := by
  unfold State.stepsLeft
  split
  next => omega
  next => omega
  next => split <;> omega
  next => omega

/-- A byte consumed outside `Resync` is a step nearer to the end, wherever the step leads. -/
theorem Ahead.onward (h : Ahead 8 d t) (before : d.stepsLeft = 2 * d.left + 1) : Onward d t := by
  obtain ⟨input, _, moved, inside, alive⟩ := h
  have bound := t.stepsLeft_le
  refine .inr ⟨alive, ?_⟩
  rw [before]
  simp only [State.left, input] at *
  omega

theorem onward_fatal (h : t.dstate = .fatalError) : Onward d t := .inl (.inr h)

/-! ### The metadata steps -/

theorem lands_metadataFault (e : Exc) (pos : Nat) : Lands (Onward d) (metadataFault e pos s) := by
  by_cases eos : e = .endOfStream
  · rw [eos, metadataFault_endOfStream]
    exact onward_fatal rfl
  · rw [metadataFault_other eos]
    exact onward_fatal rfl

theorem lands_metadataOp {m : Op α} {next : α → Op Unit} (ended : s.inEof = true) (quiet : Quiet False m)
    (ok : ∀ a t, m s = .ok a t → Lands (Onward d) (next a t)) : Lands (Onward d) (metadataOp m next s) := by
  have ends := quiet s
  cases run : m s with
  | ok a t =>
    rw [metadataOp_ok run]
    exact ok a t run
  | error why t =>
    rw [run] at ends
    cases why with
    | hold => exact absurd (ended.symm.trans ends) (by decide)
    | issued l => exact ends.elim
    | exc e =>
      cases e with
      | logic l =>
        rw [metadataOp_logic run]
        trivial
      | _ =>
        rw [metadataOp_fault (by nofun) run]
        exact lands_metadataFault _ _

section
variable (start : Ahead 0 d d) (before : d.stepsLeft = 2 * d.left + 1)
include start before

theorem lands_stepInit : Lands (Onward d) (stepInit d) :=
  lands_metadataOp start.ended quiet_mkRead fun _ _ run =>
    Ahead.onward ((start.after keeps_mkRead (stays_mkRead_unplaced unplaced_alive) run).byte (mkRead_moves run)) before

theorem lands_stepReadStreamInfo : Lands (Onward d) (stepReadStreamInfo d) := by
  rw [stepReadStreamInfo, look_bind]
  refine lands_metadataOp start.ended quiet_mbhRead fun h s run => ?_
  have ahead := (start.after keeps_mbhRead stays_mbhRead_alive run).byte (mbhRead_moves run)
  split
  · exact lands_metadataFault _ _
  split
  · exact lands_metadataFault _ _
  rw [look_bind]
  refine lands_metadataOp ahead.ended quiet_siRead fun _ t run => ?_
  replace ahead := ahead.after keeps_siRead stays_siRead_alive run
  refine lands_metadataOp ahead.ended quiet_siValidate fun _ u run => ?_
  replace ahead := ahead.after keeps_siValidate stays_siValidate_alive run
  cases h.last <;> exact Ahead.onward ahead before

theorem lands_stepReadMetadata : Lands (Onward d) (stepReadMetadata d) := by
  rw [stepReadMetadata, look_bind]
  refine lands_metadataOp start.ended quiet_mbhRead fun h s run => ?_
  have ahead := (start.after keeps_mbhRead stays_mbhRead_alive run).byte (mbhRead_moves run)
  split
  · exact lands_metadataFault _ _
  refine lands_metadataOp ahead.ended quiet_mbReadBody fun body t run => ?_
  replace ahead := ahead.after keeps_mbReadBody stays_mbReadBody_alive run
  show Lands (Onward d) (afterBody h body t)
  rw [afterBody_run]
  exact Ahead.onward ahead before

end

/-! ### The sequencer's own work -/

theorem lands_sequencerWork {Q : State → Prop} {m : Op Unit} (sure : Sure False m) (ok : ∀ t, m s = .ok () t → Q t) :
    Lands Q (sequencerWork m s) := by
  rcases sure s with ⟨_, t, run⟩ | ⟨l, t, run⟩ | ⟨no, _⟩
  · rw [sequencerWork, asIssued_ok run]
    exact ok t run
  · rw [sequencerWork, asIssued, run]
    trivial
  · exact no.elim

theorem of_finishDecode_ok (h : finishDecode s = .ok () t) : t.dstate = .done := by
  obtain ⟨_, _, _, h⟩ := of_bind_ok h
  obtain ⟨_, _, h⟩ := of_readReg_bind_ok h
  cases h
  rfl

theorem lands_finishDecode : Lands (Onward d) (sequencerWork finishDecode s) :=
  lands_sequencerWork sure_finishDecode fun _ run => .inl (.inl (of_finishDecode_ok run))

theorem sure_check_logic {c : Prop} [Decidable c] (l : LogicSub) : Sure b (check c (.logic l)) := by
  intro s
  by_cases h : c
  · exact .inl ⟨(), s, check_true _ s h⟩
  · exact .inr (.inl ⟨l, s, check_false _ s h⟩)

theorem sure_hashDepth : Sure b hashDepth := by
  intro s
  unfold hashDepth
  cases s.mode
  · exact .inr (.inl ⟨_, s, rfl⟩)
  · exact sure_bind (sure_readReg _) (fun _ => sure_pure _) s
  · exact sure_bind (sure_readReg _) (fun _ => sure_pure _) s

theorem sure_readSmp (r n : Nat) : Sure b (readSmp r n) := by
  intro s
  unfold readSmp
  split
  · exact .inl ⟨_, s, rfl⟩
  · exact .inr (.inl ⟨_, s, rfl⟩)

theorem sure_md5UpdatePcm : Sure b md5UpdatePcm :=
  sure_bind sure_hashDepth fun _ => sure_bind (sure_look _) fun _ => sure_bind (sure_check_logic _) fun _ =>
    sure_bind (sure_readReg _) fun _ => sure_bind (sure_readReg _) fun _ => sure_bind (sure_readSmp _ _) fun _ =>
    sure_bind (sure_check_logic _) fun _ => sure_bind (sure_look _) fun _ => sure_bind (sure_check_logic _) fun _ => sure_update _

theorem sure_emitBlock : Sure b emitBlock :=
  sure_bind sure_md5UpdatePcm fun _ => sure_bind (sure_readReg _) fun _ => sure_bind (sure_readReg _) fun _ =>
    sure_bind (sure_readReg _) fun _ => sure_bind (sure_readReg _) fun _ => sure_bind (sure_readReg _) fun _ =>
    sure_bind (sure_readSmp _ _) fun _ => sure_bind (sure_update _) fun _ => sure_update _

/-! ### A frame -/

theorem Alive.setFlag {f : Flag} (h : Alive s) (other : f ≠ .logic) : Alive (s.setFlag f) := by
  obtain ⟨_, _, _, _, _, _, _, _, alive, _⟩ := (Spared.refl False s).setFlag other
  exact alive.trans h

theorem Alive.truncated (h : Alive s) (pos : Nat) : Alive (s.truncated pos) := by
  have word : ((s.record .endOfStream pos).status ||| 0x0030#16).getLsbD 1 = (s.record .endOfStream pos).status.getLsbD 1 := by
    rw [BitVec.getLsbD_or, show (0x0030#16).getLsbD 1 = false from rfl, Bool.or_false]
  exact word.trans (h.setFlag (f := .eos) (by decide))

section
variable (start : Ahead 0 d d) (before : d.stepsLeft = 2 * d.left + 1)
include start before

/-- A frame of which 14 bits are there: it ends the decode, or consumed a byte at least. -/
theorem lands_syncedFrame {pos : Nat} (mode : d.mode = .decode) (aligned : d.brPos % 8 = 0) (room : d.brPos + 14 ≤ 8 * d.input.length) :
    Lands (Onward d) (syncedFrame pos d) := by
  obtain ⟨_, ended, _, inside, alive⟩ := start
  have moved := decFrame_moved mode aligned room
  have ends := quiet_decFrame (b := False) d
  have meets := stays_decFrame_alive (b := False) d alive
  have frame := keeps_decFrame d
  have within := frame.cursor inside
  cases run : decFrame d with
  | ok _ u =>
    rw [run] at moved meets frame within
    have ahead : Ahead 8 d u := ⟨frame.input, frame.inEof.trans ended, moved, within.2, meets⟩
    rw [syncedFrame_ok run]
    exact lands_sequencerWork sure_emitBlock fun t emitted => (ahead.after keeps_emitBlock stays_emitBlock_alive emitted).onward before
  | error why u =>
    rw [run] at moved ends meets frame within
    cases why with
    | hold => exact absurd (ended.symm.trans ends) (by decide)
    | issued l => exact ends.elim
    | exc e =>
      have ahead : Ahead 8 d u := ⟨frame.input, frame.inEof.trans ended, moved, within.2, meets⟩
      cases e with
      | logic l =>
        rw [syncedFrame_logic run]
        trivial
      | sync sub =>
        rw [syncedFrame_sync run]
        have alive : Alive ((u.record (.sync sub) pos).setFlag .partial_) :=
          Alive.setFlag (Alive.setFlag (f := .syncErr) meets (by decide)) (by decide)
        exact Ahead.onward ⟨frame.input, frame.inEof.trans ended, moved, within.2, alive⟩ before
      | endOfStream =>
        rw [syncedFrame_eos run]
        exact Ahead.onward ⟨frame.input, frame.inEof.trans ended, moved, within.2, Alive.truncated meets pos⟩ before
      | _ =>
        rw [syncedFrame_fatal (by nofun) (by nofun) (by nofun) run]
        exact onward_fatal rfl

/-- A frame of which 14 bits are not there is truncated; too few bytes are left for another (R382, R383). -/
theorem lands_syncedFrame_short {pos : Nat} (mode : d.mode = .decode) (aligned : d.brPos % 8 = 0) (short : Lacks d 14)
    (some_ : d.brPos ≠ 8 * d.input.length) : Lands (Onward d) (syncedFrame pos d) := by
  obtain ⟨_, ended, _, inside, alive⟩ := start
  have run := decFrame_short mode aligned short
  rw [show d.want = .exc .endOfStream from if_pos ended] at run
  rw [syncedFrame_eos run]
  have few : d.left ≤ 1 ∧ 1 ≤ d.left := by
    unfold State.left
    unfold Lacks at short
    omega
  have nearer : (State.truncated { d with crc16 := Config.crc16.init }.begun pos).stepsLeft = 1 := if_pos few.1
  refine .inr ⟨Alive.truncated alive pos, ?_⟩
  rw [nearer, before]
  omega

theorem lands_stepSynced (mode : d.mode = .decode) : Lands (Onward d) (stepSynced d) := by
  by_cases whole : d.brPos = 8 * d.input.length
  · rw [stepSynced, look_bind, look_bind, look_bind, if_pos whole, if_pos start.ended]
    exact lands_finishDecode
  rw [stepSynced_frame whole]
  by_cases aligned : d.brPos % 8 = 0
  · rcases Nat.lt_or_ge (8 * d.input.length) (d.brPos + 14) with short | room
    · exact lands_syncedFrame_short start before mode aligned short whole
    · exact lands_syncedFrame start before mode aligned room
  · rw [syncedFrame_logic (decFrame_unaligned mode aligned)]
    trivial

end

/-! ### A resynchronisation -/

/-- A sync code takes two bytes. -/
theorem scanSync_room : ∀ {bs : List Byte} {i j : Nat}, scanSync bs i = some j → j + 2 ≤ i + bs.length
  | [], _, _, h => by cases h
  | [_], _, _, h => by cases h
  | a :: b :: rest, i, j, h => by
    rw [scanSync] at h
    split at h
    · cases h
      simp
    · have room := scanSync_room h
      simp only [List.length_cons] at room ⊢
      omega

theorem endResync_alive {stop pos : Nat} {how : ResyncHow} (h : Alive s) : Alive (endResync stop pos how s) := by
  unfold endResync
  split <;> exact h

theorem endResync_place {stop pos : Nat} {how : ResyncHow} :
    (endResync stop pos how s).input = s.input ∧ (endResync stop pos how s).brPos = pos := by
  unfold endResync
  split <;> exact ⟨rfl, rfl⟩

theorem lands_stepResync (start : Ahead 0 d d) (state : d.dstate = .resync) : Lands (Onward d) (stepResync d) := by
  obtain ⟨_, ended, _, inside, alive⟩ := start
  simp only [stepResync, look_bind]
  cases found : scanSync (d.input.drop ((d.brPos + 7) / 8)) ((d.brPos + 7) / 8) with
  | some j =>
    have room := scanSync_room found
    obtain ⟨behind, _⟩ := scanSync_range found
    obtain ⟨input, place⟩ := endResync_place (s := d) (stop := j) (pos := 8 * j) (how := .found)
    rw [List.length_drop] at room
    have before : d.stepsLeft = 2 * d.left + 2 := by
      have two : ¬ d.left ≤ 1 := by
        unfold State.left
        omega
      rw [State.stepsLeft, state]
      exact if_neg two
    refine .inr ⟨endResync_alive alive, ?_⟩
    show 2 * ((endResync j (8 * j) .found d).input.length - (endResync j (8 * j) .found d).brPos / 8) + 1 < d.stepsLeft
    rw [before, input, place, State.left]
    omega
  | none =>
    dsimp only
    rw [if_pos ended, update_bind, look_bind]
    split
    · exact onward_fatal rfl
    · exact lands_finishDecode

/-! ### The steps -/

/-- What holds of a live decode session once its input has ended. -/
structure Closing (s : State) : Prop where
  live : s.faulted = false
  mode : s.mode = .decode
  inside : s.brPos ≤ 8 * s.input.length
  ended : s.inEof = true

theorem Closing.start (h : Closing d) : Ahead 0 d d := ⟨rfl, h.ended, Nat.le_refl _, h.inside, h.live⟩

theorem Closing.lands (h : Closing d) (going : ¬ d.Ended) : Lands (Onward d) (stepOf d.dstate d) := by
  have start := h.start
  cases state : d.dstate with
  | init => exact lands_stepInit start (by rw [State.stepsLeft, state])
  | readStreamInfo => exact lands_stepReadStreamInfo start (by rw [State.stepsLeft, state])
  | readMetadata => exact lands_stepReadMetadata start (by rw [State.stepsLeft, state])
  | synced => exact lands_stepSynced start (by rw [State.stepsLeft, state]) h.mode
  | resync => exact lands_stepResync start state
  | done => exact absurd (.inl state) going
  | fatalError => exact absurd (.inr state) going

/-- A step ends the decode, or leaves a closing session nearer to its end. -/
theorem Closing.step (h : Closing d) (going : ¬ d.Ended) :
    ∃ t, exec .decStep d = .next t ∧ (t.Ended ∨ (Closing t ∧ t.stepsLeft < d.stepsLeft)) := by
  have lands := h.lands going
  cases run : stepOf d.dstate d with
  | ok _ t =>
    rw [run] at lands
    have step := decStep_answers h.live h.mode rfl run
    have frame := exec_frame (i := .decStep) rfl step
    refine ⟨_, step, lands.imp (fun ended => ended) fun ⟨live, nearer⟩ =>
      ⟨⟨live, frame.mode.trans h.mode, ?_, frame.inEof.trans h.ended⟩, nearer⟩⟩
    rw [frame.input]
    exact (frame.cursor h.inside).2
  | error why t =>
    rw [run] at lands
    cases why with
    | issued l => exact ⟨_, decStep_issued h.live h.mode rfl run, .inl (.inr rfl)⟩
    | _ => exact lands.elim

theorem State.stepsLeft_pos (going : ¬ s.Ended) : 1 ≤ s.stepsLeft := by
  unfold State.stepsLeft
  split
  next state => exact absurd (.inl state) going
  next state => exact absurd (.inr state) going
  next => split <;> omega
  next => omega

theorem decSteps_succ (k : Nat) (h : exec .decStep s = .next t) : decSteps (k + 1) s = decSteps k t := by
  rw [decSteps, h]

theorem Closing.terminates : ∀ n s, Closing s → s.stepsLeft ≤ n → ∃ k, k ≤ n ∧ (decSteps k s).Ended
  | 0, s, _, bound => ⟨0, Nat.le_refl _, show s.Ended from by_contra fun going => absurd (State.stepsLeft_pos going) (by omega)⟩
  | n + 1, s, h, bound => by
    by_cases ended : s.Ended
    · exact ⟨0, Nat.zero_le _, ended⟩
    obtain ⟨t, step, ends | ⟨closing, nearer⟩⟩ := h.step ended
    · exact ⟨1, by omega, by rwa [decSteps_succ 0 step]⟩
    · obtain ⟨k, le, ends⟩ := Closing.terminates n t closing (by omega)
      exact ⟨k + 1, by omega, by rwa [decSteps_succ k step]⟩

/-- Settles O60: every step of a closing session lowers `State.stepsLeft`. -/
theorem decodeTerminates : Obligations.DecodeTerminates := by
  unfold Obligations.DecodeTerminates
  intro s live mode cursors ended
  obtain ⟨inside, _⟩ := cursors
  have bound := s.stepsLeft_le
  obtain ⟨k, le, ends⟩ := Closing.terminates _ s ⟨live, mode, inside, ended⟩ (Nat.le_refl _)
  exact ⟨k, by unfold State.left at bound; omega, ends⟩

end Sys2Proof.Machine

/-! PROOFS. What `ENC_BLOCK` leaves as it is, and how long its frame is (47_encoder.md R343 to R345, R348). -/

namespace Sys2Proof.Machine

variable {b : Prop} {d s t u : State}

/-! ### What the coding of a block leaves as it is -/

/-- `s` differs from `d` at most in what the coding of a block writes: output, CRCs, header, the registers of a subframe, samples
(R344, R345). -/
def OnlyCoded (d s : State) : Prop :=
  { s with
    out := d.out, crc8 := d.crc8, crc16 := d.crc16, fh := d.fh, sf := d.sf, qlp := d.qlp, qlpPrec := d.qlpPrec
    qlpShift := d.qlpShift, rc := d.rc, res := d.res, smp := d.smp } = d

@[simp] theorem stays_emit_coded (bits : List Bool) : Stays b (OnlyCoded d) (emit bits) := fun _ h => h
@[simp] theorem stays_writeU_coded (n v : Nat) : Stays b (OnlyCoded d) (writeU n v) := by simp [writeU]
@[simp] theorem stays_writeS_coded (n : Nat) (v : Int) : Stays b (OnlyCoded d) (writeS n v) := by simp [writeS]
@[simp] theorem stays_writeSamples_coded (n : Nat) (xs : List Int) : Stays b (OnlyCoded d) (writeSamples n xs) :=
  stays_forEach (stays_writeS_coded n) xs
@[simp] theorem stays_padOut_coded : Stays b (OnlyCoded d) padOut := by simp [padOut]
@[simp] theorem stays_fhWrite_coded : Stays b (OnlyCoded d) fhWrite := by
  simp (maxDischargeDepth := 100) [fhWrite, writeCoded, OnlyCoded]
@[simp] theorem stays_resEncode_coded : Stays b (OnlyCoded d) resEncode := by simp (maxDischargeDepth := 100) [resEncode]
@[simp] theorem stays_fixedResidual_coded (o : Nat) : Stays b (OnlyCoded d) (fixedResidual o) := by
  simp (maxDischargeDepth := 100) [fixedResidual, OnlyCoded]
@[simp] theorem stays_lpcResidual_coded : Stays b (OnlyCoded d) lpcResidual := by
  simp (maxDischargeDepth := 100) [lpcResidual, OnlyCoded]
@[simp] theorem stays_setPredictor_coded (prec : Nat) (r : LpcResult) : Stays b (OnlyCoded d) (setPredictor prec r) := fun _ h => h
@[simp] theorem stays_writeTable_coded (param : Nat → Reg Nat → Fin 31) (raw : Nat → Reg Nat → Fin 32) :
    ∀ cs i, Stays b (OnlyCoded d) (writeTable param raw cs i)
  | [], _ => stays_pure ()
  | _ :: rest, i => stays_bind (fun _ h => h) fun _ => stays_writeTable_coded param raw rest (i + 1)
@[simp] theorem stays_partSelect_coded (sel : Selections) : Stays b (OnlyCoded d) (partSelect sel) := by
  simp (maxDischargeDepth := 100) [partSelect, OnlyCoded]

@[simp] theorem stays_sfSelect_coded (sel : Selections) (c : Nat) : Stays b (OnlyCoded d) (sfSelect sel c) := by
  refine stays_bind (stays_needMode _) fun _ => stays_bind (stays_readReg _) fun _ => stays_bind (stays_readReg _) fun _ =>
    stays_bind (stays_check _ _) fun _ => stays_bind (stays_readReg _) fun _ => stays_bind (stays_readReg _) fun _ =>
    stays_bind (stays_readRow _ _) fun _ => stays_bind (fun _ h => h) fun _ => ?_
  split <;> simp (maxDischargeDepth := 100)

@[simp] theorem stays_sfEncode_coded (type : SfType) : Stays b (OnlyCoded d) (sfEncode type) := by
  cases type
  case constant => simp (maxDischargeDepth := 100) [sfEncode, sfEncConstant]
  case verbatim => simp (maxDischargeDepth := 100) [sfEncode, sfEncVerbatim]
  case fixed => simp (maxDischargeDepth := 100) [sfEncode, sfEncFixed]
  case lpc => simp (maxDischargeDepth := 100) [sfEncode, sfEncLpc]

theorem stays_assembleFrame_coded (sel : Selections) : Stays b (OnlyCoded d) (assembleFrame sel) := by
  have subframe (c : Nat) : Stays b (OnlyCoded d) (encodeSubframe sel c) := by simp [encodeSubframe]
  refine stays_bind (stays_look _) fun _ => stays_bind (stays_readReg _) fun _ => stays_bind (fun _ h => h) fun _ => ?_
  simp (maxDischargeDepth := 100) [subframe, OnlyCoded]

/-- Ahead of frame assembly nothing is appended to the output either. -/
def OnlyPrepared (d s : State) : Prop := OnlyCoded d s ∧ s.out = d.out

theorem stays_chooseAssignment_prepared (sel : Selections) (cfg : EncConfig) :
    Stays b (OnlyPrepared d) (chooseAssignment sel cfg) := by
  simp (maxDischargeDepth := 100) [chooseAssignment, stereoSelect, OnlyPrepared, OnlyCoded]

theorem stays_chDecorrFwd_prepared (ca : Nat) : Stays b (OnlyPrepared d) (chDecorrFwd ca) := by
  simp (maxDischargeDepth := 100) [chDecorrFwd, writeRow, OnlyPrepared, OnlyCoded]

/-! ### The length that frame assembly answers -/

theorem of_writeU_ok {n v : Nat} {a : Unit} (h : writeU n v s = .ok a t) : t.out.length = s.out.length + n := by
  unfold writeU at h
  split at h
  next n0 => cases h; omega
  next =>
    obtain ⟨_, h⟩ := of_check_bind_ok h
    cases h
    simp

/-- The answer is the number of bytes appended (R345). -/
theorem assembleFrame_length {sel : Selections} {len : Nat} (h : assembleFrame sel s = .ok len t) :
    len = t.out.length / 8 - s.out.length / 8 := by
  -- Configuration, numbering, header, channel count, subframes and padding go by; the answer is fixed ahead of the footer.
  obtain ⟨_, _, h⟩ := of_readReg_bind_ok h
  obtain ⟨_, _, _, h⟩ := of_bind_ok h
  obtain ⟨_, _, _, h⟩ := of_bind_ok h
  obtain ⟨_, _, h⟩ := of_readReg_bind_ok h
  obtain ⟨_, _, _, h⟩ := of_bind_ok h
  obtain ⟨_, u, _, h⟩ := of_bind_ok h
  obtain ⟨_, v, footer, h⟩ := of_bind_ok (x := writeU 16 _) h
  have longer := of_writeU_ok footer
  cases h
  rw [longer]
  dsimp only
  omega

/-! ### The block -/

section
variable {sel : Selections} {cfg : EncConfig} {blk : PcmIn} {rest : List PcmIn} {len : Nat}

/-- The block is taken from the queue into the registers (R343). -/
def State.blockLoaded (s : State) (cfg : EncConfig) (blk : PcmIn) (rest : List PcmIn) : State :=
  { s with
    pcmIn := rest
    smp := loadRows s.smp blk.samples
    fh := { s.fh with
      channels := some cfg.channels
      bps := some cfg.bps
      blocksize := some blk.blocksize
      sampleRate := some cfg.sampleRate
      valid := true } }

/-- The block is hashed as it was pushed (R206, R343). -/
def State.blockHashed (s : State) (cfg : EncConfig) (blk : PcmIn) (rest : List PcmIn) : State :=
  { s.blockLoaded cfg blk rest with md5 := md5Absorb s.md5 (hashBytes blk.samples blk.blocksize cfg.bps) }

theorem md5UpdatePcm_blockLoaded (acceptable : BlockAcceptable s cfg blk rest) :
    md5UpdatePcm (s.blockLoaded cfg blk rest) = .ok () (s.blockHashed cfg blk rest) := by
  obtain ⟨_, mode, _, hcfg, valid, _, _, _, _, _, count, rows, eight, going, _⟩ := acceptable
  have accepted := accepted_of_configError valid
  have sizes : ∀ row ∈ blk.samples, row.length = blk.blocksize := fun row mem => (rows row mem).1
  have fits : ∀ row ∈ blk.samples, ∀ v ∈ row, fitsS v cfg.bps := fun row mem => (rows row mem).2
  have loaded : Loaded cfg blk s (s.blockLoaded cfg blk rest) :=
    ⟨mode, hcfg, rfl, rfl, rfl, rfl, rfl, rfl, rfl, rfl⟩
  rw [md5UpdatePcm_run loaded.channels loaded.blocksize (.inr ⟨loaded.mode, cfg, loaded.config, rfl⟩) rfl
    (loaded.room accepted eight) (fun c hc => (loaded.row accepted eight count sizes hc).2), loaded.block accepted eight count sizes,
    check_bind_true _ _ _ fits]
  exact md5UpdateBytes_ok (s := s.blockLoaded cfg blk rest) going _

/-- Behind its hash the block is coded, and the answer is the number of bytes appended (R343 to R345). -/
theorem encodeBlock_onlyCoded (acceptable : BlockAcceptable s cfg blk rest) (run : encodeBlock sel cfg blk rest s = .ok len t) :
    OnlyCoded (s.blockHashed cfg blk rest) t ∧ len = t.out.length / 8 - s.out.length / 8 := by
  have behind : (chooseAssignment sel cfg >>= fun ca => chDecorrFwd ca >>= fun _ => assembleFrame sel : Op Nat)
      (s.blockHashed cfg blk rest) = .ok len t := (bind_ok (md5UpdatePcm_blockLoaded acceptable)).symm.trans run
  have start : OnlyPrepared (s.blockHashed cfg blk rest) (s.blockHashed cfg blk rest) := ⟨rfl, rfl⟩
  obtain ⟨ca, v, choose, behind⟩ := of_bind_ok behind
  obtain ⟨_, w, decorrelate, assemble⟩ := of_bind_ok behind
  have chosen := (stays_chooseAssignment_prepared (b := True) sel cfg).ok start choose
  obtain ⟨only, out⟩ := (stays_chDecorrFwd_prepared (b := True) ca).ok chosen decorrelate
  refine ⟨(stays_assembleFrame_coded (b := True) sel).ok only assemble, ?_⟩
  rw [assembleFrame_length assemble, out]
  rfl

/-- The counters after a frame; the largest size is a free value where it exceeds its width (R343). -/
theorem countFrame_eq (n len : Nat) (s : State) : ∃ largest, (len < 2 ^ 24 → largest = max s.encMaxFs len) ∧
    countFrame n len s =
      { s with
        encFrameNo := s.encFrameNo + 1, encSamples := s.encSamples + n, encMinFs := min s.encMinFs len, encMaxFs := largest } := by
  unfold countFrame
  split
  next => exact ⟨_, fun _ => rfl, rfl⟩
  next big => exact ⟨_, fun small => absurd small big, rfl⟩

theorem of_asIssued_ok {α : Type} {m : Op α} {a : α} (h : asIssued m s = .ok a t) : m s = .ok a t := by
  unfold asIssued at h
  split at h
  next run => rw [run, h]
  all_goals cases h

/-- An answer of `ENC_BLOCK` to a block it accepts, taken apart (R343). -/
theorem of_encBlock_ok (acceptable : BlockAcceptable s cfg blk rest) (run : encBlock sel s = .ok len t) :
    ∃ u, encodeBlock sel cfg blk rest s = .ok len u ∧ t = countFrame blk.blocksize len u := by
  obtain ⟨_, mode, ready, hcfg, _, queue, low, high, samples, frames, _, rows, _⟩ := acceptable
  rw [encBlock_run sel mode ready hcfg queue ⟨low, high⟩ ⟨samples, frames⟩ fun row mem => (rows row mem).2] at run
  obtain ⟨_, u, encoded, run⟩ := of_bind_ok run
  cases run
  exact ⟨u, of_asIssued_ok encoded, rfl⟩

end

/-! ### The frame in bytes -/

/-- The bytes of a whole frame (30_encoding.md R109). -/
def frameBytes (h : FrameHead) (ks : List CodedChannel) : List Byte :=
  let body := frameBody h ks (framePad h ks)
  body ++ [(crc16Of body).extractLsb' 8 8, (crc16Of body).extractLsb' 0 8]

theorem bytesBits_highLow (c : BitVec 16) : bytesBits [c.extractLsb' 8 8, c.extractLsb' 0 8] = natBits 16 c.toNat := by
  have high : c.extractLsb' 8 8 = BitVec.ofNat 8 (c.toNat / 256 ^ 1) := congrArg (BitVec.ofNat 8) (Nat.shiftRight_eq_div_pow ..)
  have low : c.extractLsb' 0 8 = BitVec.ofNat 8 (c.toNat / 256 ^ 0) := congrArg (BitVec.ofNat 8) (Nat.shiftRight_eq_div_pow ..)
  rw [high, low, ← bytesBits_beBytes 2]
  rfl

theorem bytesBits_frameBytes (h : FrameHead) (ks : List CodedChannel) : bytesBits (frameBytes h ks) = frameBits h ks := by
  rw [frameBytes, frameBits, bytesBits_append, bytesBits_highLow]

theorem crc16Of_frameBytes (h : FrameHead) (ks : List CodedChannel) : crc16Of (frameBytes h ks) = 0#16 :=
  crcOfGoodFrameIsZero.2 _

/-- Settles O47: the frame by `encBlock_frame`, its length by `assembleFrame_length`, the rest by `encodeBlock_onlyCoded`. -/
theorem encodingNeverFailsOnSampleContent : Obligations.EncodingNeverFailsOnSampleContent := by
  unfold Obligations.EncodingNeverFailsOnSampleContent
  intro s cfg blk rest acceptable
  obtain ⟨len, t, h, ks, run, out, _⟩ := encBlock_frame (sel := Config.selections) acceptable
  obtain ⟨u, encoded, rfl⟩ := of_encBlock_ok acceptable run
  obtain ⟨only, length⟩ := encodeBlock_onlyCoded acceptable encoded
  obtain ⟨largest, small, counted⟩ := countFrame_eq blk.blocksize len u
  rw [counted] at run out
  obtain ⟨live, _⟩ := acceptable
  have bits : u.out = s.out ++ bytesBits (frameBytes h ks) := out.trans (by rw [bytesBits_frameBytes])
  have frames : u.encFrameNo = s.encFrameNo := (congrArg State.encFrameNo only :)
  have samples : u.encSamples = s.encSamples := (congrArg State.encSamples only :)
  have least : u.encMinFs = s.encMinFs := (congrArg State.encMinFs only :)
  have most : u.encMaxFs = s.encMaxFs := (congrArg State.encMaxFs only :)
  refine ⟨_, len, frameBytes h ks, issue_ok live (bind_ok run), rfl, ?_, bits, congrArg State.pcmIn only, congrArg (· + 1) frames,
    congrArg (· + blk.blocksize) samples, congrArg (min · len) least, fun narrow => most ▸ small narrow, congrArg State.md5 only,
    crc16Of_frameBytes h ks, ?_⟩
  · rw [length, bits, List.length_append, bytesBits_length]
    omega
  · exact (congrArg (fun t : State =>
      { t with
        pcmIn := s.pcmIn, encFrameNo := s.encFrameNo, encSamples := s.encSamples, encMinFs := s.encMinFs
        encMaxFs := s.encMaxFs, md5 := s.md5, fh := s.fh, smp := s.smp, reply := s.reply }) only :)

end Sys2Proof.Machine

/-! PROOFS. The step that ends a resynchronisation (60_exceptions.md R380, R383). -/

namespace Sys2Proof.Machine

variable {s : State} {j : Nat}

/-! ### The scan for a sync code -/

theorem syncAt_iff (x y : Byte) : syncAt x y ↔ x = 0xFF#8 ∧ y.toNat / 4 = 0x3E := by
  have bits : bytesBits [x, y] = natBits 8 x.toNat ++ (natBits 6 (y.toNat / 4) ++ natBits 2 y.toNat) :=
    congrArg (natBits 8 x.toNat ++ ·) (natBits_add 6 2 y.toNat)
  have front : (bytesBits [x, y]).take 14 = natBits (8 + 6) (x.toNat * 2 ^ 6 + y.toNat / 4) := by
    rw [natBits_fields (by omega), bits, ← List.append_assoc]
    exact List.take_left' (by simp)
  have code : syncAt x y ↔ (x.toNat * 2 ^ 6 + y.toNat / 4) % 2 ^ 14 = 0x3FFE := by
    rw [← bitsNat_natBits, ← front]
    rfl
  rw [code, ← BitVec.toNat_inj]
  simp only [BitVec.toNat_ofNat]
  omega

/-- The sync code stands at byte `j` of `bs` (R383). -/
def SyncStands (bs : List Byte) (j : Nat) : Prop :=
  ∃ x y : Byte, bs[j]? = some x ∧ bs[j + 1]? = some y ∧ x = 0xFF#8 ∧ y.toNat / 4 = 0x3E

theorem syncStands_drop (bs : List Byte) (c k : Nat) : SyncStands (bs.drop c) k ↔ SyncStands bs (c + k) := by
  simp only [SyncStands, List.getElem?_drop, Nat.add_assoc]

theorem syncStands_zero (a b : Byte) (rest : List Byte) : SyncStands (a :: b :: rest) 0 ↔ syncAt a b := by
  simp [SyncStands, syncAt_iff]

theorem scanSync_here {bs : List Byte} (i : Nat) (here : SyncStands bs 0) : scanSync bs i = some i := by
  match bs, here with
  | a :: b :: rest, here => rw [scanSync, if_pos ((syncStands_zero a b rest).1 here)]

theorem scanSync_further {a : Byte} {bs : List Byte} (i : Nat) (other : ¬ SyncStands (a :: bs) 0) :
    scanSync (a :: bs) i = scanSync bs (i + 1) := by
  cases bs with
  | nil => rfl
  | cons b rest => rw [scanSync, if_neg (fun here => other ((syncStands_zero a b rest).2 here))]

/-- The scan finds the first sync code. -/
theorem scanSync_first : ∀ {bs : List Byte} {k : Nat} (i : Nat), SyncStands bs k → (∀ m, m < k → ¬ SyncStands bs m) →
    scanSync bs i = some (i + k)
  | _, 0, i, stands, _ => scanSync_here i stands
  | [], _ + 1, _, ⟨_, _, inside, _⟩, _ => by cases inside
  | _ :: bs, k + 1, i, stands, least => by
    rw [scanSync_further i (least 0 (Nat.succ_pos k)), scanSync_first (bs := bs) (i + 1) stands fun m less => least (m + 1) (by omega),
      Nat.add_right_comm, Nat.add_assoc]

theorem scanSync_none : ∀ {bs : List Byte} (i : Nat), (∀ k, ¬ SyncStands bs k) → scanSync bs i = none
  | [], _, _ => rfl
  | _ :: bs, i, nowhere => by
    rw [scanSync_further i (nowhere 0), scanSync_none (bs := bs) (i + 1) fun k => nowhere (k + 1)]

/-! ### The step -/

/-- A resynchronisation is reported and counted, its count within the width (R383). -/
def State.resynced (s : State) (stop : Nat) (how : ResyncHow) : State := { s with
  report := s.report ++ [.resync s.skipStart stop how]
  brPos := 8 * stop
  resyncs := s.resyncs + 1 }

theorem endResync_counted (counted : s.resyncs + 1 < 2 ^ 32) (stop : Nat) (how : ResyncHow) :
    endResync stop (8 * stop) how s = s.resynced stop how := by
  rw [endResync, if_pos counted, State.resynced]

theorem stepResync_found (counted : s.resyncs + 1 < 2 ^ 32) (behind : s.brPos ≤ 8 * j) (stands : SyncStands s.input j)
    (least : ∀ k, s.brPos ≤ 8 * k → k < j → ¬ SyncStands s.input k) :
    stepResync s = .ok () { s.resynced j .found with dstate := .synced } := by
  have place : (s.brPos + 7) / 8 + (j - (s.brPos + 7) / 8) = j := by omega
  have found := scanSync_first ((s.brPos + 7) / 8) ((syncStands_drop s.input _ _).2 (place.symm ▸ stands)) fun m less =>
    mt (syncStands_drop s.input _ m).1 (least _ (by omega) (by omega))
  rw [place] at found
  rw [stepResync, look_bind, look_bind, look_bind, found]
  dsimp only
  rw [update_run, endResync_counted counted]

/-- What follows a scan that finds nothing before the end of the input (R380, R383). -/
def resyncAtEnd (pos : Nat) : Op Unit := do
  let frames ← look State.framesOk
  if frames = 0 then fatal .noAudio pos else sequencerWork finishDecode

section
variable (nowhere : ∀ k, s.brPos ≤ 8 * k → ¬ SyncStands s.input k)
include nowhere

theorem scanSync_nowhere : scanSync (s.input.drop ((s.brPos + 7) / 8)) ((s.brPos + 7) / 8) = none :=
  scanSync_none _ fun k => mt (syncStands_drop s.input _ k).1 (nowhere _ (by omega))

theorem stepResync_holds (more : s.inEof = false) : stepResync s = .error .hold s := by
  rw [stepResync, look_bind, look_bind, look_bind, scanSync_nowhere nowhere, more]
  rfl

theorem stepResync_ends (counted : s.resyncs + 1 < 2 ^ 32) (ended : s.inEof = true) :
    stepResync s = resyncAtEnd (s.brPos / 8) (s.resynced s.input.length .eof) := by
  rw [stepResync, look_bind, look_bind, look_bind, scanSync_nowhere nowhere, ended, ← endResync_counted counted]
  rfl

end

theorem resyncAtEnd_noAudio (none_ : s.framesOk = 0) (pos : Nat) : resyncAtEnd pos s = .ok () (s.killed .noAudio pos) := by
  rw [resyncAtEnd, look_bind, if_pos none_]
  rfl

/-! ### The end of a partial decode -/

/-- Flags are sticky: setting one again changes nothing (R29). -/
theorem State.setFlag_of_flag {f : Flag} (set : s.flag f = true) : s.setFlag f = s := by
  have same : s.status ||| f.mask = s.status := by
    refine BitVec.eq_of_getLsbD_eq fun i inside => ?_
    rw [BitVec.getLsbD_or, Flag.mask, BitVec.getLsbD_ofNat, Nat.testBit_two_pow]
    by_cases here : f.bit = i
    · rw [← here, show s.status.getLsbD f.bit = true from set, Bool.true_or]
    · rw [decide_eq_false here, Bool.and_false, Bool.or_false]
  rw [State.setFlag, same]

/-- A decode that was partial before ends unverified, whatever the totals and the digest say (R385). -/
theorem State.concluded_partial (part : s.flag .partial_ = true) (si : StreamInfo) (digest : BitVec 128) :
    s.concluded si digest = enterDone .notVerified s := by
  have totals : checkTotals si s = s := by
    rw [checkTotals, State.setFlag_of_flag part, ite_self]
  rw [State.concluded, (s.verdictFor_iff si digest).1 (.inl (.inl part)), totals]
  rfl

theorem resyncAtEnd_done {si : StreamInfo} (some_ : s.framesOk ≠ 0) (info : s.si = some si) (going : s.md5.done = false)
    (part : s.flag .partial_ = true) (pos : Nat) : resyncAtEnd pos s = .ok () (enterDone .notVerified s.md5Closed) := by
  rw [resyncAtEnd, look_bind, if_neg some_, ← State.concluded_partial (s := s.md5Closed) part si s.finalDigest]
  exact asIssued_ok (finishDecode_going info going)

/-- Settles O44: the scan by `scanSync_first` and `scanSync_none`, the end of the input by `resyncAtEnd_noAudio` and `resyncAtEnd_done`. -/
theorem resyncScansToTheNextSyncCode : Obligations.ResyncScansToTheNextSyncCode := by
  unfold Obligations.ResyncScansToTheNextSyncCode
  intro s live mode state counted sync
  refine ⟨fun j behind stands least => ?_, fun nowhere => ⟨fun more => ?_, fun ended none_ => ?_, ?_⟩⟩
  · exact decStep_answers live mode state (stepResync_found counted behind stands least)
  · exact decStep_holds live mode state (stepResync_holds nowhere more)
  · have run := decStep_dies live mode state
      ((stepResync_ends nowhere counted ended).trans (resyncAtEnd_noAudio (s := s.resynced _ _) none_ _))
    have flags : s.status ||| 0x0420#16 = s.status ||| Flag.noAudio.mask ||| Flag.partial_.mask :=
      (BitVec.or_assoc s.status Flag.noAudio.mask Flag.partial_.mask).symm
    have report : s.report ++ [.resync s.skipStart s.input.length .eof, .exception 8 0 (s.brPos / 8),
        .final .notVerified 0 s.samplesOk (s.resyncs + 1)] =
        s.report ++ [.resync s.skipStart s.input.length .eof] ++ [.exception 8 0 (s.brPos / 8)] ++
          [.final .notVerified s.framesOk s.samplesOk (s.resyncs + 1)] := by
      simp [none_]
    rw [flags, report]
    exact run
  · rintro si e ended some_ info going part rfl
    have run := decStep_answers live mode state
      ((stepResync_ends nowhere counted ended).trans (resyncAtEnd_done (s := s.resynced _ _) some_ info going part _))
    rw [List.append_cons]
    exact run

end Sys2Proof.Machine
